-- ==== Sys2Proof/Word.lean ====
section
/-! DEFINITION. The word types of the W-880 (R6, R9, R15): all are bit vectors, so Lean's own laws apply. -/

-- One declaration after another: compiled as one text, the package then needs few threads and little memory.
set_option Elab.async false

namespace Sys2Proof

/-- An 8-bit byte, the smallest addressable unit (R6). -/
abbrev Byte := BitVec 8
/-- A 32-bit lane or scope register (R9, R161). -/
abbrev Word := BitVec 32
/-- A 64-bit pair, virtual address or F64 pattern (R6, R15). -/
abbrev Dword := BitVec 64

end Sys2Proof
end

