-- ==== Sys2Proof/Config.lean ====
section
/-! DEFINITION. What the spec leaves to the part, the vendor or chance: constants without a body, so that no proof can lean on a value. -/

namespace Sys2Proof.Config

/-- A free value: value number n of all the values the spec leaves open (log entry 4). -/
opaque freeValue : Nat → BitVec 64

/-- Which of several enabled steps comes next: choice number n (log entry 3). -/
opaque pick : Nat → Nat

/-- The halfwords of the vendor runtime, parcel 0 (R24, R324; log entry 5). -/
opaque runtimeCode : List (BitVec 16)

/-- The word of entry slot i of parcel 0, laid out as R323 states (log entry 5). -/
opaque runtimeSlot : Nat → BitVec 32

/-- The SHAKE256 hash of a vendor public key that the fuses of a key slot hold, and whether the slot's revocation fuse is blown (R422; log entry 6). -/
opaque keyFuse : Nat → BitVec 256
opaque keyRevoked : Nat → Bool

/-- The vendor public key of a key slot, as the vendor's firmware brings it (R422; log entry 6). -/
opaque vendorKey : Nat → BitVec 512

/-- The table version of a firmware image of this digest (R421, R423; log entry 6). -/
opaque firmwareVersion : BitVec 256 → Nat × Nat

/-- The attestation signature over a report (R423; log entry 6). -/
opaque attest : List (BitVec 256) → BitVec 256

/-- The identity fused into a die: the I/O die, base dies 1 to 4, compute dies 5 to 12 (R423; log entry 6). -/
opaque dieIdentity : Nat → BitVec 256

/-- The set of a home slice that holds a line (R206; log entry 92). -/
opaque llcSet : Nat → Nat

/-- The fixed offset, 0 or 1, with which a compute die reads the chip tick (R236; log entry 9). -/
opaque tickOffset : Nat → Bool

end Sys2Proof.Config
end

