-- ==== Sys2Proof/Machine/Float.lean ====
section
/-! DEFINITION. Floating arithmetic, bit by bit (02_numbers.md R27 to R47, 06 R121 to R133). A value is unpacked into sign, magnitude and
power of two; every operation computes the exact result over the integers and rounds it once. -/

namespace Sys2Proof.Machine

/-- A rounding mode (R29). -/
inductive Rm where
  | rne | rtz | rdn | rup
  deriving DecidableEq, Repr

/-- The rounding mode of a two-bit code (R29). -/
def Rm.ofCode (c : BitVec 2) : Rm := if c = 0 then .rne else if c = 1 then .rtz else if c = 2 then .rdn else .rup

/-- A standard layout: exponent bits and fraction bits (R27). -/
structure Fmt where
  e : Nat
  f : Nat
  deriving DecidableEq, Repr

def f64 : Fmt := ⟨11, 52⟩
def f32 : Fmt := ⟨8, 23⟩
def f16 : Fmt := ⟨5, 10⟩
def bf16 : Fmt := ⟨8, 7⟩

/-- The exponent bias (R27). -/
def Fmt.bias (k : Fmt) : Nat := 2 ^ (k.e - 1) - 1
/-- The exponent of the least significant bit of a subnormal. -/
def Fmt.lsb (k : Fmt) : Int := 1 - (k.bias : Int) - (k.f : Int)
/-- The pattern of infinity with sign 0. -/
def Fmt.infBits (k : Fmt) : Nat := (2 ^ k.e - 1) * 2 ^ k.f
/-- The canonical NaN (R27, R31). -/
def Fmt.nanBits (k : Fmt) : Nat := k.infBits + 2 ^ (k.f - 1)
/-- The sign bit in place. -/
def Fmt.signBit (k : Fmt) (neg : Bool) : Nat := if neg then 2 ^ (k.e + k.f) else 0

/-- An unpacked value: a NaN (signalling or quiet), an infinity, or (−1)^neg × m × 2^x. -/
inductive FVal where
  | nan (sig : Bool)
  | inf (neg : Bool)
  | fin (neg : Bool) (m : Nat) (x : Int)
  deriving DecidableEq, Repr

/-- Unpacks a pattern; with daz a subnormal reads as a zero of its sign (R30). -/
def Fmt.unpack (k : Fmt) (daz : Bool) (b : Nat) : FVal :=
  let fr := b % 2 ^ k.f
  let ex := b / 2 ^ k.f % 2 ^ k.e
  let neg := b / 2 ^ (k.e + k.f) % 2 == 1
  if ex = 2 ^ k.e - 1 then if fr = 0 then .inf neg else .nan (fr < 2 ^ (k.f - 1))
  else if ex = 0 then .fin neg (if daz then 0 else fr) k.lsb
  else .fin neg (fr + 2 ^ k.f) ((ex : Int) - 1 + k.lsb)

/-- The five exception flags in the order nv, dz, of, uf, nx from bit 0 (R28, R34). -/
abbrev Flags := BitVec 5
def nv : Flags := 1
def dz : Flags := 2
def ovf : Flags := 4
def unf : Flags := 8
def nx : Flags := 16

/-- A result pattern and the flags it raises. -/
structure FRes where
  bits : Nat
  flags : Flags
  deriving DecidableEq, Repr

/-- Whether the magnitude q + rem / 2^sh (with a further non-zero part when sticky) rounds away from q. -/
def roundsUp (rm : Rm) (neg : Bool) (q rem sh : Nat) (sticky : Bool) : Bool :=
  let inexact := rem != 0 || sticky
  match rm with
  | .rne =>
    let twice := 2 * rem
    let unit := 2 ^ sh
    unit < twice || (twice == unit && (sticky || q % 2 == 1))
  | .rtz => false
  | .rdn => neg && inexact
  | .rup => !neg && inexact

/-- The magnitude m × 2^x cut at the power of two p ≥ x, rounded: the integer multiple of 2^p and whether anything was lost. -/
def cut (rm : Rm) (neg : Bool) (m : Nat) (x p : Int) (sticky : Bool) : Nat × Bool :=
  if p ≤ x then (m * 2 ^ (x - p).toNat, sticky)
  else
    let sh := (p - x).toNat
    let q := m / 2 ^ sh
    let rem := m % 2 ^ sh
    (if roundsUp rm neg q rem sh sticky then q + 1 else q, rem != 0 || sticky)

/-- The overflow result of R32. -/
def Fmt.overflow (k : Fmt) (rm : Rm) (neg : Bool) : Nat :=
  let big := k.infBits - 1
  k.signBit neg + match rm with
    | .rne => k.infBits
    | .rtz => big
    | .rdn => if neg then k.infBits else big
    | .rup => if neg then big else k.infBits

/-- Rounds (−1)^neg × m × 2^x, plus a non-zero part below m's last bit when sticky, to the format (R29, R30, R32, R34). A sticky
value must carry at least three bits more than the format's precision. -/
def Fmt.round (k : Fmt) (rm : Rm) (ftz : Bool) (neg : Bool) (m : Nat) (x : Int) (sticky : Bool := false) : FRes :=
  if m = 0 then ⟨k.signBit neg, 0⟩
  else
    let top : Int := (m.log2 : Int) + x
    let emin : Int := k.lsb + (k.f : Int)
    let p := max (top - (k.f : Int)) k.lsb
    let (r, lost) := cut rm neg m x p sticky
    let tiny := top < emin && (cut rm neg m x (top - (k.f : Int)) sticky).1 < 2 ^ (k.f + (emin - top).toNat)
    let bits := if r < 2 ^ k.f then r else r - 2 ^ k.f + ((p - k.lsb).toNat + 1) * 2 ^ k.f
    if k.infBits ≤ bits then ⟨k.overflow rm neg, ovf ||| nx⟩
    else if ftz && r < 2 ^ k.f && r != 0 then ⟨k.signBit neg, unf ||| nx⟩
    else ⟨k.signBit neg + bits, (if lost then nx else 0) ||| (if tiny && lost then unf else 0)⟩

/-- The rounding controls of fpctl (R28). -/
structure FEnv where
  rm : Rm
  ftz : Bool
  daz : Bool
  deriving DecidableEq, Repr

/-- The environment of DOT, REDU, SCAN, MMA and XRND: RNE, subnormals honoured (R29, R30). -/
def FEnv.plain : FEnv := ⟨.rne, false, false⟩

/-- The signed integer of a sign and a magnitude. -/
def signed (neg : Bool) (m : Nat) : Int := if neg then -(m : Int) else (m : Int)

/-- The exact sum of two scaled integers. -/
def addExact (a : Int) (x : Int) (b : Int) (y : Int) : Int × Int :=
  if x ≤ y then (a + b * 2 ^ (y - x).toNat, x) else (a * 2 ^ (x - y).toNat + b, y)

/-- Rounds an exact scaled integer; a zero takes the sign that the caller gives. -/
def Fmt.roundInt (k : Fmt) (env : FEnv) (v : Int) (x : Int) (zeroNeg : Bool) : FRes :=
  if v = 0 then ⟨k.signBit zeroNeg, 0⟩ else k.round env.rm env.ftz (v < 0) v.natAbs x

/-- The NaN result; nv when the condition holds (R31). -/
def Fmt.nanRes (k : Fmt) (invalid : Bool) : FRes := ⟨k.nanBits, if invalid then nv else 0⟩

/-- Whether a value is a signalling NaN. -/
def FVal.sig : FVal → Bool
  | .nan s => s
  | _ => false

def FVal.isNan : FVal → Bool
  | .nan _ => true
  | _ => false

def FVal.isZero : FVal → Bool
  | .fin _ m _ => m == 0
  | _ => false

def FVal.neg : FVal → FVal
  | .nan s => .nan s
  | .inf n => .inf (!n)
  | .fin n m x => .fin (!n) m x

/-- The exact product of two values that are no NaN and not 0 × ∞; 0 × ∞ answers a quiet NaN. -/
def FVal.mul : FVal → FVal → FVal
  | .fin n m x, .fin n' m' x' => .fin (n != n') (m * m') (x + x')
  | .inf n, .inf n' => .inf (n != n')
  | .inf n, .fin n' m _ => if m = 0 then .nan false else .inf (n != n')
  | .fin n m _, .inf n' => if m = 0 then .nan false else .inf (n != n')
  | _, _ => .nan false

/-- The rounded sum of two values (R32); `invalid` says that an operand already raised nv. -/
def Fmt.addV (k : Fmt) (env : FEnv) (invalid : Bool) (a b : FVal) : FRes :=
  match a, b with
  | .nan s, .nan t => k.nanRes (invalid || s || t)
  | .nan s, _ => k.nanRes (invalid || s)
  | _, .nan t => k.nanRes (invalid || t)
  | .inf n, .inf n' => if n = n' then ⟨k.signBit n + k.infBits, if invalid then nv else 0⟩ else k.nanRes true
  | .inf n, _ => ⟨k.signBit n + k.infBits, if invalid then nv else 0⟩
  | _, .inf n => ⟨k.signBit n + k.infBits, if invalid then nv else 0⟩
  | .fin n m x, .fin n' m' x' =>
    let (v, y) := addExact (signed n m) x (signed n' m') x'
    k.roundInt env v y (if n = n' then n else env.rm = .rdn)

/-- Addition of two patterns (R121). -/
def Fmt.add (k : Fmt) (env : FEnv) (a b : Nat) : FRes := k.addV env false (k.unpack env.daz a) (k.unpack env.daz b)

/-- Subtraction (R121). -/
def Fmt.sub (k : Fmt) (env : FEnv) (a b : Nat) : FRes := k.addV env false (k.unpack env.daz a) (k.unpack env.daz b).neg

/-- Whether a product is 0 × ∞. -/
def zeroTimesInf : FVal → FVal → Bool
  | .inf _, .fin _ m _ => m == 0
  | .fin _ m _, .inf _ => m == 0
  | _, _ => false

/-- Multiplication (R121). -/
def Fmt.mul (k : Fmt) (env : FEnv) (a b : Nat) : FRes :=
  let va := k.unpack env.daz a
  let vb := k.unpack env.daz b
  if va.isNan || vb.isNan then k.nanRes (va.sig || vb.sig)
  else if zeroTimesInf va vb then k.nanRes true
  else match va.mul vb with
    | .inf n => ⟨k.signBit n + k.infBits, 0⟩
    | .fin n m x => k.round env.rm env.ftz n m x
    | .nan _ => k.nanRes true

/-- a × b + c with one rounding; `negC` subtracts c (R121). 0 × ∞ raises nv even when c is a quiet NaN. -/
def Fmt.fma (k : Fmt) (env : FEnv) (negC : Bool) (a b c : Nat) : FRes :=
  let va := k.unpack env.daz a
  let vb := k.unpack env.daz b
  let vc := if negC then (k.unpack env.daz c).neg else k.unpack env.daz c
  if va.isNan || vb.isNan || vc.isNan || zeroTimesInf va vb then
    k.nanRes (va.sig || vb.sig || vc.sig || zeroTimesInf va vb)
  else k.addV env false (va.mul vb) vc

/-- Division (R121, R32). -/
def Fmt.div (k : Fmt) (env : FEnv) (a b : Nat) : FRes :=
  match k.unpack env.daz a, k.unpack env.daz b with
  | .nan s, .nan t => k.nanRes (s || t)
  | .nan s, _ => k.nanRes s
  | _, .nan t => k.nanRes t
  | .inf _, .inf _ => k.nanRes true
  | .inf n, .fin n' _ _ => ⟨k.signBit (n != n') + k.infBits, 0⟩
  | .fin n _ _, .inf n' => ⟨k.signBit (n != n'), 0⟩
  | .fin n m x, .fin n' m' x' =>
    if m' = 0 then if m = 0 then k.nanRes true else ⟨k.signBit (n != n') + k.infBits, dz⟩
    else if m = 0 then ⟨k.signBit (n != n'), 0⟩
    else
      let up := (k.f + 4 + m'.log2) - m.log2
      let num := m * 2 ^ up
      k.round env.rm env.ftz (n != n') (num / m') (x - x' - (up : Int)) (num % m' != 0)

/-- The integer square root by bits: the largest r with r² ≤ n, r < 2^fuel. -/
def isqrtGo : Nat → Nat → Nat → Nat
  | 0, _, r => r
  | fuel + 1, n, r =>
    let c := r + 2 ^ fuel
    isqrtGo fuel n (if c * c ≤ n then c else r)

/-- The integer square root (rounded down). -/
def isqrt (n : Nat) : Nat := isqrtGo (n.log2 / 2 + 1) n 0

/-- Square root (R122, R32). -/
def Fmt.sqrt (k : Fmt) (env : FEnv) (a : Nat) : FRes :=
  match k.unpack env.daz a with
  | .nan s => k.nanRes s
  | .inf n => if n then k.nanRes true else ⟨k.infBits, 0⟩
  | .fin n m x =>
    if m = 0 then ⟨k.signBit n, 0⟩
    else if n then k.nanRes true
    else
      let up0 := 2 * (k.f + 4)
      let up := if (x - (up0 : Int)) % 2 = 0 then up0 else up0 + 1
      let num := m * 2 ^ up
      let r := isqrt num
      k.round env.rm env.ftz false r ((x - (up : Int)) / 2) (r * r != num)

/-- The transcendental environment: RNE whatever rm holds, with daz and ftz (R29, R123). -/
def FEnv.trans (env : FEnv) : FEnv := { env with rm := .rne }

/-- The reciprocal of an F32 (R123). -/
def frcp (env : FEnv) (a : Nat) : FRes := f32.div env.trans 0x3F800000 a

/-- The reciprocal square root of an F32 (R123). -/
def frsq (env : FEnv) (a : Nat) : FRes :=
  match f32.unpack env.daz a with
  | .nan s => f32.nanRes s
  | .inf n => if n then f32.nanRes true else ⟨0, 0⟩
  | .fin n m x =>
    if m = 0 then ⟨f32.signBit n + f32.infBits, dz⟩
    else if n then f32.nanRes true
    else
      let m' := if x % 2 = 0 then m else 2 * m
      let x' := if x % 2 = 0 then x else x - 1
      let num := 2 ^ 128
      let r := isqrt (num / m')
      f32.round .rne env.ftz false r (-(x' / 2) - 64) (r * r * m' != num)

/-- The natural logarithm of 2, times 2^192, rounded down. -/
def ln2Fixed : Nat := 0xB17217F7D1CF79ABC9E3B39803F2F6AF40F343267298B62D

/-- The exponential series from the term t = y^k / k! on, in fixed point with 192 fraction bits. -/
def expGo : Nat → Nat → Nat → Nat → Nat → Nat
  | 0, _, _, _, acc => acc
  | fuel + 1, y, k, t, acc =>
    let t' := t * y / 2 ^ 192 / (k + 1)
    expGo fuel y (k + 1) t' (acc + t')

/-- 2^(fr / 2^192) times 2^192, for fr < 2^192, to within 2^-180. -/
def exp2Fixed (fr : Nat) : Nat := expGo 48 (fr * ln2Fixed / 2 ^ 192) 0 (2 ^ 192) (2 ^ 192)

/-- 2^a (R123): exact for an integer a, else irrational, so that the fixed-point value with a sticky part rounds as the exact one
does (PRESUMED that 180 bits decide every F32 input; log entry 8). -/
def fex2 (env : FEnv) (a : Nat) : FRes :=
  match f32.unpack env.daz a with
  | .nan s => f32.nanRes s
  | .inf n => if n then ⟨0, 0⟩ else ⟨f32.infBits, 0⟩
  | .fin n m x =>
    if m = 0 then ⟨0x3F800000, 0⟩
    else if 8 ≤ (m.log2 : Int) + x then f32.round .rne env.ftz false 1 (if n then -512 else 512)
    else
      -- the exponent as a multiple of 2^-192, rounded toward −∞
      let mag := if -192 ≤ x then m * 2 ^ (x + 192).toNat else m / 2 ^ (-192 - x).toNat
      let lost := x < -192 && m % 2 ^ (-192 - x).toNat != 0
      let v : Int := if n then -((mag + (if lost then 1 else 0) : Nat) : Int) else (mag : Int)
      let i := v / (2 ^ 192 : Int)
      let fr := (v % (2 ^ 192 : Int)).toNat
      if fr = 0 && !lost then f32.round .rne env.ftz false 1 i
      else f32.round .rne env.ftz false (exp2Fixed fr) (i - 192) true

/-- The binary digits of log2 of y / 2^256, y from 2^256 below 2^257, by repeated squaring. -/
def log2Go : Nat → Nat → Nat → Nat
  | 0, _, acc => acc
  | fuel + 1, y, acc =>
    let z := y * y / 2 ^ 256
    if 2 ^ 257 ≤ z then log2Go fuel (z / 2) (2 * acc + 1) else log2Go fuel z (2 * acc)

/-- log2 a (R123): exact for a power of two, else irrational (PRESUMED that 120 binary places decide every F32 input; log entry 8). -/
def flg2 (env : FEnv) (a : Nat) : FRes :=
  match f32.unpack env.daz a with
  | .nan s => f32.nanRes s
  | .inf n => if n then f32.nanRes true else ⟨f32.infBits, 0⟩
  | .fin n m x =>
    if m = 0 then ⟨f32.signBit true + f32.infBits, dz⟩
    else if n then f32.nanRes true
    else
      let i : Int := (m.log2 : Int) + x
      if m = 2 ^ m.log2 then f32.roundInt env.trans i 0 false
      else
        let fr := log2Go 120 (m * 2 ^ (256 - m.log2)) 0
        -- the value lies strictly between (i × 2^120 + fr) and that plus one, in units of 2^-120
        let v : Int := i * 2 ^ 120 + (fr : Int)
        if v < 0 then f32.round .rne env.ftz true ((-v - 1).toNat) (-120) true
        else f32.round .rne env.ftz false v.toNat (-120) true

/-- The key that orders finite patterns and infinities, −0 below +0 (R33). -/
def Fmt.key (k : Fmt) (b : Nat) : Int :=
  let s := 2 ^ (k.e + k.f)
  if s ≤ b then -((b - s : Nat) : Int) - 1 else (b : Int)

/-- A subnormal pattern replaced by a zero of its sign when daz is set (R30). -/
def Fmt.dazBits (k : Fmt) (daz : Bool) (b : Nat) : Nat :=
  if daz && b / 2 ^ k.f % 2 ^ k.e == 0 then b / 2 ^ (k.e + k.f) * 2 ^ (k.e + k.f) else b

/-- FMIN and FMAX (R33, R121). -/
def Fmt.minmax (k : Fmt) (daz : Bool) (wantMax : Bool) (a b : Nat) : FRes :=
  let a := k.dazBits daz a
  let b := k.dazBits daz b
  let va := k.unpack false a
  let vb := k.unpack false b
  let fl : Flags := if va.sig || vb.sig then nv else 0
  if va.isNan && vb.isNan then ⟨k.nanBits, fl⟩
  else if va.isNan then ⟨b, fl⟩
  else if vb.isNan then ⟨a, fl⟩
  else if (k.key a ≤ k.key b) = wantMax then ⟨b, fl⟩ else ⟨a, fl⟩

/-- FCMP and DCMP by condition code (R74, R124): the truth value and the flags. -/
def Fmt.cmp (k : Fmt) (daz : Bool) (c : BitVec 3) (a b : Nat) : Bool × Flags :=
  let va := k.unpack daz a
  let vb := k.unpack daz b
  let ordered := c.toNat = 2 || c.toNat = 3 || c.toNat = 4 || c.toNat = 5
  if va.isNan || vb.isNan then (c = 1 || c = 6, if va.sig || vb.sig || ordered then nv else 0)
  else
    -- −0 and +0 compare equal
    let key (v : FVal) (p : Nat) : Int := if v.isZero then 0 else k.key p
    let x := key va a
    let y := key vb b
    (match c.toNat with
      | 0 => x = y
      | 1 => x ≠ y
      | 2 => x < y
      | 3 => x ≤ y
      | 4 => y < x
      | 5 => y ≤ x
      | _ => false, 0)

/-- FABS and FNEG (R122): after daz; a NaN gives the canonical NaN; no flags. -/
def Fmt.absneg (k : Fmt) (daz : Bool) (negate : Bool) (a : Nat) : Nat :=
  let a := k.dazBits daz a
  let s := 2 ^ (k.e + k.f)
  if (k.unpack false a).isNan then k.nanBits
  else if negate then if s ≤ a then a - s else a + s
  else a % s

/-- FCLASS (R125). -/
def fclass (a : Nat) : Nat :=
  let neg := 2 ^ 31 ≤ a
  match f32.unpack false a with
  | .nan s => if s then 2 ^ 8 else 2 ^ 9
  | .inf n => if n then 1 else 2 ^ 7
  | .fin _ m _ =>
    if m = 0 then if neg then 2 ^ 3 else 2 ^ 4
    else if m < 2 ^ 23 then if neg then 2 ^ 2 else 2 ^ 5
    else if neg then 2 else 2 ^ 6

/-- A float rounded to an integer of the given width (R36): out of range gives the minimum or maximum, a NaN 0. -/
def toInt (k : Fmt) (daz : Bool) (rm : Rm) (isSigned : Bool) (w : Nat) (a : Nat) : FRes :=
  let lo : Int := if isSigned then -(2 ^ (w - 1) : Nat) else 0
  let hi : Int := if isSigned then (2 ^ (w - 1) : Nat) - 1 else (2 ^ w : Nat) - 1
  let pat (v : Int) : Nat := (v % (2 ^ w : Nat)).toNat
  match k.unpack daz a with
  | .nan _ => ⟨0, nv⟩
  | .inf n => ⟨pat (if n then lo else hi), nv⟩
  | .fin n m x =>
    let (r, lost) := cut rm n m x 0 false
    let v := signed n r
    if v < lo then ⟨pat lo, nv⟩ else if hi < v then ⟨pat hi, nv⟩ else ⟨pat v, if lost then nx else 0⟩

/-- A float converted to another float format (R36); between the two 16-bit formats, of which each has fewer bits of one field, `sat` acts as
it does for a narrower one (DESIGN CHOICE, log entry 101). -/
def toFloat (k k' : Fmt) (env : FEnv) (sat : Bool) (a : Nat) : FRes :=
  match k.unpack env.daz a with
  | .nan s => k'.nanRes s
  | .inf n =>
    let narrower := k'.e < k.e || k'.f < k.f
    ⟨k'.signBit n + (if sat && narrower then k'.infBits - 1 else k'.infBits), 0⟩
  | .fin n m x =>
    let r := k'.round env.rm env.ftz n m x
    if sat && r.flags &&& ovf != 0 then ⟨k'.signBit n + (k'.infBits - 1), ovf ||| nx⟩ else r

/-! ### Narrow formats (R37 to R40) -/

/-- A narrow floating format of R37. -/
inductive Narrow where
  | e4m3 | e5m2 | e2m1 | e8m0
  deriving DecidableEq, Repr

/-- The exact value of a narrow element (R37). -/
def Narrow.unpack (k : Narrow) (b : Nat) : FVal :=
  match k with
  | .e4m3 => if b % 128 = 127 then .nan false else .fin (b / 128 % 2 == 1) (small 3 7 (b % 128)).1 (small 3 7 (b % 128)).2
  | .e5m2 => (⟨5, 2⟩ : Fmt).unpack false (b % 256)
  | .e2m1 => .fin (b / 8 % 2 == 1) (small 1 1 (b % 8)).1 (small 1 1 (b % 8)).2
  | .e8m0 => if b % 256 = 255 then .nan false else .fin false 1 ((b % 256 : Nat) - 127)
where
  /-- Magnitude and exponent of an unsigned pattern with `f` fraction bits and the given bias. -/
  small (f bias p : Nat) : Nat × Int :=
    let ex := p / 2 ^ f
    let fr := p % 2 ^ f
    if ex = 0 then (fr, 1 - (bias : Int) - (f : Int)) else (fr + 2 ^ f, (ex : Int) - (bias : Int) - (f : Int))

/-- The largest finite pattern, fraction bits, lsb exponent, sign place of E4M3, E5M2 and E2M1 (R37). -/
def Narrow.shape : Narrow → Nat × Nat × Int × Nat
  | .e4m3 => (0x7E, 3, -9, 128)
  | .e5m2 => (0x7B, 2, -16, 128)
  | .e2m1 => (7, 1, -1, 8)
  | .e8m0 => (0xFE, 0, 0, 256)

/-- PKN's conversion of an F32 to E4M3, E5M2 or E2M1 (R39). -/
def Narrow.ofF32 (k : Narrow) (a : Nat) : Nat :=
  let (big, f, lsb, sgn) := k.shape
  let s (n : Bool) : Nat := if n then sgn else 0
  match f32.unpack false a with
  | .nan _ => match k with
    | .e4m3 => 0x7F
    | .e5m2 => 0x7E
    | _ => 0
  | .inf n => s n + big
  | .fin n m x =>
    if m = 0 then s n
    else
      let top : Int := (m.log2 : Int) + x
      let p := max (top - (f : Int)) lsb
      let (r, _) := cut .rne n m x p false
      let bits := if r < 2 ^ f then r else r - 2 ^ f + ((p - lsb).toNat + 1) * 2 ^ f
      s n + min bits big

/-- PKN's conversion of an F32 to S8 (R39). -/
def s8OfF32 (a : Nat) : Nat :=
  match f32.unpack false a with
  | .nan _ => 0
  | .inf n => if n then 0x80 else 0x7F
  | .fin n m x =>
    let (r, _) := cut .rne n m x 0 false
    let v := signed n r
    let c := if v < -128 then -128 else if 127 < v then 127 else v
    (c % 256).toNat

/-- UPKN's exact widening to F32 (R40). -/
def Narrow.toF32 (k : Narrow) (b : Nat) : Nat :=
  match k.unpack b with
  | .nan _ => f32.nanBits
  | .inf n => f32.signBit n + f32.infBits
  | .fin n m x => (f32.round .rne false n m x).bits

/-- SCALE: an F32 times 2^(e − 127) (R41, R131). -/
def fscale (env : FEnv) (a e : Nat) : FRes :=
  if e = 255 then ⟨f32.nanBits, nv⟩
  else match f32.unpack env.daz a with
    | .nan s => f32.nanRes s
    | .inf n => ⟨f32.signBit n + f32.infBits, 0⟩
    | .fin n m x => f32.round env.rm env.ftz n m (x + (e : Int) - 127)

/-! ### Exact sums (R43, R133) -/

/-- A running exact sum: special values seen, the scaled integer, and whether every term so far is −0. -/
structure ExactSum where
  nan : Bool := false
  pinf : Bool := false
  ninf : Bool := false
  v : Int := 0
  x : Int := 0
  allNegZero : Bool := true
  deriving DecidableEq, Repr

/-- Adds one exact term. -/
def ExactSum.push (s : ExactSum) (t : FVal) : ExactSum :=
  match t with
  | .nan _ => { s with nan := true, allNegZero := false }
  | .inf n => if n then { s with ninf := true, allNegZero := false } else { s with pinf := true, allNegZero := false }
  | .fin n m x =>
    let (v, y) := addExact s.v s.x (signed n m) x
    { s with v := if m = 0 then s.v else v, x := if m = 0 then s.x else y, allNegZero := s.allNegZero && n && m == 0 }

/-- The sum rounded once to a format, with the special cases in the order of R133. -/
def ExactSum.round (k : Fmt) (s : ExactSum) : Nat :=
  if s.nan || (s.pinf && s.ninf) then k.nanBits
  else if s.pinf then k.infBits
  else if s.ninf then k.signBit true + k.infBits
  else (k.roundInt .plain s.v s.x s.allNegZero).bits

/-- A DOT form's sum: the products of the paired elements and the addend, one rounding to F32 (R132, R133). -/
def dotF (elems : List (FVal × FVal)) (addend : Nat) : Nat :=
  let sum := elems.foldl (fun (s : ExactSum) (p : FVal × FVal) =>
    s.push (if p.1.isNan || p.2.isNan then .nan false else p.1.mul p.2)) {}
  (sum.push (f32.unpack false addend)).round f32

/-! ### The exact accumulator (R45 to R48) -/

/-- An exact accumulator: the 4,352-bit integer and the three sticky flags (R45). -/
structure Acc where
  v : BitVec 4352
  pinf : Bool
  ninf : Bool
  nan : Bool
  deriving DecidableEq, Repr

/-- The cleared accumulator (R45). -/
def Acc.zero : Acc := ⟨0, false, false, false⟩

/-- AccAdd (R46): adds an exact term. -/
def Acc.add (a : Acc) (t : FVal) : Acc :=
  match t with
  | .nan _ => { a with nan := true }
  | .inf n => if n then { a with ninf := true } else { a with pinf := true }
  | .fin n m x =>
    let d := m * 2 ^ (x + 2200).toNat
    { a with v := a.v + BitVec.ofInt 4352 (signed n d) }

/-- Adds one accumulator to another: XADDM's sum of images (R248). -/
def Acc.merge (a b : Acc) : Acc := ⟨a.v + b.v, a.pinf || b.pinf, a.ninf || b.ninf, a.nan || b.nan⟩

/-- XRnd (R47). -/
def Acc.round (a : Acc) : FRes :=
  if a.nan || (a.pinf && a.ninf) then ⟨f64.nanBits, nv⟩
  else if a.pinf then ⟨f64.infBits, 0⟩
  else if a.ninf then ⟨f64.signBit true + f64.infBits, 0⟩
  else f64.roundInt .plain a.v.toInt (-2200) false

/-- An F64 term of XACCF and XACC. -/
def accTerm (b : BitVec 64) : FVal := f64.unpack false b.toNat

/-- The exact product of XFMA; 0 × ∞ is a NaN (R46). -/
def accProduct (a b : BitVec 64) : FVal :=
  let va := accTerm a
  let vb := accTerm b
  if va.isNan || vb.isNan then .nan false else va.mul vb

end Sys2Proof.Machine
end

