-- ==== Sys2Proof/Machine/Map.lean ====
section
/-! DEFINITION. Finite maps on natural keys, held as lists of pairs with rising keys. Every table of the machine (lanes of a warp,
registers of a lane, warps, blocks, bytes of memory) is one, so that equal contents are equal data. -/

namespace Sys2Proof.Machine

/-- A finite map: pairs of key and value, keys rising. -/
abbrev Map (α : Type) := List (Nat × α)

namespace Map

/-- The value at a key, if the map lists the key. -/
def get? {α : Type} : Map α → Nat → Option α
  | [], _ => none
  | (j, u) :: r, k => if j = k then some u else get? r k

/-- The value at a key, or a default where the map does not list it. -/
def getD {α : Type} (m : Map α) (k : Nat) (d : α) : α := (get? m k).getD d

/-- Sets the value at a key, at its place in the order. -/
def put {α : Type} : Map α → Nat → α → Map α
  | [], k, v => [(k, v)]
  | (j, u) :: r, k, v => if k < j then (k, v) :: (j, u) :: r else if k = j then (k, v) :: r else (j, u) :: put r k v

/-- Removes a key. -/
def del {α : Type} (m : Map α) (k : Nat) : Map α := m.filter (fun p => p.1 != k)

/-- Sets the value at a key, keeping no entry for the default value. -/
def setD {α : Type} [DecidableEq α] (m : Map α) (k : Nat) (v d : α) : Map α := if v = d then del m k else put m k v

/-- Changes the value at a key that the map lists; other maps stay as they are. -/
def upd {α : Type} (m : Map α) (k : Nat) (f : α → α) : Map α :=
  match get? m k with
  | some v => put m k (f v)
  | none => m

/-- The least key, above every key of the map: a fresh name. -/
def fresh {α : Type} : Map α → Nat
  | [] => 1
  | (j, _) :: r => max (j + 1) (fresh r)

/-- Whether the map lists the key. -/
def has {α : Type} (m : Map α) (k : Nat) : Bool := (get? m k).isSome

/-- The keys whose value passes a test, rising. -/
def keysWhere {α : Type} (m : Map α) (p : Nat → α → Bool) : List Nat := (m.filter (fun x => p x.1 x.2)).map (·.1)

/-- The first value that passes a test, with its key. -/
def find? {α : Type} (m : Map α) (p : Nat → α → Bool) : Option (Nat × α) := List.find? (fun x => p x.1 x.2) m

/-- Applies a function to every value. -/
def mapV {α : Type} (m : Map α) (f : Nat → α → α) : Map α := m.map (fun x => (x.1, f x.1 x.2))

end Map
end Sys2Proof.Machine
end

