-- ==== Sys2Proof/Syntax.lean ====
section
/-! DEFINITION. The instructions of the W-880: one constructor per row of spec/opcode_table.json. The first 264 constructors are
the encoded instructions of R65 to R83; the last 86 are the table's device events, whole steps of the part that no word encodes
(a load that arrives, a barrier that completes, a doorbell write). Operand fields keep the names of the opcode table. -/

namespace Sys2Proof

/-- A 32-bit source field with its scope bit (sa or sb) and its e-bit (R70, R71). -/
structure Src where
  r : BitVec 6
  s : Bool
  e : Bool
  deriving DecidableEq, Repr

/-- A lane-register, pair or quad source field with its e-bit (R70, R71). -/
structure RegE where
  r : BitVec 6
  e : Bool
  deriving DecidableEq, Repr

/-- What an uncorrectable error strikes (R375): a core, a line's way, a slice, or a 64 KiB page of HBM. -/
inductive FailUnit where
  | core (c : Nat)
  | line (pa : BitVec 48)
  | slice (s : Nat) (lines : List Nat)
  | page (pa : BitVec 48)
  deriving DecidableEq, Repr

/-- What a Relay peer asks of this device's memory (R412): a load, a store or an atomic with its aop (R79). -/
inductive PeerOp where
  | load
  | store
  | atomic (aop : BitVec 5) (cmp : BitVec 64)
  deriving DecidableEq, Repr

/-- Which engine command a firmware reply is for (R290, R301, R313, R331, R350): a copy or gather, a DRAIN under way, or the command
that a core's matrix unit, walker, parcel engine or address engine is at; in the image of a saved block, its n-th matrix command, its walks or
its address engine (R314, R371, R380). -/
inductive EngineRef where
  | copy (k : Nat)
  | drain (k : Nat)
  | matrix (c : Nat)
  | walker (c : Nat)
  | parcel (c : Nat)
  | address (c : Nat)
  | savedMatrix (b n : Nat)
  | savedWalk (b : Nat)
  | savedAddress (b : Nat)
  deriving DecidableEq, Repr

/-- What goes with signed code: the public key and the signature (R422). -/
structure Cert where
  key : BitVec 512
  sig : List (BitVec 8)
  deriving DecidableEq, Repr

/-- Signed firmware of a complex (R422). -/
structure SignedCode where
  code : List (BitVec 8)
  cert : Cert
  deriving DecidableEq, Repr

/-- What a debugger writes in a parked warp (R386): a lane's register, predicate, resume address, or special register by its number (R104). -/
inductive DebugWrite where
  | reg (lane : Nat) (r : BitVec 6) (v : BitVec 32)
  | pred (lane : Nat) (p : BitVec 3) (v : Bool)
  | resume (lane : Nat) (pc : BitVec 32)
  | sr (lane n : Nat) (v : BitVec 32)
  deriving DecidableEq, Repr

/-- A debugger's resume of a parked warp, with what it writes there first (R386). -/
structure DebugTurn where
  warp : Nat
  writes : List DebugWrite
  deriving DecidableEq, Repr

/-- A firmware reply that resumes suspended lanes: their mask, and the resume addresses that it has written, by lane (R367). -/
structure Resumption where
  mask : BitVec 32
  pcs : List (Nat × BitVec 32)
  deriving DecidableEq, Repr

/-- One instruction or device event. -/
inductive Instr where
  -- class 0, integer (R73)
  | add (d : BitVec 6) (a : Src) (b : Src)
  | sub (d : BitVec 6) (a : Src) (b : Src)
  | mul (d : BitVec 6) (a : Src) (b : Src)
  | mulhS (d : BitVec 6) (a : Src) (b : Src)
  | mulhZ (d : BitVec 6) (a : Src) (b : Src)
  | mad (d : BitVec 6) (a : Src) (b : Src)
  | divS (d : BitVec 6) (a : Src) (b : Src)
  | divZ (d : BitVec 6) (a : Src) (b : Src)
  | remS (d : BitVec 6) (a : Src) (b : Src)
  | remZ (d : BitVec 6) (a : Src) (b : Src)
  | and (d : BitVec 6) (a : Src) (b : Src)
  | or (d : BitVec 6) (a : Src) (b : Src)
  | xor (d : BitVec 6) (a : Src) (b : Src)
  | andn (d : BitVec 6) (a : Src) (b : Src)
  | shl (d : BitVec 6) (a : Src) (b : Src)
  | shr (d : BitVec 6) (a : Src) (b : Src)
  | sra (d : BitVec 6) (a : Src) (b : Src)
  | rol (d : BitVec 6) (a : Src) (b : Src)
  | minS (d : BitVec 6) (a : Src) (b : Src)
  | minZ (d : BitVec 6) (a : Src) (b : Src)
  | maxS (d : BitVec 6) (a : Src) (b : Src)
  | maxZ (d : BitVec 6) (a : Src) (b : Src)
  | absS (d : BitVec 6) (a : Src)
  | popc (d : BitVec 6) (a : Src)
  | clz (d : BitVec 6) (a : Src)
  | brev (d : BitVec 6) (a : Src)
  | bfxZ (d : BitVec 6) (a : Src) (b : Src)
  | bfxS (d : BitVec 6) (a : Src) (b : Src)
  | bfi (d : BitVec 6) (a : Src) (b : Src)
  | addw (d : BitVec 6) (a : RegE) (b : RegE)
  | subw (d : BitVec 6) (a : RegE) (b : RegE)
  | mulwS (d : BitVec 6) (a : Src) (b : Src)
  | mulwZ (d : BitVec 6) (a : Src) (b : Src)
  | shlw (d : BitVec 6) (a : RegE) (b : Src)
  | shrw (d : BitVec 6) (a : RegE) (b : Src)
  | sraw (d : BitVec 6) (a : RegE) (b : Src)
  | cmpS (c : BitVec 3) (p : BitVec 3) (a : Src) (b : Src)
  | cmpZ (c : BitVec 3) (p : BitVec 3) (a : Src) (b : Src)
  | cmpwS (c : BitVec 3) (p : BitVec 3) (a : RegE) (b : RegE)
  | cmpwZ (c : BitVec 3) (p : BitVec 3) (a : RegE) (b : RegE)
  | plog (o : BitVec 3) (p : BitVec 3) (r : BitVec 3) (q : BitVec 3)
  | ptox (d : BitVec 6) (r : BitVec 3)
  | xtop (p : BitVec 3) (a : Src)
  | rng (d : BitVec 6) (a : RegE)
  | rngj (a : RegE) (b : RegE)
  -- class 1, floating (R75)
  | fadd (d : BitVec 6) (a : Src) (b : Src)
  | fsub (d : BitVec 6) (a : Src) (b : Src)
  | fmul (d : BitVec 6) (a : Src) (b : Src)
  | ffma (d : BitVec 6) (a : Src) (b : Src)
  | ffms (d : BitVec 6) (a : Src) (b : Src)
  | fmin (d : BitVec 6) (a : Src) (b : Src)
  | fmax (d : BitVec 6) (a : Src) (b : Src)
  | fdiv (d : BitVec 6) (a : Src) (b : Src)
  | fsqrt (d : BitVec 6) (a : Src)
  | frcp (d : BitVec 6) (a : Src)
  | frsq (d : BitVec 6) (a : Src)
  | fabs (d : BitVec 6) (a : Src)
  | fneg (d : BitVec 6) (a : Src)
  | fcmp (c : BitVec 3) (p : BitVec 3) (a : Src) (b : Src)
  | fclass (d : BitVec 6) (a : Src)
  | fex2 (d : BitVec 6) (a : Src)
  | flg2 (d : BitVec 6) (a : Src)
  | dadd (d : BitVec 6) (a : RegE) (b : RegE)
  | dsub (d : BitVec 6) (a : RegE) (b : RegE)
  | dmul (d : BitVec 6) (a : RegE) (b : RegE)
  | dfma (d : BitVec 6) (a : RegE) (b : RegE)
  | dfms (d : BitVec 6) (a : RegE) (b : RegE)
  | dmin (d : BitVec 6) (a : RegE) (b : RegE)
  | dmax (d : BitVec 6) (a : RegE) (b : RegE)
  | ddiv (d : BitVec 6) (a : RegE) (b : RegE)
  | dsqrt (d : BitVec 6) (a : RegE)
  | dcmp (c : BitVec 3) (p : BitVec 3) (a : RegE) (b : RegE)
  | dabs (d : BitVec 6) (a : RegE)
  | dneg (d : BitVec 6) (a : RegE)
  | hadd2 (d : BitVec 6) (a : Src) (b : Src)
  | hmul2 (d : BitVec 6) (a : Src) (b : Src)
  | hfma2 (d : BitVec 6) (a : Src) (b : Src)
  | badd2 (d : BitVec 6) (a : Src) (b : Src)
  | bmul2 (d : BitVec 6) (a : Src) (b : Src)
  | bfma2 (d : BitVec 6) (a : Src) (b : Src)
  | cvt (d : BitVec 6) (a : RegE) (f : BitVec 3) (t : BitVec 3) (r : BitVec 2) (s : Bool)
  | pkn (d : BitVec 6) (a : BitVec 6) (b : BitVec 6) (p : BitVec 2) (f : BitVec 2)
  | upkn (d : BitVec 6) (a : BitVec 6) (i : BitVec 3) (f : BitVec 2)
  | dot4E4m3 (d : BitVec 6) (a : Src) (b : Src)
  | dot4E5m2 (d : BitVec 6) (a : Src) (b : Src)
  | dot8E2m1 (d : BitVec 6) (a : Src) (b : Src)
  | dot4S8 (d : BitVec 6) (a : Src) (b : Src)
  | dot8S4 (d : BitVec 6) (a : Src) (b : Src)
  | dot2Bf16 (d : BitVec 6) (a : Src) (b : Src)
  | dot2F16 (d : BitVec 6) (a : Src) (b : Src)
  | xaccf (c : Bool) (a : BitVec 6)
  | xacc (c : Bool) (a : BitVec 6) (b : BitVec 6)
  | xfma (c : Bool) (a : BitVec 6) (b : BitVec 6)
  | xrnd (d : BitVec 6) (c : Bool)
  | xclr (c : Bool)
  -- class 2, immediates (R77)
  | addi (d : BitVec 6) (a : RegE) (i : BitVec 11)
  | andi (d : BitVec 6) (a : RegE) (i : BitVec 11)
  | ori (d : BitVec 6) (a : RegE) (i : BitVec 11)
  | xori (d : BitVec 6) (a : RegE) (i : BitVec 11)
  | shi (d : BitVec 6) (a : RegE) (k : BitVec 2) (n : BitVec 5)
  | movlo (d : BitVec 6) (i : BitVec 16)
  | movhi (d : BitVec 6) (i : BitVec 16)
  | cmpi (c : BitVec 3) (p : BitVec 3) (a : RegE) (i : BitVec 11)
  | sel (d : BitVec 6) (a : RegE) (b : RegE) (p : BitVec 3) (n : Bool)
  | scale (d : BitVec 6) (a : RegE) (b : RegE) (q : BitVec 2)
  | srd (d : BitVec 6) (s : BitVec 8)
  | srw (a : RegE) (s : BitVec 8)
  | ldca (d : BitVec 6) (i : BitVec 16)
  | muli (d : BitVec 6) (a : RegE) (i : BitVec 11)
  -- class 3, memory (R79)
  | ld (d : BitVec 6) (a : RegE) (z : BitVec 3) (o : BitVec 9)
  | st (d : BitVec 6) (a : RegE) (z : BitVec 3) (o : BitVec 9)
  | ldo (d : BitVec 6) (a : RegE) (z : BitVec 3) (o : BitVec 2) (s : BitVec 3)
  | sto (d : BitVec 6) (a : RegE) (z : BitVec 3) (s : BitVec 3)
  | atom (d : BitVec 6) (a : RegE) (z : BitVec 3) (s : BitVec 3) (r : Bool) (p : BitVec 5)
  | atomn (d : BitVec 6) (a : RegE) (z : BitVec 3) (s : BitVec 3) (r : Bool) (p : BitVec 5)
  | prf (a : RegE)
  | prfl (a : RegE)
  | inv
  | xld (c : Bool) (a : RegE)
  | xst (c : Bool) (a : RegE)
  | xaddm (c : Bool) (a : RegE)
  -- class 4, control (R80)
  | bra (o : BitVec 18) (p : BitVec 6)
  | brc (o : BitVec 14) (p : BitVec 6) (n : Bool) (c : BitVec 3)
  | call (o : BitVec 18) (p : BitVec 6)
  | callp (q : BitVec 16) (e : BitVec 6)
  | jmpr (a : RegE) (p : BitVec 6)
  | callr (a : RegE) (p : BitVec 6)
  | retr (a : BitVec 6)
  | jenrol (j : BitVec 3)
  | jwait (j : BitVec 3) (p : BitVec 6)
  | jleave (j : BitVec 3)
  | exit
  | trap (c : BitVec 16)
  | rett
  -- 16-bit two-address forms (R65)
  | mov16 (d : BitVec 5) (s : BitVec 5)
  | add16 (d : BitVec 5) (s : BitVec 5)
  | sub16 (d : BitVec 5) (s : BitVec 5)
  | mul16 (d : BitVec 5) (s : BitVec 5)
  | and16 (d : BitVec 5) (s : BitVec 5)
  | or16 (d : BitVec 5) (s : BitVec 5)
  | xor16 (d : BitVec 5) (s : BitVec 5)
  | andn16 (d : BitVec 5) (s : BitVec 5)
  | shl16 (d : BitVec 5) (s : BitVec 5)
  | shr16 (d : BitVec 5) (s : BitVec 5)
  | sra16 (d : BitVec 5) (s : BitVec 5)
  | fadd16 (d : BitVec 5) (s : BitVec 5)
  | fsub16 (d : BitVec 5) (s : BitVec 5)
  | fmul16 (d : BitVec 5) (s : BitVec 5)
  | fmin16 (d : BitVec 5) (s : BitVec 5)
  | fmax16 (d : BitVec 5) (s : BitVec 5)
  -- 16-bit miscellaneous forms (R66)
  | nop
  | guard (n : Bool) (p : BitVec 3)
  | waitk (k : BitVec 8)
  | movi (d : BitVec 5) (i : BitVec 5)
  | addi16 (d : BitVec 5) (i : BitVec 5)
  | jwait16 (j : BitVec 3) (p : BitVec 6)
  | ret
  | exit16
  | barb16 (b : BitVec 4)
  | yield
  | movs16 (d : BitVec 4) (s : BitVec 6)
  -- class 5, parallel (R81)
  | movu (d : BitVec 6) (a : Src)
  | movuf (d : BitVec 6) (a : Src)
  | reduAddS32 (d : BitVec 6) (a : Src)
  | reduAddF32 (d : BitVec 6) (a : Src)
  | reduMinS (d : BitVec 6) (a : Src)
  | reduMaxS (d : BitVec 6) (a : Src)
  | reduMinZ (d : BitVec 6) (a : Src)
  | reduMaxZ (d : BitVec 6) (a : Src)
  | reduAnd (d : BitVec 6) (a : Src)
  | reduOr (d : BitVec 6) (a : Src)
  | reduXor (d : BitVec 6) (a : Src)
  | reduFmin (d : BitVec 6) (a : Src)
  | reduFmax (d : BitVec 6) (a : Src)
  | reduAmaxF32 (d : BitVec 6) (a : Src)
  | movs (d : BitVec 6) (i : BitVec 6)
  | qxch (d : BitVec 6) (a : Src) (i : BitVec 6)
  | shfl (d : BitVec 6) (a : Src) (b : RegE)
  | shup (d : BitVec 6) (a : Src) (i : BitVec 6)
  | shdn (d : BitVec 6) (a : Src) (i : BitVec 6)
  | shxr (d : BitVec 6) (a : Src) (i : BitVec 6)
  | vote (d : BitVec 6) (r : BitVec 3)
  | vany (q : BitVec 3) (r : BitVec 3)
  | vall (q : BitVec 3) (r : BitVec 3)
  | scanAddS32 (d : BitVec 6) (a : Src)
  | scanAddF32 (d : BitVec 6) (a : Src)
  | elect (p : BitVec 3)
  | spawn (a : RegE) (i : BitVec 6)
  | binfl
  | launch (d : BitVec 6) (a : RegE)
  | join (a : Src)
  | barb (a : Src) (i : BitVec 6)
  | bara (a : Src) (i : BitVec 6)
  | barw (a : Src) (i : BitVec 6)
  | barc (a : Src) (i : BitVec 6)
  | barlast (p : BitVec 3) (a : Src) (i : BitVec 6)
  -- class 6, engines (R82)
  | cpy (d : BitVec 6) (a : BitVec 6) (b : BitVec 6) (k : BitVec 3) (rec : Bool)
  | cpyd (a : BitVec 6) (k : BitVec 3) (rec : Bool)
  | cpyt (d : BitVec 6) (a : BitVec 6) (b : BitVec 6) (k : BitVec 3) (rec : Bool)
  | gathd (a : BitVec 6) (k : BitVec 3) (rec : Bool)
  | tballoc (d : BitVec 6) (q : BitVec 3)
  | tbinit (d : BitVec 6) (a : RegE) (b : RegE)
  | tbarr (a : RegE)
  | tbwait (a : RegE) (q : Bool)
  | tbref (a : RegE)
  | tbfree (a : RegE)
  | pgpop (d : BitVec 6)
  | pgpost (a : RegE)
  | pgcnt (d : BitVec 6)
  | aestart (a : RegE) (b : RegE)
  | aestop
  | qmap (d : BitVec 6) (i : BitVec 6)
  | qunmap (d : BitVec 6)
  | qtst (p : BitVec 3) (i : BitVec 6)
  | qpush (a : RegE) (i : BitVec 6)
  | qclose (i : BitVec 6)
  | qopen (i : BitVec 6)
  | mmaE4m3 (a : BitVec 6) (b : BitVec 6) (k : BitVec 3) (rec : Bool)
  | mmaE5m2 (a : BitVec 6) (b : BitVec 6) (k : BitVec 3) (rec : Bool)
  | mmaE2m1 (a : BitVec 6) (b : BitVec 6) (k : BitVec 3) (rec : Bool)
  | mmaS8 (a : BitVec 6) (k : BitVec 3) (rec : Bool)
  | mmaS4 (a : BitVec 6) (k : BitVec 3) (rec : Bool)
  | mmaBf16 (a : BitVec 6) (k : BitVec 3) (rec : Bool)
  | mmaF16 (a : BitVec 6) (k : BitVec 3) (rec : Bool)
  | mmaF64 (a : BitVec 6) (k : BitVec 3) (rec : Bool)
  | mmv (a : BitVec 6) (k : BitVec 3) (rec : Bool)
  | drain (a : BitVec 6) (k : BitVec 3) (rec : Bool)
  | maclr (i : BitVec 6)
  | mstat (d : BitVec 6) (i : BitVec 6)
  | pload (d : BitVec 6) (a : BitVec 6) (k : BitVec 3) (rec : Bool)
  | pevict (a : RegE)
  | pres (p : BitVec 3) (a : RegE)
  | pstat (d : BitVec 6) (a : RegE)
  | walk (d : BitVec 6) (a : BitVec 6) (k : BitVec 3)
  | wstat (d : BitVec 6) (a : RegE)
  | wcancel (a : RegE)
  | wqry (p : BitVec 3) (a : RegE) (b : RegE)
  | lbdef (d : BitVec 6) (a : RegE)
  | ldl (d : BitVec 6) (a : RegE) (b : RegE)
  | stl (d : BitVec 6) (a : RegE) (b : RegE)
  | lbfree (a : RegE)
  -- class 7, system (R83)
  | fence (k : BitVec 2) (c : Bool) (s : BitVec 3)
  | fencex (x : BitVec 4) (y : BitVec 4) (s : BitVec 3)
  | tick (d : BitVec 6)
  | ticko (d : BitVec 6)
  | pmcfg (c : BitVec 2) (a : RegE)
  | pmrd (d : BitVec 6) (c : BitVec 2)
  | tdrd (d : BitVec 6) (a : Src)
  | bankcfg (p : BitVec 3) (a : Src) (b : Src)
  | taskbeg (a : RegE) (b : Src)
  | taskend
  | taskrng (a : RegE) (b : Src)
  | taskq (d : BitVec 6)
  | migrate (p : BitVec 3) (a : RegE)
  | brk
  | rpbeg (a : RegE)
  | rpend (p : BitVec 3)
  | wscap (a : RegE)
  | wsrst (a : RegE)
  | setrpc (a : Src) (b : Src)
  | texit (a : Src)
  | tsvc
  | coll (a : BitVec 6) (k : BitVec 3)
  | signal (a : RegE) (b : Src)
  -- device events (rows without an encoding)
  | translationCheckDone (w : Nat)
  | pageWalkReadArrives (k : Nat)
  | loadValueArrives (k : Nat)
  | l1Fill (k : Nat)
  | storeAckDiePoint (k : Nat)
  | storeAckHome (k : Nat)
  | requestServedHomeSlice (k : Nat)
  | xaddmLinePerformed (k : Nat)
  | scopeWriteTakesEffect (k : Nat)
  | joinRelease (w j : Nat)
  | barrierComplete (cluster : Bool) (o i : Nat)
  | joinSatisfied (w : Nat)
  | warpEntersActiveSet (w : Nat)
  | binTimerExpire (c i : Nat)
  | binFormWarp (c i : Nat)
  | blockPlace (g : Nat)
  | swapOut (b : Nat)
  | swapIn (b : Nat)
  | gridTimeLimit (g : Nat)
  | bankModeChangeDone (c : Nat)
  | copyChunkAcked (k : Nat)
  | copyComplete (k : Nat)
  | engineFaultServiceReply (e : EngineRef) (ok : Bool)
  | mmaKstepEnd (c : Nat)
  | drainStart (c : Nat)
  | drainComplete (k : Nat)
  | maclrAtHead (c : Nat)
  | parcelLoadComplete (c : Nat)
  | parcelBecomesAbsent (c q : Nat)
  | walkStart (c i : Nat)
  | walkRoundEnd (c : Nat)
  | commitOfficeReply (w : Nat)
  | taskCommitStart (g : Nat)
  | taskCommitComplete (g : Nat)
  | tsvcReplyResume (w : Nat) (m : Resumption)
  | tsvcReplyEnd (w : Nat) (m : BitVec 32) (status detail : BitVec 16)
  | comparatorBreakpoint (w : Nat)
  | debugResume (w : DebugTurn)
  | preemptRequest (x n : Nat) (die : Option Nat)
  | coreVacated (c : Nat)
  | contextSwitch (x : Nat)
  | uncorrectableError (u : FailUnit)
  | softErrorCorrected
  | sccRestart (c : Nat) (entry : BitVec 32) (g : Option Nat)
  | debugStopRequest (t : BitVec 64)
  | clockStop
  | debugStopRelease
  | watchpointRangeWrite (c n : Nat) (base limit : BitVec 64)
  | traceRingConfig (c : Nat) (ring : Option (BitVec 48 × Nat))
  | replayArmed (w : Nat)
  | replayEnforceTimeout (x line : Nat)
  | capturePageSaved (x page : Nat)
  | queueSetup (q : Nat) (base : BitVec 48) (k x prio weight : Nat)
  | queueReset (q : Nat)
  | doorbellWrite (off size : Nat) (v : BitVec 64)
  | packetLaunch (q : Nat)
  | packetWaitSignal (q : Nat)
  | waitSignalMet (q i : Nat)
  | packetSetSignal (q : Nat)
  | tlbInvalidateRange (x : Nat) (va len : BitVec 64)
  | dieOnline (d : Nat)
  | dieOffline (d : Nat)
  | liveUpdate (code : List (BitVec 8)) (cert : Cert)
  | peerAccess (a : PeerOp) (pa : BitVec 39) (n : Nat) (v : BitVec 64)
  | peerFailure (i : Nat)
  | collectiveComplete (k : Nat)
  | rdmaWrite (qp x : Nat) (va : BitVec 64) (bytes : List (BitVec 8))
  | rdmaRead (qp x : Nat) (va : BitVec 64) (n : Nat)
  | rdmaSend (qp : Nat) (bytes : List (BitVec 8))
  | rdmaReceive (qp x : Nat) (va : BitVec 64)
  | hostRead (pa : BitVec 48) (n : Nat)
  | hostWrite (pa : BitVec 48) (bytes : List (BitVec 8))
  | attestationRequest (nonce : BitVec 256) (x : Option Nat)
  | boot (a b : SignedCode)
  | powerClockStep (up : Bool)
  | hostVisible (k : Nat)
  | restanteWaitTimeout (w : Nat)
  | relayBringUp (own : BitVec 8) (peers : List (BitVec 8))
  | queuePairSetup (qp mtu : Nat)
  | rootTableSet (x : Nat) (pa : BitVec 48)
  | quotaSet (x n pool : Nat)
  | peerGroupSet (x : Nat) (g : BitVec 32) (rank ranks : Nat)
  | hostServiceRegister (x : Nat)
  | contextKeyRegister (x : Nat) (key : BitVec 512)
  | debugSessionAttach (x : Nat)
  | linkEnumeration (i : Nat) (base : BitVec 64)
  deriving DecidableEq, Repr

end Sys2Proof
end

