-- ==== Sys2Proof/Machine/State.lean ====
section
/-! DEFINITION. The state of the whole package as plain data: lanes, warps, blocks, grids, cores, engines, memory, requests in flight,
contexts, queues, firmware and debug. Names are those of the spec; each structure cites the rules that give its fields. -/

namespace Sys2Proof.Machine

/-- What stops the model. -/
inductive Fault where
  /-- Raised by every lane instruction when the state names no agent that executes it (cur is none or names no agent). Safe: no step
  runs an instruction without an agent, so only a direct call of a meaning can meet it. -/
  | noAgent
  deriving DecidableEq, Repr

/-- What the model refuses. -/
inductive Refusal where
  /-- Raised by an arm of exec whose instruction has no meaning in the model. Safe: nothing is claimed of it. -/
  | notModelled (mnemonic : String)
  deriving DecidableEq, Repr

/-! ### Lanes (R9, R19, R20) -/

/-- Full, empty or orphaned (R19, R20); `long` marks an empty register whose producer R157 predicts to take more than 8 cycles. -/
inductive Fe where
  | full
  | empty (long : Bool)
  | orphan
  deriving DecidableEq, Repr

/-- A lane register: its value and its full/empty state. -/
structure Cell where
  v : Word
  fe : Fe
  deriving DecidableEq, Repr

/-- A register as a lane starts with it: 0, full (R9). -/
def Cell.zero : Cell := ⟨0, .full⟩

/-- Where a lane is: in the frontier, or why not (R150, R152, R181, R190, R272, R275, R279, R295, R367, R386). `slot`: it waits at its TASKBEG for
a task slot; `lost`: its task has lost one. -/
inductive Place where
  | frontier
  | join (j : Nat)
  | bar (cluster : Bool) (id phase : Nat) (pd : Option (BitVec 3))
  | children (hs : List Nat)
  | taskEnd
  | head
  | slot (lost : Bool)
  | tb (handle : Word) (parity : Bool)
  | tsvc
  | debug
  | ended
  deriving DecidableEq, Repr

/-- A lane (R9). Registers not listed hold 0, full. A lane that left the frontier holds its resume address and priority in pc and prio. `past`: the
lane ran past offset 0xFFFF of its parcel, so its next fetch traps (R13: offsets do not wrap); `resumePast`: its resume address is such a place.
`frag`: in a handler, which handler fragment the lane is of (1 and a lane of it), else 0: a handler fragment never gains a lane (R360); `asked`:
the receipt of the PLOAD that its handler has issued, which decides what its TSVC asks for (R335). -/
structure Lane where
  x : Map Cell
  p : BitVec 7
  pc : Word
  past : Bool
  prio : BitVec 6
  lprio : BitVec 6
  fpctl : BitVec 14
  resumePc : Word
  resumePrio : BitVec 6
  resumePast : Bool
  tcause : Word
  taddr : Dword
  tlanes : Word
  tpc : Word
  tinfo : Word
  helper : Bool
  place : Place
  task : Option Nat
  noWatch : Bool
  frag : Nat
  asked : Option Word
  deriving DecidableEq, Repr

/-- A lane as it starts at an entry (R9). -/
def Lane.start (pc : Word) (prio : BitVec 6) : Lane :=
  ⟨[], 0, pc, false, prio, 0, 0, 0, 0, false, 0, 0, 0, 0, 0, false, .frontier, none, false, 0, none⟩

/-! ### Warps and the other executing agents (R140, R11, R300) -/

/-- Which agent: a core's warp, a cluster's scalar control core, a core's address engine (the banks of x56 to x59, the status word's
address, the final status once only its loads are left, its grid, which may outlive its block). -/
inductive Kind where
  | warp
  | scc (cluster : Nat)
  | ae (banks : List (Option Nat)) (status : Dword) (fin : Option Nat) (grid : Nat)
  deriving DecidableEq, Repr

/-- The prefixes read so far of the group at (pc, prio): halfwords taken, guard (negate, predicate), wait mask (R67, R68). -/
structure Pfx where
  pc : Word
  prio : BitVec 6
  len : Nat
  guard : Option (Bool × BitVec 3)
  wait : Option (BitVec 8)
  deriving DecidableEq, Repr

/-- A DET buffer of a block register (R166). -/
inductive DetBuf where
  | assigned (v : Word)
  | reduce (op : Nat) (v : Word)
  deriving DecidableEq, Repr

/-- A queue mapping: lane register, bank, kept cells per lane, held group (R205, R253). -/
structure QMap where
  reg : Nat
  bank : Nat
  kept : Map Cell
  held : Option (List Word)
  deriving DecidableEq, Repr

/-- A cached translation (R210, R212): page size in bytes, physical base, rights, nc, level of the leaf. -/
structure Xlat where
  ctx : Nat
  base : Nat
  size : Nat
  pa : Nat
  r : Bool
  w : Bool
  nc : Bool
  level : Nat
  deriving DecidableEq, Repr

/-- One lane's access under check: address, bytes, rights asked, store or operand data (R22, R358). -/
structure Access where
  lane : Nat
  va : Dword
  n : Nat
  rd : Bool
  wr : Bool
  data : BitVec 128
  deriving DecidableEq, Repr

/-- The may-fault instruction whose checks are pending (R22). -/
inductive Pending where
  | ld (d : BitVec 6) (z : BitVec 3)
  | st
  | ldo (d : BitVec 6) (z : BitVec 3) (acq : Bool) (scope : Nat)
  | sto (scope : Nat)
  | atom (d : BitVec 6) (aop : Nat) (ret ar : Bool) (scope : Nat)
  | img (op : Nat) (acc : Bool)
  | ldl (d : BitVec 6) (pads : List (Nat × Nat × BitVec 64))
  | stl
  | signal
  | aeLd (reg : BitVec 6) (z : BitVec 3)
  deriving DecidableEq, Repr

/-- A may-fault instruction after issue: its lanes, accesses, length in halfwords from the group start, registers it read
from FIFOs (R253, R358), translations found, pages whose walk failed with their detail, for an address engine a fault that
awaits service (R290, R301), the fragment with the lanes whose guard is false, which take their beats (R154), and the destinations that
were orphaned before it issued, by lane (R23). -/
structure Check where
  what : Pending
  lanes : List Nat
  acc : List Access
  len : Nat
  pops : List Nat
  xlat : List Xlat
  bad : List (Nat × Nat)
  fault : Option Nat
  frag : List Nat
  orphans : List (Nat × Nat)
  deriving DecidableEq, Repr

/-- Why a warp left the active set (R157); its record notes the entry that stood first. -/
inductive Stop where
  | regs (l : List (Nat × Nat))
  | tokens (m : BitVec 8)
  | bar (cluster : Bool) (id : Nat)
  | release (scope : Nat)
  | idle
  deriving DecidableEq, Repr

/-- What a whole warp waits for with no lane leaving the frontier (R229, R234, R251, R277, R278, R395, R409). `fence`: the requests older than the
name given, and the stores listed, for the fragment at an address, of a priority and handler fragment; `office`, `replayArm`, `restante`: the
fragment and the length of its instruction; `office` has a timestamp and mask per lane for TASKBEG, or T0 and count for TASKRNG (DEDUCED, log entry
83). -/
inductive Hold where
  | fence (at_ : Word × BitVec 6 × Nat) (before : Nat) (stores : List Nat)
  | office (lanes : List Nat) (len : Nat) (t : List (Nat × Nat × Word)) (range : Option (Nat × Nat))
  | bankcfg
  | replayArm (lanes : List Nat) (len : Nat)
  | restante (lanes : List Nat) (len : Nat) (pd : BitVec 3)
  deriving DecidableEq, Repr

/-- An executing agent. `bintmr` is the scalar control core's own spawn timer (R105); `spawning` holds the lanes of a SPAWN that waits for a bin,
which have passed Enter, and `spawned` those of them that are in their bins (R185); `slot` its slot on the core and `seq` the entry that its last
instruction left by sequential advance (R388); `cache` its register cache in the active set, most recently used first, with the dirty marks (R159);
`barHelp` the helper lanes of a BARLAST that waits, by barrier and lane, with its predicate (R169, R184); `acq` an acquire that has not completed:
its requests, and whether it invalidates the L1 (R224); `acqSeq` the model's sequence number at the latest acquire that has completed, and `rel` 1
more than the tick of its latest release, or 0 (R225, R236). -/
structure Warp where
  kind : Kind
  core : Nat
  ctx : Nat
  block : Nat
  wix : Nat
  lanes : Map Lane
  joins : Map Word
  q : Map Word
  w : Map Word
  tok : Map Nat
  xa0 : Acc
  xa1 : Acc
  xaWait : List Bool
  det : Map DetBuf
  qmaps : List QMap
  barM : Map Word
  barLast : Map Nat
  pfx : Option Pfx
  check : Option Check
  hold : Option Hold
  stop : Option (Stop × Option (Word × BitVec 6))
  children : List Nat
  walked : Bool
  stamp : Nat
  pmCode : Map Nat
  pmRes : Map (BitVec 64)
  privB : Option (Map Word)
  privC : Option (Map Word)
  lastSync : Option Nat
  bp : Option (Word × List Nat)
  bintmr : Nat
  spawning : Word
  spawned : Word
  slot : Nat
  seq : Option (Word × BitVec 6)
  cache : List (Nat × Bool)
  barHelp : List (Nat × Nat × BitVec 3)
  acq : Option (List Nat × Bool)
  acqSeq : Nat
  rel : Nat
  deriving DecidableEq, Repr

/-- A warp of lanes at its start: everything not given is 0, empty or unset (R9, R152, R161, R281). -/
def Warp.start (kind : Kind) (core ctx block wix stamp : Nat) (lanes : Map Lane) : Warp :=
  ⟨kind, core, ctx, block, wix, lanes, [], [], [], [], .zero, .zero, [], [], [], [], [], none, none, none, none, [], false, stamp, [], [],
    none, none, none, none, 64, 0, 0, 0, none, [], [], none, 0, 0⟩

/-! ### Blocks, cluster groups and grids (R140, R143, R147, R179, R188, R189, R269, R403) -/

/-- A barrier: phase, expected count (none: unset; some none: ALL), arrivals in order (warp, index), waiters that want no completion
while a warp is parked are derived (R179). -/
structure Barrier where
  phase : Nat
  expected : Option (Option Nat)
  arrivals : List Nat
  deriving DecidableEq, Repr

def Barrier.fresh : Barrier := ⟨0, none, []⟩

/-- A grid record (R189), or the attributes of a seed group (R143). -/
structure GridRec where
  parcel : Nat
  entry : Nat
  det : Bool
  exact : Bool
  counters : Bool
  helperExit : Bool
  dimx : Nat
  dimy : Nat
  dimz : Nat
  warps : Nat
  cluster : Nat
  producer : Option Nat
  regs : Nat
  scratch : Nat
  args : Dword
  rectW : Nat
  rectH : Nat
  prio : Nat
  preload : List Nat
  signal : Dword
  limit : Nat
  deriving DecidableEq, Repr

/-- The attributes of a seed group (R143). -/
def GridRec.seed (parcel entry : Nat) (args signal : Dword) (prio limit : Nat) (counters : Bool) : GridRec :=
  ⟨parcel, entry, false, false, counters, false, 1, 1, 1, 1, 1, some 0, 64, 0, args, 0, 0, prio, [], signal, limit⟩

/-- A block (R140, R143, R195). `loading`: it waits for its parcels, before its first issue (true) or before it goes on elsewhere (R146,
R336). -/
structure Block where
  grid : Nat
  bix : Nat
  core : Nat
  group : Nat
  det : Bool
  exact : Bool
  helperExit : Bool
  producer : Option Nat
  nregs : Nat
  wcnt : Nat
  scratch : Nat
  banks : List Nat
  b : Map Word
  bars : Map Barrier
  sp : Map Byte
  bintmr : Nat
  migrated : Bool
  stamp : Nat
  loading : Option Bool
  deriving DecidableEq, Repr

/-- A cluster group: its registers and barriers (R147, R161, R179). -/
structure Group where
  cluster : Nat
  grid : Nat
  c : Map Word
  bars : Map Barrier
  deriving DecidableEq, Repr

/-- The commit office's range and the stamps begun (R269). -/
structure Range where
  t0 : Nat
  count : Nat
  next : Nat
  begun : List Nat
  ready : Bool
  deriving DecidableEq, Repr

/-- A counter set: event codes and counts (R392). -/
structure Counters where
  codes : List Nat
  counts : List (BitVec 64)
  deriving DecidableEq, Repr

/-- A grid (R188, R403). -/
structure Grid where
  ctx : Nat
  info : GridRec
  parentGrid : Option Nat
  parentWarp : Option Nat
  packet : Option (Nat × Nat)
  g : Map Word
  next : Nat
  savedBlocks : List Nat
  rect : Option (Nat × Nat × Nat)
  office : Option Nat
  pendSeq : Nat
  range : Option Range
  counters : Option Counters
  slots : Map Nat
  status : Option (Nat × Nat)
  ended : Bool
  armed : Bool
  inSession : Bool
  deriving DecidableEq, Repr

/-- A scope-register write in flight (R163, R164): level 0 block, 1 cluster, 2 grid; owner; register; op (none: replace; a REDU
operation number otherwise); value; writer's core, block and warp index. -/
structure ScopeWrite where
  level : Nat
  owner : Nat
  reg : Nat
  op : Option Nat
  v : Word
  core : Nat
  block : Nat
  warp : Nat
  wix : Nat
  deriving DecidableEq, Repr

/-! ### The core (R195 to R214, R283 to R354) -/

/-- A core SRAM bank (R195, R204): mode 0 CACHE, 1 SCRATCH, 2 FIFO; the cluster group that holds it as scratchpad; the FIFO's groups, producer
count and owner (a block, or the scalar control core). -/
structure Bank where
  mode : Nat
  alloc : Option Nat
  exact : Bool
  fifo : List (List Word)
  producers : Nat
  owner : Option Nat
  ownerScc : Bool
  stopping : Bool
  deriving DecidableEq, Repr

/-- A bank as the core comes online (R195). -/
def Bank.initial (k : Nat) : Bank := ⟨if k < 32 then 0 else 1, none, false, [], 0, none, false, false⟩

/-- An L1 line (R197): its bank, sector valid bits, mask, bytes present, use stamp. -/
structure Line where
  bank : Nat
  valid : BitVec 4
  mask : BitVec 256
  data : Map Byte
  stamp : Nat
  deriving DecidableEq, Repr

/-- A table entry of levels 1 to 3 that a shared TLB keeps (R212): the table that serves the range from `base` at the next level. -/
structure WalkEntry where
  ctx : Nat
  level : Nat
  base : Nat
  table : Nat
  deriving DecidableEq, Repr

/-- A generation-tagged slot (R214, R292, R337). -/
structure Slot (α : Type) where
  gen : Nat
  val : Option α
  deriving DecidableEq, Repr

/-- A label record's copy (R213, R214). -/
structure Label where
  owner : Nat
  base : Dword
  d0 : Nat
  d1 : Nat
  pitch : Nat
  esize : Nat
  tileRows : Nat
  tileCols : Nat
  pad : Word
  trapOut : Bool
  live : Bool
  holds : Nat
  deriving DecidableEq, Repr

/-- A transaction barrier (R293): owner block, the cluster position in its handle, parity, expected and counted arrivals and bytes, references,
how many of those are of fragments that wait (R294), initialised. -/
structure TBar where
  owner : Nat
  pos : Nat
  parity : Bool
  needA : Nat
  needY : Nat
  a : Nat
  y : Nat
  refs : Nat
  waits : Nat
  init : Bool
  deriving DecidableEq, Repr

/-- A transaction barrier that a command credits: its owner, its slot and the slot's generation, which stay with it when its block moves (R292,
R371). -/
structure BarRef where
  owner : Nat
  slot : Nat
  gen : Nat
  deriving DecidableEq, Repr

/-- A spawn bin (R149): spawning block, spawning warp in deterministic mode, entry, lanes' arguments, ordered to form. -/
structure Bin where
  block : Nat
  warp : Option Nat
  entry : Word
  lanes : List (List Word)
  flush : Bool
  timer : Bool
  deriving DecidableEq, Repr

/-- A copied range: byte k of the destination comes from `src k`. -/
inductive CopyShape where
  | linear (src : Dword)
  | tile (srcLabel dstLabel : Label) (srcHandle dstHandle : Word) (si sj di dj : Int)
  | gather (base index : Dword) (rowBytes pitch : Nat)
  deriving DecidableEq, Repr

/-- A copy or gather command (R284 to R296): `bar` the barrier that it credits; `tgts` the blocks that window addresses name for it, by their
offsets (R202, R296). -/
structure Copy where
  core : Nat
  warp : Nat
  block : Nat
  grid : Nat
  ctx : Nat
  cls : Nat
  dst : Dword
  bytes : Nat
  shape : CopyShape
  bar : Option BarRef
  token : Nat
  record : Bool
  tag : Word
  checkpoint : Nat
  fault : Option (Nat × Dword)
  status : Option Nat
  writes : List Nat
  tgts : List (Nat × Nat)
  deriving DecidableEq, Repr

/-- An accumulator tile (R304): owner, kind code, shape, elements row by row, last status, row progress. -/
structure Tile where
  owner : Option Nat
  kind : Nat
  rows : Nat
  cols : Nat
  elems : Map (BitVec 64)
  status : Nat
  progress : Nat
  deriving DecidableEq, Repr

def Tile.free : Tile := ⟨none, 0, 0, 0, [], 0, 0⟩

/-- A matrix command (R306 to R320). -/
inductive MOp where
  | mma (fmt : Nat) (a b : Dword) (sa sb m n k : Nat) (tile : Nat) (clear trans : Bool) (start : Nat) (scales : Map Word)
  | mmv (fmt : Nat) (w vec sc : Dword) (stride rows cols vt yt v : Nat) (load clear : Bool)
  | drain (dst : Dword) (stride tile fmt : Nat) (accum absmax scale : Bool) (scope : Nat) (amax : Dword) (e : Nat)
  | maclr (tile : Nat)
  deriving DecidableEq, Repr

/-- A queued matrix command: issuer, progress, fault, what it has written (R306, R313, R322); `seq` its place in the order of issue (R307), `shape`
the rows and columns of the tile that a DRAIN reads (R305, R315), `tgts` as of a copy. -/
structure MCmd where
  op : MOp
  core : Nat
  block : Nat
  grid : Nat
  warp : Nat
  ctx : Nat
  token : Nat
  record : Bool
  tag : Word
  row : Nat
  started : Bool
  amx : Option Word
  fault : Option (Nat × Dword)
  status : Option Nat
  writes : List Nat
  bytes : Nat
  seq : Nat
  shape : Nat × Nat
  tgts : List (Nat × Nat)
  deriving DecidableEq, Repr

/-- A parcel on a core (R326, R327): state 0 ABSENT, 1 LOADING, 2 RESIDENT, 3 CLOSING; code halfwords; filled entry slots; the status of
its last load; whether its occupancy was above 0 after the last step, and the step in which it rose (R335); the body bytes that its load has
read (R330). -/
structure Parcel where
  state : Nat
  gen : Nat
  code : List (BitVec 16)
  entries : Map (Nat × Nat)
  pages : Nat
  evict : Bool
  shared : Bool
  fault : Option Nat
  last : Nat
  occupied : Bool
  entered : Nat
  got : List Byte
  deriving DecidableEq, Repr

def Parcel.absent : Parcel := ⟨0, 0, [], [], 0, false, false, none, 0, false, 0, []⟩

/-- A PLOAD that has not completed (R333): its core, the key of its parcel, warp, token, record, receipt, its status once its
load has ended, and the bytes that were read: till then 1 where the load is its own, 0 where it shares one. -/
structure PWait where
  core : Nat
  key : Nat
  warp : Nat
  token : Nat
  record : Bool
  receipt : Word
  bytes : Nat
  status : Option Nat
  deriving DecidableEq, Repr

/-- A walk (R337 to R347); `cancel`: the status with which a cancellation ends it, or 0 (R347, R351, R403). -/
structure Walk where
  block : Nat
  warp : Nat
  ctx : Nat
  token : Nat
  n : Nat
  entry : Word
  set : Dword
  mapBank : Nat
  window : Nat
  spawn : Bool
  record : Bool
  bound : Nat
  fifo : Nat
  labels : List (Word × Label)
  maps : List (Nat × Nat)
  limit : Nat
  seq : Nat
  state : Nat
  status : Nat
  cancel : Nat
  win : List (Nat × Nat × Nat × Nat)
  nextPos : Nat
  issued : Nat
  out : List (Nat × Nat × Nat)
  fault : Option (Nat × Dword)
  deriving DecidableEq, Repr

/-- A checkpoint (R271). -/
structure Checkpoint where
  pc : Word
  prio : BitVec 6
  p : BitVec 7
  joins : BitVec 8
  regs : Map Word
  begPc : Word
  begPrio : BitVec 6
  deriving DecidableEq, Repr

/-- A task slot (R271): grid, timestamp, lane, checkpoint, store buffer (word address, bytes), read signature, aborts, the issue slots charged
useful to its run, by the step that filled them (R390), and the lines that the head has written directly. -/
structure Task where
  grid : Nat
  stamp : Nat
  warp : Nat
  lane : Nat
  cp : Checkpoint
  buf : Map (Map Byte)
  sig : BitVec 256
  aborts : Nat
  ended : Bool
  abortPending : Bool
  began : Nat
  useful : List Nat
  wrote : List Nat
  deriving DecidableEq, Repr

/-- A trace record (R388). -/
structure TraceRec where
  kind : Nat
  slot : Nat
  prio : Nat
  mask : Word
  addr : Word
  delta : Word
  deriving DecidableEq, Repr

/-- The instruction-flow trace of a core (R387): ring base and bytes, write offset, dropped records. -/
structure Trace where
  base : Nat
  size : Nat
  at_ : Nat
  lost : Nat
  deriving DecidableEq, Repr

/-- A watchpoint (R385). -/
structure Watch where
  base : Dword
  limit : Dword
  ctl : Word
  deriving DecidableEq, Repr

/-- A bank mode change that has not completed (R196, R251): bank, mode asked, the warp that waits, its fragment, the length of the
instruction, its predicate. -/
structure BankChange where
  bank : Nat
  mode : Nat
  warp : Nat
  lanes : List Nat
  len : Nat
  pd : BitVec 3
  deriving DecidableEq, Repr

/-- A core. -/
structure Core where
  online : Bool
  fenced : Bool
  bank : Map Bank
  cfg : Option BankChange
  l1 : Map Line
  tlb : List Xlat
  labels : Map (Slot Label)
  tbars : Map (Slot TBar)
  bins : Map Bin
  tiles : Map Tile
  mq : List MCmd
  parcels : Map Parcel
  loads : List Nat
  walks : Map (Slot Walk)
  tasks : Map Task
  restante : Map Nat
  active : List Nat
  greedy : Option Nat
  bps : Map Word
  watches : Map Watch
  trace : Option Trace
  slots : Map Nat
  vacating : List Nat
  deriving DecidableEq, Repr

/-- A core as it comes online (R195, R411). -/
def Core.fresh : Core :=
  ⟨true, false, [], none, [], [], [], [], [], [], [], [], [], [], [], [], [], none, [], [], none, [], []⟩

/-! ### Requests in flight (R198, R199, R212, R216, R218, R226, R248) -/

/-- Where a load is served (R218, R224, R271): by fills into the L1, at the die point and then the home slice, at the home slice, or
already served. -/
inductive Serve where
  | fill (ks : List Nat)
  | diePoint
  | home
  | done
  deriving DecidableEq, Repr

/-- A value on its way to lane registers (R19, R114, R240, R248): the places of its bytes (none for a value that no memory holds), the bytes
received, by index, and what the L1's merge must not replace: a byte forwarded, or, with no value, the fill's own byte (R17, R271). `acc`: an
accumulator image; `push`: a FIFO bank that takes the words as one group (R303); `src`: 1 the value of a FIFO read (R205), 2 the pad of an LDL,
else 0; `acq`: of an acquire; `floor`: the acquire its warp had completed when it issued (R225); `pass`: the sequence number of its passing the die
point, or 0; `due`: the first tick at which its value may arrive (R236, R382). -/
structure Load where
  core : Nat
  warp : Nat
  lane : Nat
  dst : List (BitVec 6)
  n : Nat
  sgn : Bool
  pas : List Nat
  serve : Serve
  got : Map Byte
  fwd : Map (Option Byte)
  acc : Option Bool
  push : Option Nat
  src : Nat
  acq : Bool
  floor : Nat
  pass : Nat
  due : Nat
  deriving DecidableEq, Repr

/-- A sector fill on its way (R198), with the grid that asked for it: what the die point held as it passed, what the home slice gave.
`stale`: the sector was invalidated after the request left; `bank`: the way that its line has, none where no line could be allocated; `warp`: whose
miss it serves; `pass` as of a load; `walker`: a prefetch of the core's walker (R344). -/
structure Fill where
  core : Nat
  grid : Nat
  warp : Nat
  sector : Nat
  passed : Option (Map Byte)
  got : Option (List Byte)
  stale : Bool
  bank : Option Nat
  pass : Nat
  walker : Bool
  deriving DecidableEq, Repr

/-- A store's progress (R216, R218, R235): issued, acknowledged at the die point, performed at the home slice, acknowledged there. -/
inductive Stage where
  | issued
  | passed
  | performed
  | acked
  deriving DecidableEq, Repr

/-- A store on its way: engine class, core, warp (0: none), block (0: none), bytes by physical address; `seen`: the cores whose requests have
taken bytes of it at the die point (R231); `pass`: the sequence number of its passing the die point, or 0; `since`: the name under which its
instruction issued (R229); `rel`: 1 more than the tick of the warp's release before it, or 0 (R236); `done`: the sequence number of its being performed,
or 0, and `shown`: its bytes are in the array that the host reads (R235); `lanes`: the lanes that store, where lanes do. -/
structure Store where
  cls : Nat
  core : Nat
  warp : Nat
  block : Nat
  grid : Nat
  ctx : Nat
  cells : Map Byte
  stage : Stage
  seen : List Nat
  pass : Nat
  since : Nat
  rel : Nat
  done : Nat
  shown : Bool
  lanes : List Nat
  deriving DecidableEq, Repr

/-- One lane's part of an atomic (R242): lane, address, data v, the compare value or bound c, and the old value once performed. -/
structure AtomLane where
  lane : Nat
  pa : Nat
  v : BitVec 64
  c : BitVec 64
  old : BitVec 64
  deriving DecidableEq, Repr

/-- An atomic's request for one line (R244), which stands for one request of each of `beats` beats; `scope` 0 is performed at the L1 atomic unit
(R227), once the `fills` that it awaits have come, with the bytes that it keeps in `got`, brought by those of `own`; `performed` counts the parts
that are; `pass`, `rel`, `acq` and `due` as of stores and loads. -/
structure Atom where
  cls : Nat
  core : Nat
  warp : Nat
  wix : Nat
  block : Nat
  grid : Nat
  ctx : Nat
  aop : Nat
  scope : Nat
  ret : Option (BitVec 6)
  parts : List AtomLane
  beats : Nat
  fills : List Nat
  own : List Nat
  got : Map Byte
  performed : Nat
  pass : Nat
  rel : Nat
  acq : Bool
  due : Nat
  deriving DecidableEq, Repr

/-- A page walk of an agent's access (R212): the address, the level whose entry is being read, its table. -/
structure PageWalk where
  core : Nat
  warp : Nat
  ctx : Nat
  va : Nat
  level : Nat
  table : Nat
  deriving DecidableEq, Repr

/-- An XADDM in progress (R248): places of the image's bytes, the accumulator's image, the carry into the next line, the lines not
yet performed, and whether it holds the lock; the warp index and the lanes that it acts for. -/
structure Xaddm where
  core : Nat
  warp : Nat
  wix : Nat
  lanes : List Nat
  block : Nat
  grid : Nat
  ctx : Nat
  pas : List Nat
  src : List Byte
  carry : Nat
  linesLeft : List Nat
  locked : Bool
  pass : Nat
  deriving DecidableEq, Repr

/-- A request in flight. -/
inductive Req where
  | load (l : Load)
  | fill (f : Fill)
  | store (s : Store)
  | atom (a : Atom)
  | walk (p : PageWalk)
  | xaddm (x : Xaddm)
  deriving DecidableEq, Repr

/-! ### The package (R236, R297, R324, R362, R375, R383, R394, R405, R412 to R424) -/

/-- A parcel-map entry (R323, R324): body address, halfwords, digest, library flag. -/
structure ParcelInfo where
  body : Dword
  halfwords : Nat
  digest : BitVec 256
  library : Bool
  deriving DecidableEq, Repr

/-- A replay session (R395): mode, issuing warp, log address and bytes, status block, logs per line (in enforce mode the requesters whose
atomics are still to come), atomics met per line, flags and first mismatch, core of each block. -/
structure Session where
  mode : Nat
  warp : Nat
  log : Dword
  logBytes : Nat
  status : Dword
  lines : Map (List Word)
  done : Map Nat
  mismatch : Bool
  overflow : Bool
  firstIx : Nat
  firstLine : Nat
  cores : Map Nat
  armed : Bool
  deriving DecidableEq, Repr

/-- Write-set capture (R398): watched and save pages (physical), saved pages in order (page, copy), pages whose writes go on. -/
structure Capture where
  watched : List Nat
  save : List Nat
  saved : List (Nat × Nat)
  copied : List Nat
  full : Bool
  deriving DecidableEq, Repr

/-- A peer group (R414): this rank, ranks, collectives issued. -/
structure PeerGroup where
  rank : Nat
  ranks : Nat
  seq : Nat
  deriving DecidableEq, Repr

/-- An address-space context (R209, R324, R325, R362, R386, R395, R398, R414, R422); `captures` by the address of their descriptor,
`recorded` the core of each block of the last record session, by grid in launch order and block index; `away`: a context switch has taken it
off its cores (R374). -/
structure Ctx where
  root : Option Nat
  quota : Nat
  parcels : Map ParcelInfo
  images : List Dword
  keys : List (BitVec 512)
  service : Bool
  debug : Bool
  groups : Map PeerGroup
  session : Option Session
  captures : Map Capture
  recorded : Map Nat
  away : Bool
  deriving DecidableEq, Repr

def Ctx.empty : Ctx := ⟨none, 0, [], [], [], false, false, [], none, [], [], false⟩

/-- A packet taken and not completed (R406, R407). -/
structure Packet where
  index : Nat
  kind : Nat
  cond : Nat
  va : Dword
  operand : Dword
  completion : Dword
  events : Option (List Nat × Dword)
  limit : Nat
  seed : Option Nat
  counter : Nat
  status : Option (Nat × Nat)
  deriving DecidableEq, Repr

/-- A work queue (R405). -/
structure Queue where
  base : Nat
  k : Nat
  ctx : Nat
  prio : Nat
  weight : Nat
  write : Nat
  read : Nat
  error : Bool
  taken : List Packet
  deriving DecidableEq, Repr

/-- A collective command (R414 to R416), with its writes once it has computed its result; `tgts` as of a copy; `lost`: bytes of its writes that
containment has taken back. -/
structure Coll where
  core : Nat
  warp : Nat
  block : Nat
  grid : Nat
  ctx : Nat
  token : Nat
  op : Nat
  mode : Nat
  type : Nat
  reduce : Nat
  group : Nat
  src : Dword
  dst : Dword
  count : Nat
  firstLeaf : Nat
  leaves : Nat
  root : Nat
  record : Bool
  tag : Word
  seq : Nat
  status : Option Nat
  writes : Option (List Nat)
  tgts : List (Nat × Nat)
  lost : Nat
  deriving DecidableEq, Repr

/-- A saved block: its block, warps, and what the image holds of its core (R371). -/
structure Image where
  ctx : Nat
  block : Block
  warps : Map Warp
  banks : List (Nat × Bank)
  tbars : Map (Slot TBar)
  labels : Map (Slot Label)
  bins : List Bin
  walks : Map (Slot Walk)
  tiles : Map Tile
  mq : List MCmd
  tasks : Map Task
  swap : Bool
  deriving DecidableEq, Repr

/-- A request that takes its turn with the others (R368, R373, R374, R411): a pre-emption of a context, a die that goes offline or comes online, a
context switch; the cores still to vacate once it has begun, whether a block has been saved, whether containment has met it. -/
structure Vacate where
  ctx : Nat
  n : Nat
  die : Option Nat
  offline : Bool
  online : Bool
  away : Bool
  cores : Option (List Nat)
  vacated : Bool
  contained : Bool
  deriving DecidableEq, Repr

/-- A package-level configuration and log of firmware, links and debug (R383, R412, R418, R421, R423, R424); `spares`: the spare cores of each
compute die that have taken a position (R1, R375); `standbyHalted`: the standby complex does not run (R421, R422). -/
structure Firmware where
  booted : Bool
  bootFailed : Bool
  activeB : Bool
  standbyHalted : Bool
  versionA : Nat × Nat
  versionB : Nat × Nat
  clockMhz : Nat
  library : Nat
  corrected : Nat
  ownPeer : Option Nat
  peers : List Nat
  failedPeers : List Nat
  qps : Map Nat
  received : List (Nat × List Byte)
  replies : List (List Byte)
  hostReads : List (List Byte)
  windows : Map Dword
  reports : List (Nat × Nat × Nat)
  attest : List (List (BitVec 256))
  retired : List Nat
  lostLines : List Nat
  fencedWays : List (Nat × Nat)
  fencedSlices : List Nat
  spares : Map Nat
  vacates : List Vacate
  stopAt : Option (BitVec 64)
  stopped : Bool
  deriving DecidableEq, Repr

/-- Per-priority arbitration (R405): the queue whose turn it is and the packets it has taken. -/
structure Turn where
  queue : Nat
  count : Nat
  deriving DecidableEq, Repr

/-- The state of the package. `relAt`: of a byte whose value a release's store wrote, the compute die and 1 more than the release's tick (R236);
`pigeonHeld`: records of units that are gone, by core, which a full pigeonhole keeps out (R347); `sccSaved`: by cluster, the scalar control core,
with its agent number, that a pre-emption of the cluster has saved (R299); `llc`: the lines that each set of each home slice holds, most recently
used first, with their dirty bits (R206). The fields `cur`, `inputs`, `plan`, `choice`, `free` and `nextId` are the model's own. -/
structure State where
  cur : Option Nat
  inputs : List Instr
  plan : List Nat
  choice : Nat
  free : Nat
  nextId : Nat
  tick : BitVec 64
  warps : Map Warp
  blocks : Map Block
  groups : Map Group
  grids : Map Grid
  cores : Map Core
  mem : Map Byte
  arr : Map Byte
  relAt : Map (Nat × Nat)
  llc : Map (List (Nat × Bool))
  reqs : Map Req
  scopeWrites : Map ScopeWrite
  copies : Map Copy
  drains : Map MCmd
  colls : Map Coll
  pwaits : List PWait
  pigeon : Map (List (List Word))
  pigeonHeld : List (Nat × List Word)
  sccGrid : Map Nat
  sccHalted : List Nat
  sccSaved : Map (Nat × Warp)
  tlbs : Map (List Xlat)
  wcache : Map (List WalkEntry)
  saved : Map Image
  queues : Map Queue
  turns : Map Turn
  ctxs : Map Ctx
  fw : Firmware
  deriving DecidableEq, Repr

/-- The firmware's part of reset: nothing booted, complex A active, the clock at 1.3 GHz (R421, R424). -/
def Firmware.reset : Firmware :=
  ⟨false, false, false, false, (0, 0), (0, 0), 1300, 0, 0, none, [], [], [], [], [], [], [], [], [], [], [], [], [], [], [], none, false⟩

/-- The package after reset: no work of any kind, memory with nothing listed (values the spec does not give: DESIGN CHOICE, log entry 2). -/
def State.reset : State :=
  ⟨none, [], [], 0, 0, 1, 0, [], [], [], [], [], [], [], [], [], [], [], [], [], [], [], [], [], [], [], [], [], [], [], [], [], [], .reset⟩

end Sys2Proof.Machine
end

