-- ==== Sys2Proof/Machine/Memory.lean ====
section
/-! DEFINITION. Bytes and words, physical memory, page tables, the scratchpad window, and what the die point and the L1 hold
(10_memory_hierarchy.md, 11_memory_ordering.md). A byte's place is a number: its physical address, or, for a byte of a block's
scratchpad, a number from 2^48 on. -/

namespace Sys2Proof.Machine

abbrev Out := Host.Outcome State Fault Refusal

/-! ### Words -/

/-- The little-endian number of a list of bytes (R6). -/
def leNat : List Byte → Nat
  | [] => 0
  | b :: r => b.toNat + 256 * leNat r

/-- The n low bytes of a number, little-endian (R6). -/
def leBytes : Nat → Nat → List Byte
  | 0, _ => []
  | n + 1, v => BitVec.ofNat 8 v :: leBytes n (v / 256)

/-- The low n bits of a 32-bit value, sign-extended (R87). -/
def sext32 (v : Nat) (n : Nat) : Word := BitVec.ofInt 32 ((BitVec.ofNat n v).toInt)

/-- The low n bits of a value sign-extended to 64 bits (R87). -/
def sext64 (v : Nat) (n : Nat) : Dword := BitVec.ofInt 64 ((BitVec.ofNat n v).toInt)

/-- Joins two words into a pair, low word first (R6). -/
def pair (lo hi : Word) : Dword := hi ++ lo

/-- The low and high word of a pair. -/
def lo32 (v : Dword) : Word := v.setWidth 32
def hi32 (v : Dword) : Word := (v >>> 32).setWidth 32

/-- Whether bit i of a word is 1. -/
def bitAt (m : Word) (i : Nat) : Bool := m.getLsbD i

/-- The mask of a list of lanes (R24). -/
def maskOf (ls : List Nat) : Word := ls.foldl (fun m l => m ||| (1#32 <<< l)) 0

/-- The lanes of a mask, ascending. -/
def lanesOf (m : Word) : List Nat := (List.range 32).filter (fun i => bitAt m i)

/-! ### Places of bytes -/

/-- The place of byte `off` of a block's scratchpad. -/
def spKey (block off : Nat) : Nat := 2 ^ 48 + block * 2 ^ 22 + off

/-- Whether a place lies in scratchpad. -/
def isSp (k : Nat) : Bool := 2 ^ 48 ≤ k

/-- The block and offset of a scratchpad place. -/
def spBlock (k : Nat) : Nat := (k - 2 ^ 48) / 2 ^ 22
def spOff (k : Nat) : Nat := (k - 2 ^ 48) % 2 ^ 22

/-- What a byte of memory that nothing has written reads as (DESIGN CHOICE, log entry 1). -/
def unwritten : Byte := 0

/-- A byte of memory, or of scratchpad, as performed at its home. -/
def State.byte (s : State) (k : Nat) : Byte :=
  if isSp k then match Map.get? s.blocks (spBlock k) with
    | some b => Map.getD b.sp (spOff k) 0
    | none => 0
  else Map.getD s.mem k unwritten

/-- Performs a byte at its home. -/
def State.setByte (s : State) (k : Nat) (v : Byte) : State :=
  if isSp k then { s with blocks := Map.upd s.blocks (spBlock k) (fun b => { b with sp := Map.setD b.sp (spOff k) v 0 }) }
  else { s with mem := Map.setD s.mem k v unwritten }

/-- Performs a list of bytes. -/
def State.setBytes (s : State) (cs : Map Byte) : State := cs.foldl (fun s c => s.setByte c.1 c.2) s

/-- Notes whose release wrote the bytes that a store performs: the compute die, and 1 more than the release's tick; other bytes lose their note
(R236). -/
def State.noteRelease (s : State) (core rel : Nat) (pas : List Nat) : State :=
  { s with relAt := (pas.filter (fun k => !isSp k)).foldl (fun m k => if rel = 0 then Map.del m k else Map.put m k (core / 32, rel)) s.relAt }

/-- The first tick at which an acquire on a core may have read the bytes: 60 ticks after a release on another compute die that wrote one of
them (R236). -/
def State.releaseDue (s : State) (core : Nat) (pas : List Nat) : Nat :=
  pas.foldl (fun n k => match Map.get? s.relAt k with
    | some (d, t) => if d != core / 32 then max n (t + 59) else n
    | none => n) 0

/-- n bytes from a place. -/
def State.bytes (s : State) (k n : Nat) : List Byte := (List.range n).map (fun i => s.byte (k + i))

/-- The bytes of a value laid from a place, as a map. -/
def cellsAt (k : Nat) (bs : List Byte) : Map Byte := bs.zipIdx.map (fun p => (k + p.2, p.1))

/-- A byte in the array that the host reads (R235). -/
def State.hostByte (s : State) (k : Nat) : Byte := Map.getD s.arr k unwritten

/-- Writes bytes into the host-visible array. -/
def State.setHost (s : State) (cs : Map Byte) : State :=
  { s with arr := cs.foldl (fun m c => Map.setD m c.1 c.2 unwritten) s.arr }

/-- Whether a list of pairs is the canonical form of memory: addresses strictly rising, no entry at the unwritten value. -/
def Memory.wf : Map Byte → Bool
  | [] => true
  | [(_, v)] => v != unwritten
  | (k, v) :: (k', v') :: r => k < k' && v != unwritten && Memory.wf ((k', v') :: r)

/-! ### Physical addresses (R208) -/

/-- Bytes of each base die's window that are populated (R208). -/
def populatedBytes : Nat := 0x19254D3800

/-- A populated byte of local HBM. -/
def isHbm (pa : Nat) : Bool := pa < 2 ^ 39 && pa % 2 ^ 37 < populatedBytes

/-- Host memory over the Izyth Link. -/
def isHost (pa : Nat) : Bool := 2 ^ 46 ≤ pa && pa < 2 ^ 47

/-- A Relay address, and its peer index. -/
def isRelay (pa : Nat) : Bool := 2 ^ 47 ≤ pa && pa < 2 ^ 48
def peerOf (pa : Nat) : Nat := pa / 2 ^ 39 % 256

/-- A Relay address of the device's own index is a local address (R208, R412). -/
def State.localPa (s : State) (pa : Nat) : Nat :=
  if isRelay pa && s.fw.ownPeer == some (peerOf pa) then pa % 2 ^ 39 else pa

/-- Whether a page may name the byte (R208, R211, R412). -/
def State.mappable (s : State) (pa : Nat) : Bool :=
  isHbm pa || isHost pa ||
    (isRelay pa && isHbm (pa % 2 ^ 39) && (s.fw.ownPeer == some (peerOf pa) || s.fw.peers.contains (peerOf pa)))

/-- The base die of a core, and the home base die of an address (R206, R215). -/
def baseDieOfCore (c : Nat) : Nat := c / 64
def homeDie (pa : Nat) : Nat := if pa < 2 ^ 39 then pa / 2 ^ 37 % 4 else pa / 2 ^ 12 % 4

/-- The home slice of an address in its base die (R207). -/
def homeSlice (pa : Nat) : Nat :=
  let n (i : Nat) : BitVec 4 := BitVec.ofNat 4 (pa / 2 ^ i)
  let x := n 8 ^^^ n 12 ^^^ n 16 ^^^ n 20 ^^^ n 24 ^^^ n 28 ^^^ n 32
  (x ^^^ BitVec.ofNat 4 (pa / 2 ^ 36 % 2)).toNat

/-- The set of the home slice of a line, among all sets of the package: 16 slices to a base die, 2,048 sets to a slice (R206). -/
def llcKey (line : Nat) : Nat := (homeDie (line * 256) * 16 + homeSlice (line * 256)) * 2048 + Config.llcSet line % 2048

/-! ### The home slices' lines (R206, R375) -/

/-- The ways of a set that containment has left. -/
def State.llcWays (s : State) (key : Nat) : Nat := 16 - ((s.fw.fencedWays.filter (fun p => llcKey p.2 == key)).length)

/-- A line in use at its home slice: it comes to the front of its set, dirty when written; the least recently used line makes room for
a new one, a dirty one by its write-back (R206). Host and Relay lines are not held. -/
def State.llcUse (s : State) (line : Nat) (wr : Bool) : State :=
  if !isHbm (line * 256) then s
  else
    let key := llcKey line
    let set := Map.getD s.llc key []
    let dirty := wr || set.any (fun e => e.1 == line && e.2)
    { s with llc := Map.put s.llc key (((line, dirty) :: set.filter (fun e => e.1 != line)).take (s.llcWays key)) }

/-- Whether the home slice of a local line holds it. -/
def State.llcHas (s : State) (line : Nat) : Bool := (Map.getD s.llc (llcKey line) []).any (fun e => e.1 == line)

/-- The lines of several places in use, in turn. -/
def State.llcUses (s : State) (pas : List Nat) (wr : Bool) : State :=
  (((pas.filter (fun k => !isSp k)).map (· / 256)).eraseDups).foldl (fun s x => s.llcUse x wr) s

/-! ### Accessors with a default -/

def Warp.absent : Warp := .start .warp 0 0 0 0 0 []
def Block.absent : Block := ⟨0, 0, 0, 0, false, false, false, none, 64, 1, 0, [], [], [], [], 64, false, 0, none⟩
def Group.absent : Group := ⟨0, 0, [], []⟩
def Grid.absent : Grid :=
  ⟨0, .seed 0 0 0 0 0 0 false, none, none, none, [], 0, [], none, none, 0, none, none, [], none, true, false, false⟩

def State.warp (s : State) (u : Nat) : Warp := Map.getD s.warps u .absent
def State.block (s : State) (u : Nat) : Block := Map.getD s.blocks u .absent
def State.group (s : State) (u : Nat) : Group := Map.getD s.groups u .absent
def State.grid (s : State) (u : Nat) : Grid := Map.getD s.grids u .absent
def State.core (s : State) (c : Nat) : Core := Map.getD s.cores c { Core.fresh with online := false }
def State.ctx (s : State) (x : Nat) : Ctx := Map.getD s.ctxs x .empty

def State.setWarp (s : State) (u : Nat) (w : Warp) : State := { s with warps := Map.put s.warps u w }
def State.setBlock (s : State) (u : Nat) (b : Block) : State := { s with blocks := Map.put s.blocks u b }
def State.setGroup (s : State) (u : Nat) (g : Group) : State := { s with groups := Map.put s.groups u g }
def State.setGrid (s : State) (u : Nat) (g : Grid) : State := { s with grids := Map.put s.grids u g }
def State.setCore (s : State) (c : Nat) (k : Core) : State := { s with cores := Map.put s.cores c k }
def State.setCtx (s : State) (x : Nat) (k : Ctx) : State := { s with ctxs := Map.put s.ctxs x k }
def State.updWarp (s : State) (u : Nat) (f : Warp → Warp) : State := { s with warps := Map.upd s.warps u f }
def State.updBlock (s : State) (u : Nat) (f : Block → Block) : State := { s with blocks := Map.upd s.blocks u f }
def State.updGrid (s : State) (u : Nat) (f : Grid → Grid) : State := { s with grids := Map.upd s.grids u f }
def State.updCore (s : State) (c : Nat) (f : Core → Core) : State := s.setCore c (f (s.core c))
def State.updCtx (s : State) (x : Nat) (f : Ctx → Ctx) : State := s.setCtx x (f (s.ctx x))

/-- Puts a request in flight under the next name, and the name. -/
def State.addReq (s : State) (r : Req) : State := { s with reqs := Map.put s.reqs s.nextId r, nextId := s.nextId + 1 }
def State.setReq (s : State) (k : Nat) (r : Req) : State := { s with reqs := Map.put s.reqs k r }
def State.delReq (s : State) (k : Nat) : State := { s with reqs := Map.del s.reqs k }

/-- A list of bytes by index. -/
def bytesMap (bs : List Byte) : Map Byte := bs.zipIdx.map (fun p => (p.2, p.1))

/-- The bytes of a map from index 0 to n - 1. -/
def bytesOf (m : Map Byte) (n : Nat) : List Byte := (List.range n).map (fun i => Map.getD m i 0)

/-- A value that no memory holds, on its way to registers of a lane (R19). -/
def Load.value (core warp lane : Nat) (dst : List (BitVec 6)) (v : Nat) : Load :=
  ⟨core, warp, lane, dst, 4 * dst.length, false, [], .done, bytesMap (leBytes (4 * dst.length) v), [], none, none, 0, false, 0, 0, 0⟩

/-- A free value, and the state that has used it (log entry 4). -/
def State.freeWord (s : State) : BitVec 64 := Config.freeValue s.free
def State.useFree (s : State) : State := { s with free := s.free + 1 }

/-- The tick moves on by n, but not past a tick that a debug stop names (R383) (DESIGN CHOICE, log entry 48). -/
def State.passTick (s : State) (n : BitVec 64) : State :=
  { s with tick := match s.fw.stopAt with
      | some t => if t < s.tick + n && s.tick ≤ t then t else s.tick + n
      | none => s.tick + n }

/-- The tick moves on to n at least; and whether a debug stop lets it. -/
def State.passTo (s : State) (n : Nat) : State := if s.tick.toNat < n then s.passTick (BitVec.ofNat 64 (n - s.tick.toNat)) else s
def State.tickFits (s : State) (n : Nat) : Bool := n ≤ s.tick.toNat || s.fw.stopAt.all (fun t => t < s.tick || n ≤ t.toNat)

/-- The tick as an observer finds it: no earlier than any reading before it (R236, log entry 4). -/
def State.observeTick (s : State) : State := (s.passTick (s.freeWord &&& 0xFFFFFFFF)).useFree

/-- The tick as a compute die reads it, with the die's offset (R4, R236). -/
def State.tickOn (s : State) (core : Nat) : BitVec 64 := s.tick + (if Config.tickOffset (core / 32) then 1 else 0)

def Core.bankOf (c : Core) (k : Nat) : Bank := Map.getD c.bank k (.initial k)
def Core.setBank (c : Core) (k : Nat) (b : Bank) : Core := { c with bank := Map.put c.bank k b }
def Core.tile (c : Core) (k : Nat) : Tile := Map.getD c.tiles k .free
def Core.setTile (c : Core) (k : Nat) (t : Tile) : Core := { c with tiles := Map.put c.tiles k t }

/-- The context of a block. -/
def State.ctxOfBlock (s : State) (b : Nat) : Nat := (s.grid (s.block b).grid).ctx

/-- The cluster of a core, its cluster position, and the core at a position of a cluster (R201). -/
def clusterOf (c : Nat) : Nat := c / 32 * 8 + c % 8 / 2 + 4 * (c % 32 / 8 / 2)
def positionOf (c : Nat) : Nat := 2 * (c % 32 / 8 % 2) + c % 2
def coreAt (cluster pos : Nat) : Nat :=
  cluster / 8 * 32 + (2 * (cluster % 8 / 4) + pos / 2) * 8 + 2 * (cluster % 4) + pos % 2

/-! ### Page tables (R209 to R211) -/

/-- A trap to be taken: cause code, address, detail (R24, R362). -/
structure Trap where
  cause : Nat
  addr : Dword := 0
  info : Word := 0
  deriving DecidableEq, Repr

/-- Bits covered by an entry of each level (R209). -/
def levelShift (level : Nat) : Nat := if level = 1 then 49 else if level = 2 then 38 else if level = 3 then 27 else 16

/-- The index of an address at a level (R209). -/
def levelIndex (va level : Nat) : Nat := if level = 1 then va / 2 ^ 49 % 256 else va / 2 ^ levelShift level % 2048

/-- The 8-byte table entry at a physical address. -/
def State.entryAt (s : State) (pa : Nat) : Nat := leNat (s.bytes pa 8)

/-- What one table read finds (R211). -/
inductive PteStep where
  | next (table : Nat)
  | leaf (x : Xlat)
  | fault (malformed : Bool)
  deriving DecidableEq, Repr

/-- Whether every byte of a page may be named (R208, R211). -/
def State.pageOk (s : State) (pa size : Nat) : Bool := s.mappable pa && s.mappable (pa + size - 1) && (isRelay pa == isRelay (pa + size - 1)) && (pa / 2 ^ 37 == (pa + size - 1) / 2 ^ 37 || isHost pa)

/-- Reads one entry of a walk (R209 to R211); an entry whose next table lies outside populated local HBM counts as malformed (DESIGN
CHOICE, log entry 102). -/
def State.pteStep (s : State) (ctx va level table : Nat) : PteStep :=
  let ix := levelIndex va level
  let e := s.entryAt (table + 8 * ix)
  let leaf := e / 2 % 2 == 1
  let size := e / 4 % 4
  let reserved := e / 2 ^ 48 != 0 || e / 2 ^ 8 % 2 ^ 6 != 0 || e / 2 ^ 6 % 2 != 0
  if e % 2 = 0 then .fault false
  else if reserved then .fault true
  else if !leaf then
    if level = 4 || e / 4 % 16 != 0 || e / 2 ^ 7 % 2 != 0 || !isHbm (e / 2 ^ 14 % 2 ^ 34 * 2 ^ 14) then .fault true
    else .next (e / 2 ^ 14 % 2 ^ 34 * 2 ^ 14)
  else
    let pa := e / 2 ^ 16 % 2 ^ 32 * 2 ^ 16
    let wrongLevel := level < 3 || (level == 3 && size != 2) || (level == 4 && 2 ≤ size) || e / 2 ^ 14 % 4 != 0
    let group := if size = 0 then 1 else if size = 1 then 32 else 8
    let bytes := if size = 0 then 2 ^ 16 else if size = 1 then 2 ^ 21 else 2 ^ 30
    let first := ix / group * group
    let same := (List.range group).all (fun i => s.entryAt (table + 8 * (first + i)) == e)
    if wrongLevel || !same || pa % bytes != 0 || !s.pageOk pa bytes then .fault true
    else .leaf ⟨ctx, va / bytes * bytes, bytes, pa, e / 16 % 2 == 1, e / 32 % 2 == 1, e / 128 % 2 == 1, level⟩

/-- The tinfo of a failed walk (R211). -/
def walkInfo (level : Nat) (malformed : Bool) : Word := BitVec.ofNat 32 (level + if malformed then 8 else 0)

/-- A whole walk from a level on: at most four reads (R209). -/
def State.walkFrom (s : State) (ctx va : Nat) : Nat → Nat → Nat → Xlat ⊕ Trap
  | 0, level, _ => .inr ⟨0x08, BitVec.ofNat 64 va, walkInfo level true⟩
  | fuel + 1, level, table =>
    match s.pteStep ctx (va % 2 ^ 57) level table with
    | .next t => s.walkFrom ctx va fuel (level + 1) t
    | .leaf x => .inl x
    | .fault m => .inr ⟨0x08, BitVec.ofNat 64 va, walkInfo level m⟩

/-- The walk of an address in a context; a context without a root table maps nothing. -/
def State.walk (s : State) (ctx : Nat) (va : Dword) : Xlat ⊕ Trap :=
  match (s.ctx ctx).root with
  | some root => s.walkFrom ctx va.toNat 4 1 root
  | none => .inr ⟨0x08, va, walkInfo 1 false⟩

/-- Whether an address is canonical, or lies in the scratchpad window (R15). -/
def canonical (va : Dword) : Bool := va.toNat / 2 ^ 56 == 0 || va.toNat / 2 ^ 56 == 255
def inWindow (va : Dword) : Bool := va.toNat / 2 ^ 56 == 254

/-- Whether a translation's rights allow the access (R211). -/
def Xlat.allows (x : Xlat) (rd wr : Bool) : Bool := (!rd || x.r) && (!wr || x.w)

/-- The physical address under a translation. -/
def Xlat.paOf (x : Xlat) (va : Nat) : Nat := x.pa + (va % 2 ^ 57) % x.size

/-- Whether a translation serves an address. -/
def Xlat.covers (x : Xlat) (ctx va : Nat) : Bool := x.ctx == ctx && x.base == va % 2 ^ 57 / x.size * x.size

def State.sharedTlb (s : State) (core : Nat) : List Xlat := Map.getD s.tlbs (baseDieOfCore core) []

/-- A translation found in the core's TLB or the base die's. -/
def State.tlbFind (s : State) (core ctx va : Nat) : Option Xlat :=
  match (s.core core).tlb.find? (fun x => x.covers ctx va) with
  | some x => some x
  | none => (s.sharedTlb core).find? (fun x => x.covers ctx va)

/-- A translation enters both TLBs; the entries that entered first leave (log entry 22). -/
def State.fillShared (s : State) (core : Nat) (x : Xlat) : State :=
  { s with tlbs := Map.put s.tlbs (baseDieOfCore core) ((x :: (s.sharedTlb core).filter (· != x)).take 32768) }

def State.fillTlb (s : State) (core : Nat) (x : Xlat) : State :=
  (s.fillShared core x).updCore core (fun c => { c with tlb := (x :: c.tlb.filter (· != x)).take 256 })

/-- The kept table entry that serves an address deepest: the level to read next, and its table (R212). -/
def State.walkStart (s : State) (core ctx va : Nat) : Option (Nat × Nat) :=
  let es := Map.getD s.wcache (baseDieOfCore core) []
  let hit (level : Nat) : Option (Nat × Nat) :=
    (es.find? (fun e => e.ctx == ctx && e.level == level && e.base == va % 2 ^ 57 / 2 ^ levelShift level)).map (fun e => (level + 1, e.table))
  match hit 3 with
  | some x => some x
  | none => match hit 2 with
    | some x => some x
    | none => match hit 1 with
      | some x => some x
      | none => (s.ctx ctx).root.map (fun r => (1, r))

/-- A kept table entry that a walk starts below is the most recently used (R212). -/
def State.touchEntry (s : State) (core ctx va : Nat) : State :=
  match s.walkStart core ctx va with
  | none => s
  | some (level, _) =>
    let d := baseDieOfCore core
    let es := Map.getD s.wcache d []
    let hit (e : WalkEntry) : Bool := e.ctx == ctx && e.level + 1 == level && e.base == va % 2 ^ 57 / 2 ^ levelShift e.level
    { s with wcache := Map.put s.wcache d (es.filter hit ++ es.filter (fun e => !hit e)) }

def State.keepEntry (s : State) (core : Nat) (e : WalkEntry) : State :=
  let d := baseDieOfCore core
  { s with wcache := Map.put s.wcache d ((e :: (Map.getD s.wcache d []).filter (· != e)).take 512) }

/-- A walk that starts below the deepest table entry that the base die of a core keeps for the address (R209, R212). -/
def State.keptWalk (s : State) (core ctx va : Nat) : Xlat ⊕ Trap :=
  match s.walkStart core ctx va with
  | some (level, table) => s.walkFrom ctx va 4 level table
  | none => .inr ⟨0x08, BitVec.ofNat 64 va, walkInfo 1 false⟩

/-- An address as a core's own accesses find it: by its TLB, its base die's, or such a walk (R212). -/
def State.xlat (s : State) (core ctx : Nat) (va : Dword) : Xlat ⊕ Trap :=
  match s.tlbFind core ctx va.toNat with
  | some x => .inl x
  | none => s.keptWalk core ctx va.toNat

/-- An address as an engine finds it, by the base die's TLB or such a walk (R212). -/
def State.sharedXlat (s : State) (core ctx : Nat) (va : Dword) : Xlat ⊕ Trap :=
  match (s.sharedTlb core).find? (fun x => x.covers ctx va.toNat) with
  | some x => .inl x
  | none => s.keptWalk core ctx va.toNat

/-- Whether a table reaches a byte through a leaf. -/
def State.tableMaps (s : State) (lo n : Nat) : Nat → Nat → Nat → Bool
  | 0, _, _ => false
  | fuel + 1, level, table =>
    (List.range (if level = 1 then 256 else 2048)).any (fun ix =>
      if s.entryAt (table + 8 * ix) % 2 = 0 then false
      else match s.pteStep 0 (ix * 2 ^ levelShift level) level table with
        | .next t => s.tableMaps lo n fuel (level + 1) t
        | .leaf x => x.pa < lo + n && lo < x.pa + x.size
        | .fault _ => false)

/-- Whether a context maps a byte of a range. -/
def State.ctxMaps (s : State) (x lo n : Nat) : Bool := match (s.ctx x).root with | some r => s.tableMaps lo n 4 1 r | none => false

/-! ### Windows and pages (R201, R202, R211) -/

/-- The line and page checks of contained data (R375, R376). -/
def State.contained (s : State) (pa : Nat) : Bool :=
  s.fw.retired.contains (pa / 2 ^ 16) || s.fw.lostLines.contains (pa / 256) || (isRelay pa && s.fw.failedPeers.contains (peerOf pa))

/-- Blocks on a core; a migrated warp's block stands alone (R410). -/
def State.coreBlocks (s : State) (c : Nat) : List Nat := Map.keysWhere s.blocks (fun _ b => b.core == c)

/-- The oldest block of a context on a core (R186). -/
def State.oldestBlock (s : State) (core ctx : Nat) : Option Nat :=
  (s.coreBlocks core).foldl (fun acc b =>
    if s.ctxOfBlock b == ctx && !(s.block b).migrated then
      match acc with
      | none => some b
      | some a => if (s.block b).stamp < (s.block a).stamp then some b else acc
    else acc) none

/-- Whose view of the scratchpad window an access takes: a block's, a scalar control core's, or nobody's (R186, R202, R410). -/
inductive View where
  | none
  | block (b : Nat)
  | scc
  deriving DecidableEq, Repr

/-- The offsets of a window address as one number: dx, then dy (R201). -/
def windowId (va : Dword) : Nat := va.toNat / 2 ^ 48 % 256

/-- The block whose scratchpad the offsets of a window address name for a core (R186, R201, R202). -/
def State.windowBlock (s : State) (ctx core : Nat) (view : View) (id : Nat) : Option Nat :=
  let sx (d : Nat) : Int := if 8 ≤ d then (d : Int) - 16 else d
  let dx := sx (id / 16 % 16)
  let dy := sx (id % 16)
  let pos := positionOf core
  let x := (pos % 2 : Nat) + dx
  let y := (pos / 2 : Nat) + dy
  if dx < -1 || 1 < dx || dy < -1 || 1 < dy || x < 0 || 1 < x || y < 0 || 1 < y then Option.none
  else
    let target := coreAt (clusterOf core) (2 * y.toNat + x.toNat)
    match view with
    | .none => Option.none
    | .scc => s.oldestBlock target ctx
    | .block b => if dx = 0 && dy = 0 then some b
      else (Map.find? s.blocks (fun _ k => k.group == (s.block b).group && k.core == target)).map (·.1)

/-- The place of the first of n bytes at a window address in a block's scratchpad, or the trap (R202, step 3). -/
def State.windowByte (s : State) (t : Nat) (va : Dword) (n : Nat) : Nat ⊕ Trap :=
  let off := va.toNat % 2 ^ 22
  if va.toNat / 2 ^ 22 % 2 ^ 26 != 0 || (s.block t).scratch < off + n then .inr ⟨0x09, va, 0⟩ else .inl (spKey t off)

/-- A window address resolved for a core (R201, R202): the place of its first byte, or the trap. Alignment is checked before. -/
def State.window (s : State) (ctx core : Nat) (view : View) (va : Dword) (n : Nat) : Nat ⊕ Trap :=
  match s.windowBlock ctx core view (windowId va) with
  | Option.none => .inr ⟨0x0B, va, 0⟩
  | some t => s.windowByte t va n

/-- A byte's place under a translation: data that are not contained, rights that allow the access (R211, R376). -/
def State.pageByte (s : State) (x : Xlat) (va : Dword) (rd wr : Bool) : Nat ⊕ Trap :=
  let pa := s.localPa (x.paOf va.toNat)
  if s.contained pa then .inr ⟨0x16, va, 0⟩
  else if x.allows rd wr then .inl pa else .inr ⟨0x09, va, BitVec.ofNat 32 x.level⟩

/-- A byte's place with a translation of its page: window or page, rights checked (R211). -/
def State.placeBy (s : State) (x : Xlat ⊕ Trap) (ctx core : Nat) (view : View) (va : Dword) (n : Nat) (rd wr : Bool) : Nat ⊕ Trap :=
  if inWindow va then s.window ctx core view va n
  else if !canonical va then .inr ⟨0x09, va, 0⟩
  else match x with
    | .inr t => .inr t
    | .inl x => s.pageByte x va rd wr

/-- A byte's place by the tables as they stand, as the firmware finds it. -/
def State.place (s : State) (ctx core : Nat) (view : View) (va : Dword) (n : Nat) (rd wr : Bool) : Nat ⊕ Trap :=
  s.placeBy (s.walk ctx va) ctx core view va n rd wr

/-- A byte's place as a core's own access finds it (R212). -/
def State.corePlace (s : State) (ctx core : Nat) (view : View) (va : Dword) (n : Nat) (rd wr : Bool) : Nat ⊕ Trap :=
  s.placeBy (s.xlat core ctx va) ctx core view va n rd wr

/-- The places of n bytes from an address, one by one, or the first trap. -/
def placesBy (f : Dword → Nat ⊕ Trap) (va : Dword) (n : Nat) : List Nat ⊕ Trap :=
  (List.range n).foldr (fun i acc =>
    match f (va + BitVec.ofNat 64 i), acc with
    | .inl k, .inl ks => .inl (k :: ks)
    | .inr t, _ => .inr t
    | _, .inr t => .inr t) (.inl [])

def State.places (s : State) (ctx core : Nat) (view : View) (va : Dword) (n : Nat) (rd wr : Bool) : List Nat ⊕ Trap :=
  placesBy (fun v => s.place ctx core view v 1 rd wr) va n

/-! ### Stores in flight, and the array that the host reads (R235) -/

/-- The stores in flight, in issue order. -/
def State.stores (s : State) : List (Nat × Store) := s.reqs.filterMap (fun p => match p.2 with | .store t => some (p.1, t) | _ => none)

/-- The places of a store's bytes. -/
def Store.pas (t : Store) : List Nat := t.cells.map (·.1)

/-- Whether two lists of places meet. -/
def meets (a b : List Nat) : Bool := a.any b.contains

/-- Whether a store stands in its home slice's write buffer: performed, and not yet in the array. -/
def Store.buffered (t : Store) : Bool := t.done != 0 && !t.shown

/-- A performed store's bytes enter the array. -/
def State.showStore (s : State) (k : Nat) : State :=
  match Map.get? s.reqs k with
  | some (.store t) => (s.setHost t.cells).setReq k (.store { t with shown := true })
  | _ => s

/-- The buffered stores that a write to some places must follow into the array, since they or what must follow them touch those places; they enter it in
the order in which they were performed, so that the array never goes back (R219, R235). -/
def State.showOver (s : State) (p : Nat → Bool) : State :=
  let by_ := s.stores.foldl (fun m q => if q.2.buffered then Map.put m q.2.done q else m) ([] : Map (Nat × Store))
  let ks := (by_.foldr (fun q (acc : List Nat × List Nat) =>
    if q.2.2.pas.any (fun k => p k || acc.2.contains k) then (q.2.1 :: acc.1, q.2.2.pas ++ acc.2) else acc) ([], [])).1
  ks.foldl State.showStore s

/-- Bytes just performed at their home slices are in the array at once, their lines in use and dirty (R206, R235). -/
def State.toArray (s : State) (cells : Map Byte) : State := ((s.showOver (Map.has cells)).setHost cells).llcUses (cells.map (·.1)) true

/-! ### The die point and the L1 (R198 to R200, R218) -/

/-- Whether the die point over a base die holds a store: it has passed and is not yet acknowledged at its home (R218). -/
def Store.heldAt (t : Store) (die : Nat) : Bool := (t.stage == .passed || t.stage == .performed) && baseDieOfCore t.core == die

/-- The store that the die point over a base die holds for a byte: the last that has passed (R218). -/
def State.heldStore (s : State) (die pa : Nat) : Option Store :=
  s.stores.foldl (fun acc p =>
    if p.2.heldAt die && Map.has p.2.cells pa then
      match acc with
      | some t => if t.pass < p.2.pass then some p.2 else acc
      | none => some p.2
    else acc) none

/-- The value that it holds. -/
def State.held (s : State) (die pa : Nat) : Option Byte := (s.heldStore die pa).bind (fun t => Map.get? t.cells pa)

/-- A byte as a request of a core takes it at the die point, or else at the home slice (R218). -/
def State.dieByte (s : State) (core pa : Nat) : Byte :=
  if isSp pa then s.byte pa else (s.held (baseDieOfCore core) pa).getD (s.byte pa)

/-- Whether the L1 holds a byte: its sector valid or its mask bit set (R198). -/
def Core.l1Has (c : Core) (pa : Nat) : Bool :=
  match Map.get? c.l1 (pa / 256) with
  | some l => l.valid.getLsbD (pa % 256 / 64) || l.mask.getLsbD (pa % 256)
  | none => false

/-- The L1's byte. -/
def Core.l1Byte (c : Core) (pa : Nat) : Byte :=
  match Map.get? c.l1 (pa / 256) with
  | some l => Map.getD l.data (pa % 256) 0
  | none => 0

/-- A byte as a load of the core sees it: the L1's where the L1 holds it, else the die point's or the home's. -/
def State.coreByte (s : State) (core pa : Nat) : Byte :=
  if isSp pa then s.byte pa
  else if (s.core core).l1Has pa then (s.core core).l1Byte pa else s.dieByte core pa

/-- The CACHE banks that still take lines (R196, R197). -/
def Core.ways (c : Core) : List Nat := (List.range 37).filter (fun k => (c.bankOf k).mode == 0 && !(c.bankOf k).stopping)

/-- Allocates a line (R197, R198): its own entry if present; a way free in its set, the lowest numbered; else the least recently used
line without mask bits; none where every line of the set holds mask bits. -/
def Core.allocLine (c : Core) (line stamp : Nat) : Option Core :=
  match Map.get? c.l1 line with
  | some l => some { c with l1 := Map.put c.l1 line { l with stamp := stamp } }
  | none =>
    let inSet := c.l1.filter (fun p => p.1 % 256 == line % 256)
    match c.ways.find? (fun k => inSet.all (fun p => p.2.bank != k)) with
    | some k => some { c with l1 := Map.put c.l1 line ⟨k, 0, 0, [], stamp⟩ }
    | none =>
      let victims := inSet.filter (fun p => p.2.mask == 0 && c.ways.contains p.2.bank)
      match victims with
      | [] => none
      | v :: vs =>
        let old := vs.foldl (fun a p => if p.2.stamp < a.2.stamp then p else a) v
        some { c with l1 := Map.put (Map.del c.l1 old.1) line ⟨old.2.bank, 0, 0, [], stamp⟩ }

/-- A store's bytes enter the L1 with their mask bits (R199). -/
def Core.l1Store (c : Core) (cells : Map Byte) : Core :=
  cells.foldl (fun c p =>
    { c with l1 := Map.upd c.l1 (p.1 / 256) (fun l =>
        { l with data := Map.put l.data (p.1 % 256) p.2, mask := l.mask ||| (1#256 <<< (p.1 % 256)) }) }) c

/-- A fill enters the L1: masked bytes keep their value, the sector becomes valid (R198). -/
def Core.l1Fill (c : Core) (sector : Nat) (bs : List Byte) : Core :=
  { c with l1 := Map.upd c.l1 (sector / 4) (fun l =>
      { l with
        valid := l.valid ||| (1#4 <<< (sector % 4))
        data := bs.zipIdx.foldl (fun d p =>
          let off := sector % 4 * 64 + p.2
          if l.mask.getLsbD off then d else Map.put d off p.1) l.data }) }

/-- An L1 invalidation: every sector's valid bit is cleared; masked bytes stay (R200). -/
def Core.l1Invalidate (c : Core) : Core :=
  { c with l1 := (c.l1.filter (fun p => p.2.mask != 0)).map (fun p =>
      (p.1, { p.2 with valid := 0, data := p.2.data.filter (fun d => p.2.mask.getLsbD d.1) })) }

/-- Takes lines for stores to a list of lines, in turn, each with a mask bit set (R199); none where a line finds no place. -/
def Core.takeLines (c : Core) (stamp : Nat) (ls : List Nat) : Option Core :=
  ls.foldl (fun acc x => acc.bind (fun c => (c.allocLine x stamp).map (fun c =>
    { c with l1 := Map.upd c.l1 x (fun l => { l with mask := l.mask ||| 1 }) }))) (some c)

/-- Clears the valid bit of one sector (R199). -/
def Core.l1DropSector (c : Core) (sector : Nat) : Core :=
  { c with l1 := Map.upd c.l1 (sector / 4) (fun l => { l with valid := l.valid &&& ~~~ (1#4 <<< (sector % 4)) }) }

/-- Marks the core's fills on their way as invalidated after they left (R198). -/
def State.staleFills (s : State) (core : Nat) (sector : Option Nat) : State :=
  { s with reqs := s.reqs.map (fun p => match p.2 with
      | .fill f => if f.core == core && (sector == none || sector == some f.sector) then (p.1, .fill { f with stale := true }) else p
      | _ => p) }

/-- The core's L1 invalidation as one step (R200). -/
def State.invalidateL1 (s : State) (core : Nat) : State := (s.updCore core Core.l1Invalidate).staleFills core none

end Sys2Proof.Machine
end

