-- ==== Sys2Proof/Machine/Lanes.lean ====
section
/-! DEFINITION. Lanes and scopes: a lane's registers and predicates, the frontier of a warp, the register tree, parcels as lanes see
them, and the counts of events (01_sequential_machine.md, 07_parallel_execution.md, 17_code_parcels.md, 22_debug_and_replay.md). -/

namespace Sys2Proof.Machine

/-! ### Lane registers and predicates (R19, R20, R87) -/

/-- A position that holds no lane. -/
def Lane.absent : Lane := { Lane.start 0 0 with place := .ended }

def Warp.lane (w : Warp) (l : Nat) : Lane := Map.getD w.lanes l .absent

def Warp.updLane (w : Warp) (l : Nat) (f : Lane → Lane) : Warp := { w with lanes := Map.upd w.lanes l f }

def Lane.cell (k : Lane) (r : Nat) : Cell := Map.getD k.x r .zero

/-- The value of xr, whatever its state. -/
def Lane.val (k : Lane) (r : Nat) : Word := (k.cell r).v

/-- Put: writes xr and makes it full (R87). -/
def Lane.put (k : Lane) (r : Nat) (v : Word) : Lane := { k with x := Map.setD k.x r ⟨v, .full⟩ .zero }

/-- PutPair: the low word in the even register. -/
def Lane.putPair (k : Lane) (r : Nat) (v : Dword) : Lane := (k.put r (lo32 v)).put (r + 1) (hi32 v)

/-- MarkEmpty keeps the value under the state, so that a trap can restore the register (R19, R23). -/
def Lane.mark (k : Lane) (long : Bool) (r : Nat) : Lane := { k with x := Map.put k.x r ⟨k.val r, .empty long⟩ }

/-- Gives a marked register its state of before back: full, or orphaned as it was (R23, R116). -/
def Lane.restore (k : Lane) (r : Nat) (orphan : Bool) : Lane :=
  { k with x := Map.setD k.x r ⟨k.val r, if orphan then .orphan else .full⟩ .zero }

/-- A register whose producer is cancelled (R20). -/
def Lane.orphan (k : Lane) (r : Nat) : Lane := { k with x := Map.put k.x r ⟨k.val r, .orphan⟩ }

def Lane.isEmpty (k : Lane) (r : Nat) : Bool := match (k.cell r).fe with | .empty _ => true | _ => false

def Lane.isLong (k : Lane) (r : Nat) : Bool := (k.cell r).fe == .empty true

def Lane.isOrphan (k : Lane) (r : Nat) : Bool := (k.cell r).fe == .orphan

/-- P: p7 reads 1 (R9). -/
def Lane.pred (k : Lane) (p : BitVec 3) : Bool := p == 7 || k.p.getLsbD p.toNat

/-- PutP: a write to p7 is discarded (R9). -/
def Lane.putP (k : Lane) (p : BitVec 3) (t : Bool) : Lane :=
  if p == 7 then k else { k with p := if t then k.p ||| (1#7 <<< p.toNat) else k.p &&& ~~~ (1#7 <<< p.toNat) }

/-! ### The frontier (R150, R151) -/

/-- A barrier wait, a wait on a transaction barrier, JOIN, or TASKEND that awaits its commit: the stops that take a warp out of the active set (R157,
R295). -/
def Place.waits : Place → Bool
  | .bar _ _ _ _ => true
  | .tb _ _ => true
  | .children _ => true
  | .taskEnd => true
  | _ => false

/-- A live lane that is no helper (R141, R191). -/
def Lane.alive (k : Lane) : Bool := !k.helper && k.place != .ended

/-- A lane of the frontier. -/
def Lane.ready (k : Lane) : Bool := !k.helper && k.place == .frontier

/-- Frontier order: higher priority first, then the lower code address. -/
def Lane.before (a b : Lane) : Bool :=
  b.prio < a.prio || (a.prio == b.prio && (a.pc < b.pc || (a.pc == b.pc && ((!a.past && b.past) || (a.past == b.past && a.frag < b.frag)))))

/-- One entry: equal address and priority (R150), and of one handler fragment (R360). -/
def Lane.sameEntry (a b : Lane) : Bool := a.prio == b.prio && a.pc == b.pc && a.past == b.past && a.frag == b.frag

/-- A lane of the frontier's first entry. -/
def Warp.head (w : Warp) : Option Lane :=
  w.lanes.foldl (fun acc p =>
    if p.2.ready then
      match acc with
      | none => some p.2
      | some k => if p.2.before k then some p.2 else acc
    else acc) none

/-- The lanes of an entry, ascending: its frontier lanes and the helper lanes of their quads (R141). -/
def Warp.entry (w : Warp) (h : Lane) : List Nat :=
  let own := Map.keysWhere w.lanes (fun _ k => k.ready && k.sameEntry h)
  Map.keysWhere w.lanes (fun l k => own.contains l || (k.helper && k.place != .ended && own.any (fun m => m / 4 == l / 4)))

/-- Live non-helper lanes. -/
def Warp.liveLanes (w : Warp) : List Nat := Map.keysWhere w.lanes (fun _ k => k.alive)

def Warp.live (w : Warp) : Bool := w.lanes.any (fun p => p.2.alive)

/-- The parked mask A of a join register (R152). -/
def Warp.joinParked (w : Warp) (j : Nat) : Word := maskOf (Map.keysWhere w.lanes (fun _ k => k.place == .join j))

def Warp.joinE (w : Warp) (j : Nat) : Word := Map.getD w.joins j 0

def Warp.tokBusy (w : Warp) (k : Nat) : Bool := Map.getD w.tok k 0 != 0

/-- Adds to a token, and takes from it (R281). -/
def Warp.tokAdd (w : Warp) (k n : Nat) : Warp := { w with tok := Map.setD w.tok k (Map.getD w.tok k 0 + n) 0 }
def Warp.tokSub (w : Warp) (k : Nat) : Warp := { w with tok := Map.setD w.tok k (Map.getD w.tok k 0 - 1) 0 }

/-- Whether an acquire of the warp has not completed (R224). -/
def Warp.acquiring (w : Warp) : Bool := w.acq.isSome

/-- Whether an operation of the whole warp is pending; a fence and a MIGRATE that wait stay the next instruction to issue. -/
def Warp.held (w : Warp) : Bool :=
  match w.hold with
  | some (.office _ _ _ _) => true
  | some .bankcfg => true
  | some (.replayArm _ _) => true
  | _ => false

/-- The wait of a fence or a MIGRATE is over. -/
def Warp.unwait (w : Warp) : Warp :=
  match w.hold with
  | some (.fence _ _ _) => { w with hold := none }
  | some (.restante _ _ _) => { w with hold := none }
  | _ => w

/-- Whether a debug session has parked the warp (R386). -/
def Warp.parked (w : Warp) : Bool := w.lanes.any (fun p => p.2.place == .debug)

/-- Whether the warp issues nothing: checks pending, an operation of the whole warp pending, a breakpoint to be taken, or parked. -/
def Warp.busy (w : Warp) : Bool := w.check.isSome || w.held || w.bp.isSome || w.parked

/-- The next sequential address (R13): the parcel id stays; past offset 0xFFFF only the trap of the next fetch follows (DEDUCED, log
entry 14). An instruction re-executed with watchpoint checks off is done (R362). -/
def Lane.advance (k : Lane) (len : Nat) : Lane :=
  let o := k.pc.toNat % 65536 + len
  { k with pc := BitVec.ofNat 32 (k.pc.toNat / 65536 * 65536 + o % 65536), past := k.past || 65536 ≤ o, noWatch := false }

/-- Whether the place `len` halfwords after a code address has an offset of its own: offsets do not wrap (R13). -/
def fitsAfter (pc : Word) (len : Nat) : Bool := pc.toNat % 65536 + len < 65536

/-- The code address `len` halfwords after one; past offset 0xFFFF it is none, and what a trap register shows there is the offset mod 2^16
(DESIGN CHOICE, log entry 14). -/
def codeAfter (pc : Word) (len : Nat) : Word := BitVec.ofNat 32 (pc.toNat / 65536 * 65536 + (pc.toNat % 65536 + len) % 65536)

/-- A transfer (R14); a lane that leaves priority 63 is of no handler fragment. -/
def Lane.goto (k : Lane) (pc : Word) (prio : BitVec 6) : Lane :=
  { k with pc := pc, past := false, prio := prio, frag := if prio == 63 then k.frag else 0 }

/-- The lanes of a handler fragment that its last instruction has sent apart are fragments of their own (R360). -/
def Warp.split (w : Warp) (ls : List Nat) : Warp :=
  { w with lanes := Map.mapV w.lanes (fun l k =>
      if ls.contains l && !k.helper && k.prio == 63 then
        { k with frag := 1 + ((ls.filter (fun m => !(w.lane m).helper && (w.lane m).place == k.place && (w.lane m).sameEntry k)).headD l) }
      else k) }

/-- Forgets that lanes have begun a SPAWN (R185). -/
def Warp.unspawn (w : Warp) (ls : List Nat) : Warp := { w with spawned := w.spawned &&& ~~~ maskOf ls, spawning := w.spawning &&& ~~~ maskOf ls }

/-- Applies a function to lanes of a warp. -/
def State.updLanes (s : State) (u : Nat) (ls : List Nat) (f : Nat → Lane → Lane) : State :=
  s.updWarp u (fun w => { w with lanes := Map.mapV w.lanes (fun l k => if ls.contains l then f l k else k) })

/-- Whether a core has a task slot free (R271, R275). -/
def Core.slotFree (c : Core) : Bool := (List.range 64).any (fun n => !(Map.has c.tasks n))

/-- Lanes that wait for a task slot try again; those whose task has lost one, where a slot is free (R275). -/
def State.wakeSlots (s : State) : State :=
  { s with warps := Map.mapV s.warps (fun _ w => { w with lanes := Map.mapV w.lanes (fun _ k => match k.place with
      | .slot lost => if !lost || (s.core w.core).slotFree then { k with place := .frontier } else k
      | _ => k) }) }

/-! ### Agents -/

/-- The grid of an agent: its block's, or none (0) for a scalar control core (R11). -/
def State.gridOf (s : State) (w : Warp) : Nat := match w.kind with | .scc _ => 0 | .ae _ _ _ g => g | .warp => (s.block w.block).grid

/-- Registers per lane of an agent (R10, R300). -/
def State.nregs (s : State) (w : Warp) : Nat := match w.kind with | .warp => (s.block w.block).nregs | _ => 64

/-- Whether xr may be named with n registers per lane (R10). -/
def nameable (n r : Nat) : Bool := r + 1 < n || (r == 63 && 0 < n)

def Warp.isScc (w : Warp) : Bool := match w.kind with | .scc _ => true | _ => false
def Warp.isAe (w : Warp) : Bool := match w.kind with | .ae _ _ _ _ => true | _ => false

/-- The warps of a block that have not ended. -/
def State.liveWarps (s : State) (b : Nat) : List Nat :=
  Map.keysWhere s.warps (fun _ w => w.kind == .warp && w.block == b && w.live)

/-- The blocks of a cluster group, and of a grid. -/
def State.groupBlocks (s : State) (g : Nat) : List Nat := Map.keysWhere s.blocks (fun _ b => b.group == g)
def State.gridBlocks (s : State) (g : Nat) : List Nat := Map.keysWhere s.blocks (fun _ b => b.grid == g)

/-- Whether a core's dispatcher has been told to vacate a context (R369). -/
def State.leaving (s : State) (core ctx : Nat) : Bool := (s.core core).vacating.contains ctx

/-- Whether a pre-emption takes a cluster from a context: some core of it is being vacated, and every block of the context there stands on one that
is (R299, R368). -/
def State.clusterLeaves (s : State) (cl ctx : Nat) : Bool :=
  let cs := (List.range 4).map (coreAt cl)
  ctx != 0 && cs.any (fun c => s.leaving c ctx) &&
    cs.all (fun c => s.leaving c ctx || !((s.coreBlocks c).any (fun b => s.ctxOfBlock b == ctx)))

/-- Whose view of the scratchpad window an agent has (R186, R202, R410). -/
def State.view (s : State) (w : Warp) : View :=
  match w.kind with
  | .scc _ => .scc
  | _ => if w.block = 0 then .scc else if (s.block w.block).migrated then .none else .block w.block

/-- The places of n bytes that an agent reads at issue, found as its loads find them (R212). -/
def State.agentPlaces (s : State) (w : Warp) (va : Dword) (n : Nat) (rd wr : Bool) : List Nat ⊕ Trap :=
  placesBy (fun v => s.corePlace w.ctx w.core (s.view w) v 1 rd wr) va n

/-- Whether a warp is older than another (R156). -/
def State.older (s : State) (u v : Nat) : Bool :=
  let a := s.warp u
  let b := s.warp v
  a.stamp < b.stamp || (a.stamp == b.stamp && (a.block < b.block || (a.block == b.block && a.wix < b.wix)))

/-! ### The register tree (R161 to R167) -/

/-- Combines a register's value with a fold (R172); the number is the REDU function's. -/
def scopeOp (op : Nat) (a b : Word) : Word :=
  match op with
  | 2 => a + b
  | 3 => BitVec.ofNat 32 (f32.add .plain a.toNat b.toNat).bits
  | 4 => if b.slt a then b else a
  | 5 => if a.slt b then b else a
  | 6 => if b < a then b else a
  | 7 => if a < b then b else a
  | 8 => a &&& b
  | 9 => a ||| b
  | 10 => a ^^^ b
  | 11 => BitVec.ofNat 32 (f32.minmax false false a.toNat b.toNat).bits
  | 12 => BitVec.ofNat 32 (f32.minmax false true a.toNat b.toNat).bits
  | _ => BitVec.ofNat 32 (f32.minmax false true (a &&& 0x7FFFFFFF).toNat (b &&& 0x7FFFFFFF).toNat).bits

/-- A DET buffer applied to the epoch's value (R166). -/
def DetBuf.apply (d : DetBuf) (v : Word) : Word :=
  match d with
  | .assigned a => a
  | .reduce op a => scopeOp op v a

/-- The level and register of a block, cluster or grid scope index (R72). -/
def scopeLevel (i : Nat) : Nat × Nat := if i < 40 then (0, i - 24) else if i < 48 then (1, i - 40) else (2, i - 48)

/-- The grid that a scalar control core is bound to, while it has not ended (R11). -/
def State.boundGrid (s : State) (cluster : Nat) : Option Nat :=
  match Map.get? s.sccGrid cluster with
  | some g => if (s.grid g).ended then none else some g
  | none => none

/-- The block of a grid at the lowest cluster position of a cluster (R11); of two on one core the block that was placed first (DESIGN CHOICE, log entry
112). -/
def State.lowestBlock (s : State) (grid cluster : Nat) : Option Nat :=
  (s.gridBlocks grid).foldl (fun acc b =>
    if clusterOf (s.block b).core == cluster && !(s.block b).migrated then
      match acc with
      | none => some b
      | some a => if positionOf (s.block b).core < positionOf (s.block a).core then some b else acc
    else acc) none

/-- The owner of a scope register for an agent: block, cluster group or grid. None for c0 to c7 of a scalar control core whose bound grid has no
block on its cluster: they read 0 (DESIGN CHOICE, log entry 112). -/
def State.scopeOwner (s : State) (w : Warp) (level : Nat) : Option Nat :=
  match w.kind with
  | .scc c => match s.boundGrid c with
    | none => none
    | some g => if level = 2 then some g else (s.lowestBlock g c).map (fun b => (s.block b).group)
  | _ => if level = 0 then some w.block else if level = 1 then some (s.block w.block).group else some (s.gridOf w)

/-- The value held for a block, cluster or grid register. -/
def State.scopeHeld (s : State) (level owner reg : Nat) : Word :=
  if level = 0 then Map.getD (s.block owner).b reg 0
  else if level = 1 then Map.getD (s.group owner).c reg 0
  else Map.getD (s.grid owner).g reg 0

def State.setScope (s : State) (level owner reg : Nat) (v : Word) : State :=
  if level = 0 then s.updBlock owner (fun b => { b with b := Map.setD b.b reg v 0 })
  else if level = 1 then { s with groups := Map.upd s.groups owner (fun g => { g with c := Map.setD g.c reg v 0 }) }
  else s.updGrid owner (fun g => { g with g := Map.setD g.g reg v 0 })

/-- Whether a warp's own write to the register has not taken effect, which its reads wait for (R160, R164). -/
def State.scopePending (s : State) (u i : Nat) : Bool :=
  24 ≤ i && i < 60 &&
    s.scopeWrites.any (fun p => p.2.warp == u && p.2.level == (scopeLevel i).1 && p.2.reg == (scopeLevel i).2)

/-- Scope: the value of a scope index for a lane (R72, R87, R161). -/
def State.scopeVal (s : State) (w : Warp) (lane i : Nat) : Word :=
  if i < 8 then Map.getD w.q (lane / 4 * 8 + i) 0
  else if i < 24 then Map.getD w.w (i - 8) 0
  else if i < 60 then
    let (level, reg) := scopeLevel i
    match (if level = 0 then w.privB else if level = 1 then w.privC else none) with
    | some m => Map.getD m reg 0
    | none =>
      match s.scopeOwner w level with
      | none => 0
      | some o =>
        let v := s.scopeHeld level o reg
        if level = 0 then
          match Map.get? w.det reg with
          | some d => d.apply v
          | none => v
        else v
  else if w.isScc then 0
  else if i = 61 then BitVec.ofNat 32 lane
  else if i = 62 then BitVec.ofNat 32 w.wix
  else if i = 63 then BitVec.ofNat 32 (s.block w.block).bix
  else 0

/-! ### Parcels on a core (R12, R323 to R328) -/

def parcelKey (ctx id : Nat) : Nat := ctx * 65536 + id

/-- Parcel 0: resident on every core at generation 1 (R326, R327). -/
def runtimeParcel : Parcel := ⟨2, 1, Config.runtimeCode, [], 0, false, false, none, 0, false, 0, []⟩

def State.parcel (s : State) (core ctx id : Nat) : Parcel :=
  if id = 0 then runtimeParcel else Map.getD (s.core core).parcels (parcelKey ctx id) .absent

def Parcel.length (p : Parcel) : Nat := p.code.length

/-- Whether fetch may read the parcel. -/
def Parcel.fetchable (p : Parcel) : Bool := p.state == 2 || p.state == 3

/-- The filled entry slot of a parcel: offset and priority (R108, R323). -/
def State.entrySlot (s : State) (core ctx id slot : Nat) : Option (Nat × Nat) :=
  if id = 0 then
    let e := (Config.runtimeSlot slot).toNat
    if e / 2 ^ 31 % 2 = 1 then some (e % 65536, e / 65536 % 64) else none
  else Map.get? (s.parcel core ctx id).entries slot

/-- The priority that a parcel's entry table records for a code address, or 0 (R149, R185). -/
def State.entryPrio (s : State) (core ctx : Nat) (pc : Word) : BitVec 6 :=
  let id := pc.toNat / 65536
  match (List.range 64).findSome? (fun i => match s.entrySlot core ctx id i with
      | some (off, prio) => if off = pc.toNat % 65536 then some prio else none
      | none => none) with
  | some p => BitVec.ofNat 6 p
  | none => 0

/-- Whether an id is in a context's parcel map; parcel 0 is registered in every context (R324). -/
def State.mapped (s : State) (ctx id : Nat) : Bool := id == 0 || Map.has (s.ctx ctx).parcels id

/-- Where a lane's code address counts for occupancy (R328): its place, and in a handler its resume PC too. -/
def Lane.occupies (k : Lane) (id : Nat) : Bool :=
  k.alive && (k.pc.toNat / 65536 == id || (k.prio == 63 && k.resumePc.toNat / 65536 == id))

/-- The occupancy of a parcel on a core (R328): one per frontier entry, lanes that wait at a TASKBEG for a slot among them (R275), per parked or
handler lane, per suspended fragment and per warp parked by a debug session; a running address engine counts in its entry's parcel, whose id its
record keeps as `wix`. -/
def State.occupancy (s : State) (core ctx id : Nat) : Nat :=
  let inCore := s.warps.filter (fun p => p.2.core == core && p.2.ctx == ctx)
  let ofWarp (w : Warp) : Nat :=
    let stands (k : Lane) : Bool := k.ready || (!k.helper && (match k.place with | .slot _ => true | _ => false))
    let entries := w.lanes.foldl (fun acc p =>
      if stands p.2 && p.2.pc.toNat / 65536 == id && !acc.any (fun k => k.sameEntry p.2) then p.2 :: acc else acc) ([] : List Lane)
    let out (k : Lane) : Bool := k.place == .tsvc || k.place == .debug
    let others := w.lanes.filter (fun p => p.2.alive && !stands p.2 && !out p.2 && p.2.pc.toNat / 65536 == id)
    let resumes := w.lanes.filter (fun p => p.2.alive && !out p.2 && p.2.prio == 63 && p.2.resumePc.toNat / 65536 == id)
    let asleep := w.lanes.foldl (fun acc p =>
      if p.2.place == .tsvc && p.2.occupies id && !acc.any (fun k => k.sameEntry p.2) then p.2 :: acc else acc) ([] : List Lane)
    let parked := if w.lanes.any (fun p => p.2.place == .debug && p.2.occupies id) then 1 else 0
    if w.isAe then (if w.live && w.wix == id then 1 else 0) else entries.length + others.length + resumes.length + asleep.length + parked
  let bins := (s.core core).bins.foldl (fun n p =>
    if s.ctxOfBlock p.2.block == ctx && p.2.entry.toNat / 65536 == id then n + p.2.lanes.length else n) 0
  let walks := (s.core core).walks.foldl (fun n p => match p.2.val with
    | some k => if k.ctx == ctx && k.spawn && k.state < 2 && k.entry.toNat / 65536 == id then n + 1 else n
    | none => n) 0
  inCore.foldl (fun n p => n + ofWarp p.2) 0 + bins + walks

/-! ### Event counts (R390 to R393) -/

/-- Counts an event for a grid that carries a counter set (R392, R393). -/
def State.count (s : State) (g code n : Nat) : State :=
  match (s.grid g).counters with
  | none => s
  | some c => s.updGrid g (fun k => { k with
      counters := some { c with counts := c.counts.zipIdx.map (fun p =>
        if code != 0 && c.codes.getD p.2 0 == code then p.1 + BitVec.ofNat 64 n else p.1) } })

/-- A register used in a register cache of 6 entries: the cache, most recently used first, and the dirty entries written back, 0 or 1 (R159). -/
def cacheUse (c : List (Nat × Bool)) (r : Nat) (dirty : Bool) : List (Nat × Bool) × Nat :=
  match c.find? (fun e => e.1 == r) with
  | some e => ((r, e.2 || dirty) :: c.filter (fun e => e.1 != r), 0)
  | none => ((r, dirty) :: c.take 5, ((c.drop 5).filter (·.2)).length)

/-- Uses several registers in turn. -/
def cacheUses (c : List (Nat × Bool)) (rs : List Nat) (dirty : Bool) : List (Nat × Bool) × Nat :=
  rs.foldl (fun a r => let (c, n) := cacheUse a.1 r dirty; (c, a.2 + n)) (c, 0)

/-- A warp that leaves the active set writes its dirty entries back, and its cache is empty (R159, R393). -/
def State.flushCache (s : State) (u : Nat) : State :=
  let w := s.warp u
  if w.cache.isEmpty then s
  else (s.updWarp u (fun w => { w with cache := [] })).count (s.gridOf w) 0x11 (w.cache.filter (·.2)).length

/-- Counts what an engine's command asked of the L1 or the home slices: the spec does not say into how many requests an engine cuts its
accesses, so each such count moves by a free value (R392, R393) (DESIGN CHOICE, log entry 87). -/
def State.countEngine (s : State) (g : Nat) (codes : List Nat) : State :=
  match (s.grid g).counters with
  | none => s
  | some _ => codes.foldl (fun s c => (s.count g c s.freeWord.toNat).useFree) s

/-- Charges filled issue slots to a leaf of the tree: 2 useful, 3 helper-only, 4 discarded (R390). -/
def State.charge (s : State) (core g leaf n : Nat) : State :=
  let add (m : Map Nat) : Map Nat := Map.put m leaf (Map.getD m leaf 0 + n)
  (s.updCore core (fun c => { c with slots := add c.slots })).updGrid g (fun k => { k with slots := add k.slots })

end Sys2Proof.Machine
end

