-- ==== Sys2Proof/Machine/Ending.lean ====
section
/-! DEFINITION. How lanes, warps, blocks, grids and packets end, and what an end does: joins and barriers that lose a lane, resources
that return, completion signals (08_parallel_instructions.md R191, 24_dies_and_devices.md R403, R404, R407). -/

namespace Sys2Proof.Machine

/-! ### Writes performed at home (R226, R398) -/

/-- A 64 KiB page of a memory's bytes laid onto another page. -/
def copyPageIn (from_ m : Map Byte) (src dst : Nat) : Map Byte :=
  let keep := m.filter (fun c => c.1 / 65536 != dst)
  (from_.filter (fun c => c.1 / 65536 == src)).foldl (fun k c => Map.setD k (dst * 65536 + c.1 % 65536) c.2 unwritten) keep

/-- Copies a page of memory onto another, which the host sees at once. -/
def State.copyPage (s : State) (src dst : Nat) : State :=
  let t : State := s.showOver (fun k => k / 65536 == dst)
  { t with mem := copyPageIn t.mem t.mem src dst, arr := copyPageIn t.mem t.arr src dst }

/-- Whether write-set capture holds a write to a page until the page is saved (R398). -/
def State.captures (s : State) (ctx page : Nat) : Bool :=
  (s.ctx ctx).captures.any (fun k => k.2.watched.contains page && !k.2.copied.contains page)

/-- Writes the pages saved and the status into a capture's descriptor (R398). -/
def State.captureStatus (s : State) (ctx key : Nat) : State :=
  match Map.get? (s.ctx ctx).captures key with
  | none => s
  | some k => match s.places ctx 0 .none (BitVec.ofNat 64 (key + 32)) 8 false true with
    | .inl ks =>
      let cells : Map Byte := (ks.zip (leBytes 4 k.saved.length ++ leBytes 4 (if k.full then 1 else 0))).foldl (fun m p => Map.put m p.1 p.2) []
      (s.setBytes cells).toArray cells
    | .inr _ => s

/-- Saves a watched page for each capture that watches it, or finds a save area full (R398). -/
def State.savePage (s : State) (ctx page : Nat) : State :=
  (s.ctx ctx).captures.foldl (fun s p =>
    let k := p.2
    let put (s : State) (k : Capture) : State :=
      (s.updCtx ctx (fun x => { x with captures := Map.put x.captures p.1 k })).captureStatus ctx p.1
    if !k.watched.contains page || k.copied.contains page then s
    else match k.save[k.saved.length]? with
      | some dst => put (s.copyPage page dst) { k with saved := k.saved ++ [(page, dst)], copied := k.copied ++ [page] }
      | none => put s { k with copied := k.copied ++ [page], full := true }) s

/-- Performs bytes at their home for a context, in one step with the page save that capture asks for first. -/
def State.perform (s : State) (ctx : Nat) (cells : Map Byte) : State :=
  (cells.foldl (fun s c => if !isSp c.1 && s.captures ctx (c.1 / 65536) then s.savePage ctx (c.1 / 65536) else s) s).setBytes cells

/-- Performs bytes and makes them host-visible at once, as a sys-scope atomic that completes (R404, R407). -/
def State.performSys (s : State) (ctx : Nat) (cells : Map Byte) : State :=
  (s.perform ctx cells).toArray (cells.filter (fun c => !isSp c.1))

/-- Writes bytes at a virtual address of a context where its page allows it. -/
def State.writeVa (s : State) (ctx : Nat) (va : Dword) (bs : List Byte) : State :=
  match s.places ctx 0 .none va bs.length false true with
  | .inl ks => s.performSys ctx ((ks.zip bs).foldl (fun m p => Map.put m p.1 p.2) [])
  | .inr _ => s

/-- A report to the driver: kind, subject, detail (DESIGN CHOICE, log entry 77). -/
def State.report (s : State) (kind a b : Nat) : State := { s with fw := { s.fw with reports := s.fw.reports ++ [(kind, a, b)] } }

/-- The value a completion gives a signal object (R404). -/
def signalValue (old : Dword) (status detail : Nat) : Dword :=
  if status = 0 then old - 1 else 0x8000000000000000 ||| BitVec.ofNat 64 (status * 65536) ||| BitVec.ofNat 64 detail

/-- The update of a completion signal (R404); a signal that cannot be written is reported. -/
def State.signal (s : State) (ctx : Nat) (va : Dword) (status detail : Nat) : State :=
  if va = 0 then s
  else if va.toNat % 8 ≠ 0 then s.report 1 ctx status
  else match s.place ctx 0 .none va 8 false true with
    | .inr _ => s.report 1 ctx status
    | .inl k =>
      let old : Dword := BitVec.ofNat 64 (leNat (s.bytes k 8))
      s.performSys ctx (cellsAt k (leBytes 8 (signalValue old status detail).toNat))

/-! ### Barriers seen from a warp (R179 to R183) -/

/-- The key of a barrier in a warp's masks: block barriers 0 to 15, cluster barriers from 16. -/
def barKey (cluster : Bool) (id : Nat) : Nat := if cluster then 16 + id else id

def State.barrier (s : State) (w : Warp) (cluster : Bool) (id : Nat) : Barrier :=
  if cluster then Map.getD (s.group (s.block w.block).group).bars id .fresh else Map.getD (s.block w.block).bars id .fresh

def State.setBarrier (s : State) (w : Warp) (cluster : Bool) (id : Nat) (b : Barrier) : State :=
  if cluster then { s with groups := Map.upd s.groups (s.block w.block).group (fun g => { g with bars := Map.put g.bars id b }) }
  else s.updBlock w.block (fun k => { k with bars := Map.put k.bars id b })

/-- Whether the warp has arrived in the barrier's current phase (R181). -/
def State.arrived (s : State) (w : Warp) (cluster : Bool) (id : Nat) : Bool :=
  Map.get? w.barLast (barKey cluster id) == some (s.barrier w cluster id).phase

/-- The warp arrives once M holds every live non-helper lane (R181). -/
def State.arrive (s : State) (u : Nat) (cluster : Bool) (id : Nat) : State :=
  let w := s.warp u
  let m := Map.getD w.barM (barKey cluster id) 0
  let live := maskOf w.liveLanes
  if m != 0 && live != 0 && live &&& ~~~ m == 0 && !s.arrived w cluster id then
    let b := s.barrier w cluster id
    (s.setBarrier w cluster id { b with arrivals := b.arrivals ++ [u] }).updWarp u (fun w => { w with
      barM := Map.del w.barM (barKey cluster id), barLast := Map.put w.barLast (barKey cluster id) b.phase })
  else s

/-- Every arrival that the loss of lanes completes (R181, R191). -/
def State.arriveAll (s : State) (u : Nat) : State :=
  (List.range 20).foldl (fun s i => s.arrive u (16 ≤ i) (if 16 ≤ i then i - 16 else i)) s

/-! ### Lanes that end (R110, R141, R152, R191) -/

/-- Ends helpers whose quad has no live lane left (R141). -/
def Warp.settle (w : Warp) : Warp :=
  { w with lanes := Map.mapV w.lanes (fun l k =>
      if k.helper && !(w.lanes.any (fun q => q.1 / 4 == l / 4 && q.2.alive)) then { k with place := .ended } else k) }

/-- Lanes leave every join register (R152). -/
def Warp.leaveJoins (w : Warp) (m : Word) : Warp := { w with joins := w.joins.map (fun j => (j.1, j.2 &&& ~~~ m)) }

/-- Lanes end, as by TEXIT. -/
def Warp.endLanes (w : Warp) (ls : List Nat) : Warp :=
  Warp.settle ({ w with lanes := Map.mapV w.lanes (fun l k => if ls.contains l then { k with place := .ended, task := none } else k) }.leaveJoins
    (maskOf ls))

/-- Lanes that become helpers at EXIT: those whose quad keeps another live lane (R141). -/
def Warp.staysHelper (w : Warp) (ls : List Nat) (l : Nat) : Bool :=
  w.lanes.any (fun q => q.1 / 4 == l / 4 && q.2.alive && !ls.contains q.1)

/-- EXIT of lanes, under the grid's helper-on-exit flag (R110, R141). -/
def Warp.exitLanes (w : Warp) (helperExit : Bool) (ls : List Nat) : Warp :=
  Warp.settle ({ w with lanes := Map.mapV w.lanes (fun l k =>
      if ls.contains l then
        if helperExit && w.staysHelper ls l then { k with helper := true } else { k with place := .ended, task := none }
      else k) }.leaveJoins (maskOf ls))

/-- A task whose lane ends by TEXIT, containment or its grid's status commits in its turn with no stores (R276). -/
def State.voidTasks (s : State) (u : Nat) (ls : List Nat) : State :=
  let w := s.warp u
  s.updCore w.core (fun c => { c with tasks := Map.mapV c.tasks (fun _ t =>
    if t.warp == u && ls.contains t.lane then { t with buf := [], sig := 0, ended := true, abortPending := false } else t) })

/-- In deterministic mode a warp's bins form when it ends or waits at a block barrier (R149): as soon as one of its fragments waits (DESIGN CHOICE,
log entry 42); a scalar control core that halts is no warp that ends, so its bins stay (DESIGN CHOICE, log entry 42). -/
def State.flushDet (s : State) (u : Nat) : State :=
  let w := s.warp u
  if (s.block w.block).det then s.updCore w.core (fun c => { c with bins := Map.mapV c.bins (fun _ b =>
    if b.warp == some u then { b with flush := true } else b) })
  else s

/-- What follows lanes' end in their warp: arrivals that complete, bins that form, the place in the active set (R149, R157, R181). -/
def State.afterLanes (s : State) (u : Nat) : State :=
  let s : State := s.arriveAll u
  if (s.warp u).live then s
  else ((s.flushDet u).flushCache u).updCore (s.warp u).core (fun c => { c with active := c.active.filter (· != u) })

/-- Ends lanes of a warp (R366). -/
def State.endLanes (s : State) (u : Nat) (ls : List Nat) : State :=
  ((s.voidTasks u ls).updWarp u (fun w => w.endLanes ls)).afterLanes u

/-! ### Records in the pigeonhole (R297, R298) -/

/-- Whether the pigeonhole of a core's cluster takes a record. -/
def State.pigeonFree (s : State) (cluster : Nat) : Bool := decide ((Map.getD s.pigeon cluster []).length < 256)

/-- The words of a record before its tick (R297). -/
def recordWords (kind cls status : Nat) (tag : Word) (bytes : Nat) : List Word :=
  [BitVec.ofNat 32 (kind + 256 * cls + 65536 * status), tag, BitVec.ofNat 32 bytes]

/-- A record enters the pigeonhole of a core's cluster, with the tick as the core's compute die reads it (R4, R236, R297). -/
def State.post (s : State) (core : Nat) (r : List Word) : State :=
  let s : State := s.observeTick
  { s with pigeon := Map.put s.pigeon (clusterOf core) (Map.getD s.pigeon (clusterOf core) [] ++ [r ++ [lo32 (s.tickOn core)]]) }

/-- A record of a unit that is gone: a full pigeonhole keeps it out until PGPOP makes room (R347). -/
def State.postLate (s : State) (core : Nat) (r : List Word) : State :=
  if s.pigeonFree (clusterOf core) then s.post core r else { s with pigeonHeld := s.pigeonHeld ++ [(core, r)] }

/-- Records kept out of a cluster's pigeonhole enter it, the oldest first, while there is room. -/
def State.postHeld (s : State) (cluster : Nat) : State :=
  s.pigeonHeld.foldl (fun s p =>
    if clusterOf p.1 == cluster && s.pigeonFree cluster then ({ s with pigeonHeld := s.pigeonHeld.erase p } : State).post p.1 p.2 else s) s

/-- Changes a warp that a saved image holds, or a saved scalar control core (R299, R371). -/
def State.updAway (s : State) (u : Nat) (f : Warp → Warp) : State :=
  { s with
    saved := Map.mapV s.saved (fun _ m => { m with warps := Map.upd m.warps u f })
    sccSaved := Map.mapV s.sccSaved (fun _ (p : Nat × Warp) => if p.1 == u then (u, f p.2) else p) }

/-- The warp of that name that is saved. -/
def State.awayWarp (s : State) (u : Nat) : Option Warp :=
  match s.saved.findSome? (fun m => Map.get? m.2.warps u) with
  | some w => some w
  | none => (Map.find? s.sccSaved (fun _ p => p.1 == u)).map (fun p => p.2.2)

/-- Takes one from a token, where its agent still exists, be it saved (R281, R371). -/
def State.tokenDone (s : State) (u k : Nat) : State :=
  if Map.has s.warps u then s.updWarp u (fun w => w.tokSub k) else s.updAway u (fun w => w.tokSub k)

/-! ### Stores in flight -/

/-- Puts a store on its way; `since`: the name under which its instruction issued, where that is an earlier one. -/
def State.addStore (s : State) (cls core warp block grid ctx : Nat) (cells : Map Byte) (since : Nat := 0)
    (lanes : List Nat := []) : State :=
  if cells.isEmpty then s
  else s.addReq (.store ⟨cls, core, warp, block, grid, ctx, cells, .issued, [], 0, if since = 0 then s.nextId else since, (s.warp warp).rel, 0, false,
    lanes⟩)

/-! ### The address engine's end (R303) -/

/-- Whether a scratchpad place lies in the visited map of a running walk of the block, which the block must not write (R342). -/
def State.inMap (s : State) (block k : Nat) : Bool :=
  isSp k && spBlock k == block && (s.core (s.block block).core).walks.any (fun p => match p.2.val with
    | some w => w.block == block && w.state == 1 && spOff k / 65536 == w.mapBank && spOff k % 65536 < (w.n + 7) / 8
    | none => false)

/-- Loads of an agent still on their way. -/
def State.loadsOf (s : State) (u : Nat) : Bool :=
  s.reqs.any (fun p => match p.2 with | .load l => l.warp == u | _ => false)

/-- The last part of the engine's end, once its loads have pushed: producer counts, the status word, the engine free. A status word that cannot be
written is dropped (DESIGN CHOICE, log entry 113). -/
def State.aeFinish (s : State) (u : Nat) : State :=
  let w := s.warp u
  match w.kind with
  | .ae banks status (some code) g =>
    if s.loadsOf u then s
    else
      let s : State := s.updCore w.core (fun c => banks.foldl (fun c b => match b with
        | some k => c.setBank k { c.bankOf k with producers := (c.bankOf k).producers - 1 }
        | none => c) c)
      let s : State := match s.places w.ctx w.core (.block w.block) status 4 false true with
        | .inl ks => if ks.any (s.inMap w.block) then s
          else s.addStore 4 w.core u w.block g w.ctx ((ks.zip (leBytes 4 code)).foldl (fun m p => Map.put m p.1 p.2) [])
        | .inr _ => s
      { s with warps := Map.del s.warps u }
  | _ => s

/-- The engine ends with a status; a second reason changes nothing. -/
def State.aeEnd (s : State) (u code : Nat) : State :=
  match (s.warp u).kind with
  | .ae banks status none g =>
    (s.updWarp u (fun w => { w.endLanes (w.lanes.map (·.1)) with kind := .ae banks status (some code) g, check := none, hold := none })).aeFinish u
  | _ => s

/-- The running address engine of a core. -/
def State.aeOf (s : State) (core : Nat) : Option Nat := (Map.find? s.warps (fun _ w => w.isAe && w.core == core)).map (·.1)

/-! ### Tiles, barriers and labels that outlive their block (R258, R292, R304) -/

def MOp.tiles : MOp → List Nat
  | .mma _ _ _ _ _ _ _ _ t _ _ _ _ => [t]
  | .mmv _ _ _ _ _ _ _ v y _ _ _ => [v, y]
  | .drain _ _ t _ _ _ _ _ _ _ => [t]
  | .maclr t => [t]

/-- Frees the tiles of blocks that have ended once no command names them (R304). -/
def State.freeTiles (s : State) (core : Nat) : State :=
  let busy (t b : Nat) : Bool := (s.core core).mq.any (fun c => c.block == b && c.op.tiles.contains t) ||
    s.drains.any (fun d => d.2.core == core && d.2.block == b && d.2.op.tiles.contains t)
  s.updCore core (fun c => { c with tiles := c.tiles.filter (fun p => match p.2.owner with
    | some b => Map.has s.blocks b || busy p.1 b
    | none => true) })

/-- Frees a slot; its generation advances when the slot is taken again (R214, R292, R337). -/
def Slot.free {α : Type} (x : Slot α) : Slot α := { x with val := none }

/-- The next generation of a slot: 1 to 1023, skipping 0. -/
def nextGen (g : Nat) : Nat := if g = 1023 then 1 else g + 1

/-- The transaction barrier that a handle names on a core: its slot and generation, and the position it was allocated at, which stays
with a block that moves (R292, R372). -/
def State.tbarOn (s : State) (core : Nat) (h : Word) : Option TBar :=
  match Map.get? (s.core core).tbars (h.toNat % 64) with
  | some x => if x.gen == h.toNat / 256 && x.gen != 0 then
      x.val.bind (fun b => if b.pos == h.toNat / 64 % 4 then some b else none) else none
  | none => none

/-- The core of a cluster on which a scalar control core's handle names a barrier. -/
def State.tbarCore (s : State) (cluster : Nat) (h : Word) : Option Nat :=
  ((List.range 4).map (coreAt cluster)).find? (fun c => (s.tbarOn c h).isSome)

/-- Whether a pool holds the barrier of a reference. -/
def BarRef.isIn (r : BarRef) (m : Map (Slot TBar)) : Bool :=
  (Map.get? m r.slot).any (fun x => x.gen == r.gen && x.val.any (fun b => b.owner == r.owner))

/-- Copies that credit a barrier and have not completed. -/
def State.crediting (s : State) (r : BarRef) : Nat := (s.copies.filter (fun p => p.2.bar == some r)).length

/-! ### Blocks that end (R191, R195, R196, R258, R292, R303, R304, R346) -/

/-- Whether a block of the table has ended (R191, R345). -/
def State.blockOver (s : State) (b : Nat) : Bool :=
  let k := s.block b
  let c := s.core k.core
  (s.liveWarps b).isEmpty && !(c.bins.any (fun p => p.2.block == b && !p.2.lanes.isEmpty)) &&
    !(c.walks.any (fun p => match p.2.val with | some w => w.block == b && w.spawn && w.state < 2 | none => false))

/-- A walk that is cancelled with a status: the first one stands. What its round has issued is still delivered, and no round follows (R351). -/
def Walk.cancelled (w : Walk) (status : Nat) : Walk :=
  let c := if w.cancel = 0 then status else w.cancel
  { w with cancel := c, status := if w.status = 0 && w.state = 1 && !w.out.isEmpty then c else w.status }

/-- Cancels a block's walks, or, where every warp of it has ended, those that deliver to a FIFO (R346, R403) (DEDUCED, log entry 62). -/
def State.cancelWalks (s : State) (b : Nat) (all : Bool) (status : Nat := 5) : State :=
  s.updCore (s.block b).core (fun c => { c with walks := Map.mapV c.walks (fun _ x => match x.val with
    | some w => if w.block == b && w.state < 2 && (all || !w.spawn) then { x with val := some (w.cancelled status) } else x
    | none => x) })

/-- An engine whose block's FIFO banks return no longer pushes to them, nor counts among their producers (R196, R303). -/
def State.dropBanks (s : State) (u b : Nat) : State :=
  s.updWarp u (fun w => match w.kind with
    | .ae banks st fin g =>
      let mine (k : Nat) : Bool := ((s.core w.core).bankOf k).owner == some b
      { w with kind := .ae (banks.map (fun x => if x.any mine then none else x)) st fin g }
    | _ => w)

/-- A cluster group with no block left, saved ones among them, goes, and its scratchpad banks return (R195). -/
def State.endGroup (s : State) (g : Nat) : State :=
  if (s.groupBlocks g).isEmpty && !(s.saved.any (fun p => p.2.block.group == g)) then
    { s with
      groups := Map.del s.groups g
      cores := Map.mapV s.cores (fun _ c => { c with bank := Map.mapV c.bank (fun _ x =>
        if x.alloc == some g then { x with alloc := none, exact := false } else x) }) }
  else s

/-- Ends a block and frees what it holds. -/
def State.endBlock (s : State) (b : Nat) : State :=
  let k := s.block b
  let s : State := match s.aeOf k.core with
    | some u => if (s.warp u).block == b then (s.aeEnd u 3).dropBanks u b else s
    | none => s
  let s : State := s.cancelWalks b false
  let s : State := s.updCore k.core (fun c => { c with
    bank := Map.mapV c.bank (fun _ x =>
      if x.owner == some b && x.mode == 2 && !x.ownerScc then ⟨0, none, false, [], 0, none, false, false⟩ else x)
    labels := Map.mapV c.labels (fun _ x => match x.val with
      | some l => if l.owner == b then (if l.holds == 0 then x.free else { x with val := some { l with live := false } }) else x
      | none => x)
    tbars := Map.mapV c.tbars (fun n x => match x.val with
      | some t =>
        let n := s.crediting ⟨b, n, x.gen⟩
        if t.owner != b then x else if n == 0 then x.free else { x with val := some { t with refs := n, waits := 0 } }
      | none => x)
    bins := c.bins.filter (fun p => p.2.block != b)
    restante := c.restante.filter (fun p => p.2 != b) })
  let s : State := { s with
    blocks := Map.del s.blocks b
    warps := s.warps.filter (fun p => !(p.2.kind == .warp && p.2.block == b)) }
  let s : State := s.freeTiles k.core
  s.endGroup k.group

/-! ### Grids and packets that end (R142, R188, R191, R276, R392, R403, R404, R407) -/

/-- Whether a request belongs to a grid (R237). -/
def Req.ofGrid (r : Req) (g : Nat) : Bool :=
  match r with
  | .store t => t.grid == g
  | .atom a => a.grid == g
  | .xaddm x => x.grid == g
  | _ => false

/-- Whether the matrix queue of some core holds a command of a grid. -/
def State.matrixOf (s : State) (g : Nat) : Bool :=
  s.cores.any (fun c => c.2.mq.any (fun m => m.grid == g)) || s.drains.any (fun d => d.2.grid == g)

/-- Whether a grid can end: every block placed and ended, every store, atomic and engine write of its own done (R191, R237) (DEDUCED, log
entry 17). -/
def State.gridOver (s : State) (g : Nat) : Bool :=
  let k := s.grid g
  !k.ended && k.info.dimx * k.info.dimy * k.info.dimz ≤ k.next && k.savedBlocks.isEmpty && (s.gridBlocks g).isEmpty &&
    !(s.reqs.any (fun r => r.2.ofGrid g)) && !(s.warps.any (fun w => match w.2.kind with | .ae _ _ _ h => h == g | _ => false)) && !(s.copies.any (fun c => c.2.grid == g)) && !(s.matrixOf g) &&
    !(s.colls.any (fun c => c.2.grid == g))

/-- The counts of a counter set as a reader receives them: those of events that only time decides are free values (R393, log entry 7). -/
def timedCode (c : Nat) : Bool := c == 0x0E || c == 0x0F || c == 0x19

def State.countsOf (s : State) (k : Counters) : List (BitVec 64) × State :=
  (k.counts.zipIdx.map (fun p => if timedCode (k.codes.getD p.2 0) then Config.freeValue (s.free + p.2) else p.1),
    { s with free := s.free + 4 })

/-- Changes a taken packet of a queue. -/
def State.updPacket (s : State) (p : Nat × Nat) (f : Packet → Packet) : State :=
  { s with queues := Map.upd s.queues p.1 (fun q => { q with taken := q.taken.map (fun k => if k.index == p.2 then f k else k) }) }

def State.packetAt (s : State) (p : Nat × Nat) : Option Packet :=
  match Map.get? s.queues p.1 with
  | some q => q.taken.find? (fun k => k.index == p.2)
  | none => none

/-- Removes a completed packet from its queue. -/
def State.dropPacket (s : State) (p : Nat × Nat) : State :=
  { s with queues := Map.upd s.queues p.1 (fun q => { q with taken := q.taken.filter (fun k => k.index != p.2) }) }

/-- A LAUNCH packet completes when its seed has ended and its counter is 0; its completion signal is written (R142, R407). -/
def State.packetDone (s : State) (p : Nat × Nat) : State :=
  match s.packetAt p with
  | none => s
  | some k =>
    if k.seed == none && k.counter == 0 && k.kind == 1 then
      let ctx := match Map.get? s.queues p.1 with | some q => q.ctx | none => 0
      let st := k.status.getD (0, 0)
      (s.dropPacket p).signal ctx k.completion st.1 st.2
    else s

/-- The end of a grid, with its completion signal, its packet's count and its records (R142, R191, R404, R407). -/
def State.endGrid (s : State) (g : Nat) : State :=
  let k := s.grid g
  let status := match k.status with | some t => t | none => if k.range.isSome then (5, 0) else (0, 0)
  let s : State := s.setGrid g { k with ended := true, status := some status, range := none }
  let s : State := { s with cores := Map.mapV s.cores (fun _ c => { c with tasks := c.tasks.filter (fun t => t.2.grid != g) }) }
  let seed := k.parentGrid == none && k.packet.isSome
  let s : State := if seed then s else s.signal k.ctx k.info.signal status.1 status.2
  let s : State := match k.packet with
    | none => s
    | some p =>
      let s : State := if status.1 != 0 && (seed || k.info.signal == 0) then
          s.updPacket p (fun q => if q.status == none then { q with status := some status } else q) else s
      let s : State := match seed, k.counters, (s.packetAt p).bind (·.events) with
        | true, some c, some (_, va) =>
          let (vs, s) := s.countsOf c
          s.writeVa k.ctx va (vs.foldl (fun bs v => bs ++ leBytes 8 v.toNat) [])
        | _, _, _ => s
      (s.updPacket p (fun q => if seed then { q with seed := none } else { q with counter := q.counter - 1 })).packetDone p
  -- handles launched by this grid end with it, and their counter sets return (R392); a grid without a living launcher keeps no record
  let orphanOf (h : Nat) : Bool := (s.grid h).parentGrid == some g
  let s : State := { s with grids := (s.grids.filter (fun p => !(p.2.ended && orphanOf p.1))).map (fun p =>
    if orphanOf p.1 then (p.1, { p.2 with parentGrid := some 0, parentWarp := none, counters := none }) else p) }
  let s : State := s.wakeSlots
  if k.parentGrid == none || k.parentGrid == some 0 then { s with grids := Map.del s.grids g } else s

/-- Everything that an end brings with it: blocks that are over, then grids that are over. -/
def State.sweep (s : State) : State :=
  let s : State := (s.blocks.map (·.1)).foldl (fun s b =>
    if s.blockOver b then s.endBlock b else if (s.liveWarps b).isEmpty then s.cancelWalks b false else s) s
  (s.grids.map (·.1)).foldl (fun s g => if s.gridOver g then s.endGrid g else s) s

/-- The status that an address engine of a saved block leaves when the block ends (R303); its loads are gone. -/
def State.dropAe (s : State) (u : Nat) (w : Warp) : State :=
  match w.kind with
  | .ae _ status fin g =>
    let s : State := { s with reqs := s.reqs.filter (fun r => match r.2 with | .load l => l.warp != u | _ => true) }
    match s.places w.ctx w.core .none status 4 false true with
    | .inl ks => s.addStore 4 w.core u w.block g w.ctx ((ks.zip (leBytes 4 (fin.getD 3))).foldl (fun m p => Map.put m p.1 p.2) [])
    | .inr _ => s
  | _ => s

/-- Walks that end with the unit they stood on: each posts its record, and lets its other steps go with its block (R347, R376, R403). -/
def State.walksEnd (s : State) (core code : Nat) (ws : Map (Slot Walk)) : State :=
  ws.foldl (fun s p => match p.2.val with
    | some w =>
      let st := if w.status != 0 then w.status else if w.cancel != 0 then w.cancel else code
      if w.state < 2 then s.postLate core (recordWords 4 5 st (BitVec.ofNat 32 (256 * p.2.gen + p.1)) w.issued) else s
    | none => s) s

/-- Matrix commands that end with the unit they stood on: each ends where it stands, by DRAIN_COMPLETE (R322, R403). -/
def State.commandsEnd (s : State) (code : Nat) (ms : List MCmd) : State :=
  ms.foldl (fun s q => { s with
    drains := Map.put s.drains s.nextId { q with status := if q.status == none then some code else q.status }, nextId := s.nextId + 1 }) s

/-- What a saved block leaves when its grid ends (R403): its matrix commands end where they stand, its walks are cancelled, its address engine
has its status, its cluster group goes with its last block. -/
def State.dropImage (s : State) (code b : Nat) (m : Image) : State :=
  let s : State := { s with saved := Map.del s.saved b }
  let s : State := (s.commandsEnd code m.mq).walksEnd m.block.core code m.walks
  (m.warps.foldl (fun s p => s.dropAe p.1 p.2) s).endGroup m.block.group

/-- Ends a grid with a status other than OK (R403): its warps, commands, engines, bins and unplaced blocks. The first status stands
(DEDUCED, log entry 84). -/
def State.kill (s : State) (g status detail : Nat) : State :=
  let k := s.grid g
  if k.ended || !(Map.has s.grids g) then s
  else
    let s : State := s.setGrid g { k with
      status := if k.status == none then some (status, detail) else k.status
      next := max k.next (k.info.dimx * k.info.dimy * k.info.dimz), savedBlocks := [] }
    let bs := s.gridBlocks g
    let code := if status = 3 then 3 else 5
    let s : State := (s.saved.filter (fun p => p.2.block.grid == g)).foldl (fun s p => s.dropImage code p.1 p.2) s
    let s : State := bs.foldl (fun s b =>
      let s : State := s.updCore (s.block b).core (fun c => { c with bins := c.bins.filter (fun p => p.2.block != b) })
      let s : State := s.cancelWalks b true code
      let s : State := match s.aeOf (s.block b).core with
        | some u => if (s.warp u).block == b then s.aeEnd u 3 else s
        | none => s
      (s.liveWarps b).foldl (fun s u =>
        (s.updWarp u (fun w => { w with check := none, hold := none, bp := none })).endLanes u ((s.warp u).lanes.map (·.1))) s) s
    let s : State := { s with
      copies := Map.mapV s.copies (fun _ c => if c.grid == g && c.status == none then { c with status := some code } else c)
      drains := Map.mapV s.drains (fun _ c => if c.grid == g && c.status == none then { c with status := some code } else c)
      colls := Map.mapV s.colls (fun _ c => if c.grid == g && c.status == none then { c with status := some code } else c)
      cores := Map.mapV s.cores (fun _ c => { c with mq := c.mq.map (fun m =>
        if m.grid == g && m.status == none then { m with status := some code } else m) }) }
    s.sweep

end Sys2Proof.Machine
end

