-- ==== Sys2Proof/Machine/Trace.lean ====
section
/-! DEFINITION. The instruction-flow trace of a core (R387 to R389). -/

namespace Sys2Proof.Machine

/-- The 16 bytes of a record. -/
def TraceRec.bytes (r : TraceRec) : List Byte :=
  leBytes 1 r.kind ++ leBytes 1 r.slot ++ leBytes 1 r.prio ++ leBytes 1 0 ++ leBytes 4 r.mask.toNat ++ leBytes 4 r.addr.toNat ++
    leBytes 4 r.delta.toNat

/-- One record at the ring's write offset, which wraps (DESIGN CHOICE, log entry 67). -/
def State.traceAt (s : State) (core : Nat) (t : Trace) (lost : Nat) (r : TraceRec) : State :=
  let cells := cellsAt (t.base + t.at_) r.bytes
  ((s.setBytes cells).toArray cells).updCore core (fun c => { c with trace := some { t with at_ := (t.at_ + 16) % t.size, lost := lost } })

/-- A record of a warp's core leaves for the ring, or is dropped and counted; after a loss a LOST record comes first, with the ticks since
the warp's latest SYNC (R387, R388). Which records find no room is free (log entry 7). -/
def State.traceOut (s : State) (core : Nat) (since : Word) (r : TraceRec) : State :=
  match (s.core core).trace with
  | none => s
  | some t =>
    let dropped := s.freeWord.getLsbD 0
    let s : State := s.useFree
    if dropped then s.updCore core (fun c => { c with trace := some { t with lost := t.lost + 1 } })
    else if t.lost = 0 then s.traceAt core t 0 r
    else
      let s : State := s.traceAt core t 0 { r with kind := 15, prio := 0, mask := BitVec.ofNat 32 t.lost, addr := lo32 (s.tickOn core), delta := since }
      match (s.core core).trace with
      | some t => s.traceAt core t 0 r
      | none => s

/-- The entries of a frontier in its order: priority, address, lanes. -/
def Warp.entries (w : Warp) : List (Lane × List Nat) :=
  let heads := w.lanes.foldl (fun (acc : List Lane) p => if p.2.ready && !acc.any (fun k => k.sameEntry p.2) then p.2 :: acc else acc) []
  let sorted := heads.foldl (fun (acc : List Lane) k => acc.filter (fun x => x.before k) ++ [k] ++ acc.filter (fun x => !x.before k)) []
  sorted.map (fun k => (k, Map.keysWhere w.lanes (fun _ x => x.ready && x.sameEntry k)))

/-- Groups of parked lanes with one resume address and priority. -/
def Warp.parkedGroups (w : Warp) : List (Lane × List Nat) :=
  let out (x : Lane) : Bool := x.alive && x.place != .frontier
  let heads := w.lanes.foldl (fun (acc : List Lane) p => if out p.2 && !acc.any (fun k => k.sameEntry p.2) then acc ++ [p.2] else acc) []
  heads.map (fun k => (k, Map.keysWhere w.lanes (fun _ x => out x && x.sameEntry k)))

/-- The records of a sync group after its SYNC (R389). -/
def State.syncBody (s : State) (w : Warp) : List TraceRec :=
  let rec_ (kind prio : Nat) (mask addr : Word) : TraceRec := ⟨kind, w.slot, prio, mask, addr, 0⟩
  let group (kind : Nat) (g : Lane × List Nat) : TraceRec := rec_ kind g.1.prio.toNat (maskOf g.2) g.1.pc
  let parcels := (s.core w.core).parcels.filter (fun p => p.1 / 65536 == w.ctx && p.2.state != 0)
  [⟨9, w.slot, 0, BitVec.ofNat 32 (s.block w.block).bix, BitVec.ofNat 32 w.wix, BitVec.ofNat 32 w.ctx⟩] ++
    w.entries.map (group 4) ++
    ((List.range 8).filter (fun j => w.joinE j != 0 || w.joinParked j != 0)).map (fun j => rec_ 5 j (w.joinE j) (w.joinParked j)) ++
    w.parkedGroups.map (group 6) ++
    [rec_ 7 2 0 1] ++ parcels.map (fun p => rec_ 7 p.2.state 0 (BitVec.ofNat 32 (p.1 % 65536 * 65536 + p.2.gen % 65536)))

/-- A sync group, where one is due: at the first issue with tracing on, after a start or a move, and 4,096 ticks after the last (R389). -/
def State.traceSync (s : State) (u : Nat) (w : Warp) (body : List TraceRec) : State :=
  let now := s.tickOn w.core
  let since := match w.lastSync with | none => 0 | some t => BitVec.ofNat 32 (now.toNat - t)
  let due := match w.lastSync with | none => true | some t => t + 4096 ≤ now.toNat
  if !due then s
  else
    let s : State := s.traceOut w.core since ⟨3, w.slot, 0, BitVec.ofNat 32 body.length, lo32 now, hi32 now⟩
    (body.foldl (fun s r => s.traceOut w.core 0 r) s).updWarp u (fun w => { w with lastSync := some now.toNat })

/-- What an instruction's issue adds to the trace: kind 2 for a BRC, 8 for a transfer through a register, 0 for nothing, with the address of
each lane's record; a BRC writes one record, with the lanes that take it, if any. `w` is the warp as the instruction found it, `body` the sync group's records. -/
def State.traceIssue (s : State) (u : Nat) (w : Warp) (body : List TraceRec) (pc : Word) (prio : BitVec 6) (frag : List Nat) (kind : Nat)
    (dests : List (Nat × Word)) : State :=
  if w.kind != .warp || (s.core w.core).trace.isNone then s
  else
    let s : State := s.observeTick
    let now := (s.tickOn w.core).toNat
    let s : State := s.traceSync u w body
    let base := if w.lastSync.any (fun t => now < t + 4096) then w.lastSync.getD 0 else now
    let d := BitVec.ofNat 32 (now - base)
    let own := frag.filter (fun l => !(w.lane l).helper)
    let s : State := if w.seq == some (pc, prio) then s else s.traceOut w.core d ⟨1, w.slot, prio.toNat, maskOf own, pc, d⟩
    if kind = 0 then s
    else if kind = 2 then s.traceOut w.core d ⟨2, w.slot, prio.toNat, maskOf (dests.map (·.1)), pc, d⟩
    else ((dests.map (·.2)).eraseDups).foldl (fun s t =>
      s.traceOut w.core d ⟨kind, w.slot, prio.toNat, maskOf ((dests.filter (fun p => p.2 == t)).map (·.1)), t, d⟩) s

end Sys2Proof.Machine
end

