-- ==== Sys2Proof/Machine/Ops.lean ====
section
/-! DEFINITION. Taking a trap and returning from one (R24, R359 to R364), and the issue of an instruction: prefixes, ILLEGAL and
PRIVILEGE, sources and destinations, queue-mapped reads, tasks, and the order of the checks (R18 to R23, R86, R205, R272). Every
lane instruction's meaning is one call of `issue` with what it needs and its effect. -/

namespace Sys2Proof.Machine

/-! ### Taking a trap (R24, R359 to R362) -/

/-- Where a lane goes on after a handler: address, priority, and whether the place lies past offset 0xFFFF of its parcel (R13, R24). -/
structure Resume where
  pc : Word
  prio : BitVec 6
  past : Bool
  deriving DecidableEq, Repr

/-- A lane's own place, and the place `len` halfwords after an address. -/
def Lane.here (k : Lane) : Resume := ⟨k.pc, k.prio, k.past⟩
def Resume.after (pc : Word) (prio : BitVec 6) (len : Nat) : Resume := ⟨codeAfter pc len, prio, !fitsAfter pc len⟩

/-- TakeTrap for one lane: the trap registers, the resume address and priority, and the handler's entry at priority 63 (R24). -/
def Lane.takeTrap (k : Lane) (cause : Nat) (t : Trap) (lanes : Word) (tpc : Word) (r : Resume) : Lane :=
  { k with
    tcause := BitVec.ofNat 32 cause, taddr := t.addr, tlanes := lanes, tpc := tpc, tinfo := t.info
    resumePc := r.pc, resumePrio := r.prio, resumePast := r.past
    pc := BitVec.ofNat 32 ((Config.runtimeSlot cause).toNat % 65536), past := false, prio := 63, place := .frontier, asked := none }

/-- The scalar control core halts (R110, R361); its bins in a DET block and its banks in FIFO mode stay as they are, as SCC_RESTART finds them (DESIGN
CHOICE, log entry 42). -/
def State.haltScc (s : State) (u cluster : Nat) : State :=
  { s with
    warps := Map.upd s.warps u (fun w => w.endLanes (w.lanes.map (·.1)))
    sccHalted := if s.sccHalted.contains cluster then s.sccHalted else s.sccHalted ++ [cluster] }

/-- A trap of lanes `ls` (T of R358) of an agent: in an ordinary fragment they become a handler fragment, but for helper lanes, which never
trap; in a handler fragment it is a double trap (R361); an address engine ends (R301). `resume` gives each lane's place to go on at. What a SPAWN
of these lanes had begun is forgotten (R185). -/
def State.takeTrap (s : State) (u : Nat) (handler : Bool) (ls : List Nat) (cause : Nat) (t : Nat → Trap) (tpc : Word)
    (resume : Lane → Resume) : State :=
  let w := s.warp u
  match w.kind, handler with
  | .ae _ _ _ _, _ => (s.aeEnd u (0x100 + cause)).sweep
  | .scc c, true => s.haltScc u c
  | .warp, true => s.kill (s.gridOf w) 2 cause
  | _, false =>
    let hf := 1 + (ls.filter (fun l => !(w.lane l).helper)).headD 0
    let s : State := (s.updWarp u (fun w => { w.unwait with pfx := none, stop := none, bp := none }.unspawn ls)).updLanes u ls (fun l k =>
      if k.helper then k else { k.takeTrap cause (t l) (maskOf ls) tpc (resume k) with frag := hf })
    let s : State := s.count (s.gridOf w) 0x17 1
    if cause = 0x06 then s.count (s.gridOf w) 0x16 1 else s

/-- RETT for one lane (R364). -/
def Lane.rett (k : Lane) : Lane := { k.goto k.resumePc k.resumePrio with past := k.resumePast }

/-! ### What an instruction needs (R18, R20, R71, R86) -/

/-- A source: lane registers with one e-bit (a pair or quad is one source), or a scope register (R20, R71, R87). -/
inductive Opd where
  | regs (l : List Nat) (e : Bool)
  | scope (i : Nat)
  deriving DecidableEq, Repr

end Sys2Proof.Machine

namespace Sys2Proof

/-- A 32-bit source, a register with its e-bit, and pairs and quads, as sources. -/
def Src.opd (a : Src) : Machine.Opd := if a.s then .scope a.r.toNat else .regs [a.r.toNat] a.e
def RegE.opd (a : RegE) : Machine.Opd := .regs [a.r.toNat] a.e
/-- DEDUCED: log entry 13. -/
def RegE.opd2 (a : RegE) : Machine.Opd := .regs [a.r.toNat, a.r.toNat + 1] a.e
def RegE.opd4 (a : RegE) : Machine.Opd := .regs [a.r.toNat, a.r.toNat + 1, a.r.toNat + 2, a.r.toNat + 3] a.e

end Sys2Proof

namespace Sys2Proof.Machine

/-- A lane register, pair or quad that always waits (R20). -/
def wait1 (r : BitVec 6) : Opd := .regs [r.toNat] false
def wait2 (r : BitVec 6) : Opd := .regs [r.toNat, r.toNat + 1] false
def wait4 (r : BitVec 6) : Opd := .regs [r.toNat, r.toNat + 1, r.toNat + 2, r.toNat + 3] false

/-- What an instruction needs to issue: sources in field order, destination registers, length in halfwords, lanes per beat of its pipe (0: the X0
pipe, one beat), and who may run it. `atHead`: it parks in a task that is not the head (R272); `inTask` false: it traps ILLEGAL inside a task
(R272); `handler`: only in a handler fragment (R85); `exact`: only in an EXACT block (R76); `prio`: its priority field, which may be 63 only in a
handler fragment (R80); `perWarp`: it acts for the warp, so without a lane of N it does nothing; `yields`: it gives up the greedy place (R156);
`mem`: it waits for an acquire of the warp to complete (R224). `jump`: what the trace records of it (R388): nothing, a BRC (2), a transfer through
a register (8), any other transfer (1), with the lanes it sends elsewhere and the address traced; `branch`: it counts as BRANCH, its guard false
too (R393). `also`: further registers that are sources in a lane, after the others, and always wait; `named`: registers it names without reading
them at issue (R71). -/
structure Need where
  srcs : List Opd := []
  dsts : List Nat := []
  wlen : Nat := 2
  lpb : Nat := 8
  lanes : Bool := true
  scc : Bool := true
  ae : Bool := true
  exact : Bool := false
  handler : Bool := false
  atHead : Bool := false
  inTask : Bool := true
  prio : BitVec 6 := 0
  perWarp : Bool := false
  yields : Bool := false
  mem : Bool := false
  jump : Nat := 0
  branch : Bool := false
  sent : Lane → Option Word := fun _ => none
  also : Nat → Lane → List Nat := fun _ _ => []
  named : List Nat := []

/-- An instruction at issue: its agent, the group's address and priority, its length from the group start, F with the guard ignored,
F under the guard, N (R21, R68, R169) (DEDUCED, log entry 15). -/
structure Iss where
  u : Nat
  pc : Word
  prio : BitVec 6
  len : Nat
  frag : List Nat
  act : List Nat
  n : List Nat
  wait : BitVec 8

/-- Whether the fragment is a handler fragment (R151, R359). -/
def Iss.handler (i : Iss) : Bool := i.prio == 63

/-- Prefixes read so far of the group at the head, or none of another place (R67). -/
def Warp.prefixAt (w : Warp) (h : Lane) : Pfx :=
  match w.pfx with
  | some p => if p.pc == h.pc && p.prio == h.prio then p else ⟨h.pc, h.prio, 0, none, none⟩
  | none => ⟨h.pc, h.prio, 0, none, none⟩

/-- Whether the group's guard lets a lane take part (R67). -/
def Pfx.admits (p : Pfx) (k : Lane) : Bool :=
  match p.guard with
  | some (neg, r) => k.pred r != neg
  | none => true

def Warp.iss (w : Warp) (u : Nat) (h : Lane) (wlen : Nat) : Iss :=
  let p := w.prefixAt h
  let frag := w.entry h
  let act := frag.filter (fun l => p.admits (w.lane l))
  ⟨u, h.pc, h.prio, p.len + wlen, frag, act, act.filter (fun l => !(w.lane l).helper), p.wait.getD 0⟩

/-! ### Tasks at issue (R269, R272) -/

/-- Whether a lane's task is the head of its grid (R269). -/
def State.taskHead (s : State) (w : Warp) (l : Nat) : Bool :=
  match (w.lane l).task with
  | none => false
  | some n =>
    match Map.get? (s.core w.core).tasks n, (s.grid (s.gridOf w)).range with
    | some t, some r => t.stamp == r.next
    | _, _ => false

/-- The lanes that run a task that is not the head. -/
def State.waitingTasks (s : State) (w : Warp) (ls : List Nat) : List Nat :=
  ls.filter (fun l => (w.lane l).task.isSome && !s.taskHead w l)


/-! ### Queue-mapped sources (R205, R253) -/

def Warp.mapOf (w : Warp) (r : Nat) : Option QMap := w.qmaps.find? (fun q => q.reg == r)

/-- The mapped registers among the sources, those that are sources only in some lanes last. -/
def Need.mappedSrcs (n : Need) (w : Warp) : List QMap :=
  let more : List Nat := match w.head with
    | some h => ((w.entry h).filter (fun l => (w.prefixAt h).admits (w.lane l))).foldl (fun acc l => acc ++ n.also l (w.lane l)) []
    | none => []
  let named (q : QMap) : Bool := n.srcs.any (fun o => match o with | .regs l _ => l.contains q.reg | .scope _ => false)
  w.qmaps.filter named ++ w.qmaps.filter (fun q => !named q && more.contains q.reg)

/-- Whether a read of the mapped register finds a group, beyond those that the mappings before it take from the same FIFO for this instruction. -/
def State.queueReady (s : State) (w : Warp) (qs : List QMap) (q : QMap) : Bool :=
  q.held.isSome ||
    ((qs.takeWhile (· != q)).filter (fun x => x.bank == q.bank && x.held.isNone)).length < ((s.core w.core).bankOf q.bank).fifo.length

/-- The group that a read of a mapped register will take, if one is there. -/
def State.groupFor (s : State) (w : Warp) (qs : List QMap) (q : QMap) : Option (List Word) :=
  match q.held with
  | some g => some g
  | none => ((s.core w.core).bankOf q.bank).fifo[((qs.takeWhile (· != q)).filter (fun x => x.bank == q.bank && x.held.isNone)).length]?

/-- Takes the held group, or pops the FIFO, and lays it into the register for the lanes; the group stays held until the instruction
has completed (R205, R253). On the scalar control core the read receives element 0. -/
def State.popGroup (s : State) (i : Iss) (q : QMap) : State :=
  let w := s.warp i.u
  let bank := (s.core w.core).bankOf q.bank
  let (g, s) : List Word × State := match q.held, bank.fifo with
    | some g, _ => (g, s)
    | none, g :: rest => (g, (s.updCore w.core (fun c => c.setBank q.bank { bank with fifo := rest })).count (s.gridOf w) 0x1D 1)
    | none, [] => ([], s)
  s.updWarp i.u (fun w => { w with
    qmaps := w.qmaps.map (fun m => if m.reg == q.reg then { m with held := some g } else m)
    lanes := Map.mapV w.lanes (fun l k => if i.act.contains l then k.put q.reg (g.getD (if w.isScc then 0 else l) 0) else k) })

/-- After the instruction has completed its reads, no group is held for those registers. -/
def Warp.releaseHeld (w : Warp) (regs : List Nat) : Warp :=
  { w with qmaps := w.qmaps.map (fun m => if regs.contains m.reg then { m with held := none } else m) }

/-! ### Checks before issue (R85, R86) -/

/-- Registers that the instruction names. -/
def Need.names (n : Need) : List Nat :=
  n.srcs.foldl (fun acc o => match o with | .regs l _ => acc ++ l | .scope _ => acc) [] ++ n.dsts

/-- The ILLEGAL cases that depend on the machine (R10, R11, R76, R85, R170, R205, R272, R301). -/
def State.illegal (s : State) (w : Warp) (i : Iss) (n : Need) : Bool :=
  (w.kind == .warp && !n.lanes) ||
  (w.isScc && (!n.scc || n.srcs.any (fun o => match o with | .scope k => k < 40 | .regs _ _ => false))) ||
  (w.isAe && (!n.ae || n.srcs.any (fun o => match o with | .scope k => k != 60 | .regs _ _ => false))) ||
  (n.names ++ n.named).any (fun r => !nameable (s.nregs w) r) ||
  n.dsts.any (fun r => (w.mapOf r).isSome) ||
  (n.prio == 63 && !i.handler) ||
  (n.exact && !(s.block w.block).exact) ||
  (!n.inTask && i.act.any (fun l => (w.lane l).task.isSome))

/-- The trap that a source's state raises, if any: ORPHANED, EMPTY_READ or QUEUE_CLOSED (R20, R205). Helper lanes raise none (R358). -/
def State.srcTrap (s : State) (w : Warp) (i : Iss) (qs : List QMap) (o : Opd) : Option Nat :=
  match o with
  | .scope _ => none
  | .regs l e =>
    if i.n.any (fun k => l.any (fun r => (w.mapOf r).isNone && (w.lane k).isOrphan r)) then some 0x03
    else match w.qmaps.find? (fun q => l.contains q.reg && !s.queueReady w qs q) with
      | some q =>
        if ((s.core w.core).bankOf q.bank).producers == 0 then some 0x05 else if e then some 0x02 else none
      | none =>
        if e && i.n.any (fun k => l.any (fun r => (w.mapOf r).isNone && (w.lane k).isEmpty r)) then some 0x02 else none

/-- The trap that the implicit sources of single lanes raise (R86 step 5, R205). -/
def State.alsoTrap (s : State) (w : Warp) (i : Iss) (n : Need) : Option Nat :=
  if i.n.any (fun l => (n.also l (w.lane l)).any (fun r => (w.mapOf r).isNone && (w.lane l).isOrphan r)) then some 0x03
  else if i.n.any (fun l => (n.also l (w.lane l)).any (fun r => (w.mapOf r).any (fun q =>
      !s.queueReady w (n.mappedSrcs w) q && ((s.core w.core).bankOf q.bank).producers == 0))) then some 0x05
  else none

/-- Empty registers that the instruction waits for: sources and destinations of its lanes (R18 to R20). -/
def Need.waits (n : Need) (w : Warp) (i : Iss) : List (Nat × Nat) :=
  i.act.foldl (fun acc l => acc ++ (((n.names ++ n.also l (w.lane l)).filter (fun r => (w.mapOf r).isNone && (w.lane l).isEmpty r)).map (fun r => (l, r)))) []

/-- Empty registers that it waits for as sources (R157). -/
def Need.srcWaits (n : Need) (w : Warp) (i : Iss) : List (Nat × Nat) :=
  (n.waits w i).filter (fun p => (n.also p.1 (w.lane p.1)).contains p.2 || n.srcs.any (fun o => match o with | .regs l _ => l.contains p.2 | .scope _ => false))

/-- Whether the instruction must wait although no register is empty: a mapped FIFO without a group, or the warp's own scope write to a
register it reads (R160, R164, R205). -/
def State.otherWaits (s : State) (u : Nat) (w : Warp) (n : Need) : Bool :=
  (n.mappedSrcs w).any (fun q => !s.queueReady w (n.mappedSrcs w) q) ||
    n.srcs.any (fun o => match o with | .scope k => s.scopePending u k | .regs _ _ => false)

/-- The warp does not issue; a long wait takes it out of the active set (R157). -/
def State.stall (s : State) (u : Nat) (r : Option Stop) : State :=
  match r with
  | none => s
  | some x =>
    let s : State := (s.updWarp u (fun w => { w with stop := some (x, w.head.map (fun k => (k.pc, k.prio))) })).flushCache u
    s.updCore (s.warp u).core (fun c => { c with active := c.active.filter (· != u) })

/-- A warp whose frontier is empty leaves the active set (R157). -/
def State.rest (s : State) (u : Nat) : State := if (s.warp u).head.isNone then s.stall u (some .idle) else s

/-- A lane parks until its task is the head; it re-executes the group (R272). -/
def State.parkHead (s : State) (i : Iss) (ls : List Nat) : State :=
  (s.updLanes i.u ls (fun _ k => { k with place := .head })).rest i.u

/-- A trap of the whole fragment before or at issue: T is every lane of F; lanes whose guard is false advance; the lanes resume at the
instruction, or after it for SOFTWARE and BREAKPOINT (R21, R24, R358, R362) (DEDUCED, log entry 11). -/
def State.fragTrap (s : State) (i : Iss) (cause : Nat) (t : Nat → Trap) : State :=
  let off := i.frag.filter (fun l => !i.act.contains l)
  if i.n.isEmpty then (s.updLanes i.u i.frag (fun _ k => if k.helper then k else k.advance i.len)).updWarp i.u (fun w => { w with pfx := none, stop := none })
  else (s.updLanes i.u off (fun _ k => if k.helper then k else k.advance i.len)).takeTrap i.u i.handler i.act cause t i.pc
    (fun k => if cause = 0x12 || cause = 0x13 then .after i.pc i.prio i.len else ⟨i.pc, i.prio, k.past⟩)

/-- What the checks before the effect answer. -/
inductive Gate where
  | go (s : State)
  | stop (s : State)

/-- What an instruction's own part answers: done; done with some of its lanes trapped (R358); done with lanes ended, which may end their block and
grid; a trap of the fragment (R86 step 6); not issued yet; not issued yet, with part of it done. -/
inductive Eff where
  | ok (s : State)
  | part (s : State)
  | fin (s : State)
  | trap (cause : Nat) (t : Nat → Trap)
  | wait (r : Option Stop)
  | blocked (s : State)

/-- Beats of an instruction (R154). -/
def beats (lpb lanes : Nat) : Nat := if lpb = 0 then 1 else (lanes + lpb - 1) / lpb

/-- The issue's counts and charges (R390, R393): one instruction, its beats, its active and helper lanes; the greedy place (R156; DESIGN CHOICE,
log entry 115). The address engine and the scalar control core fill no issue slot of a core. -/
def State.countIssue (s : State) (i : Iss) (n : Need) (leaf : Nat) : State :=
  let w := s.warp i.u
  if w.kind != .warp then s else
  let g := s.gridOf w
  let s : State := (((s.count g 0x01 1).count g 0x02 (beats n.lpb i.frag.length)).count g 0x03 i.frag.length).count g 0x04
    (i.frag.filter (fun l => (w.lane l).helper)).length
  let s : State := s.charge w.core g leaf 1
  let ts := i.act.filterMap (fun l => (w.lane l).task)
  s.updCore w.core (fun c => { c with
    tasks := if leaf = 2 then Map.mapV c.tasks (fun k t => if ts.contains k then { t with useful := t.useful ++ [s.choice] } else t) else c.tasks
    greedy := if n.yields then c.greedy.filter (· != i.u) else if c.greedy == none then some i.u else c.greedy })

/-- Breakpoint comparison of an ordinary fragment's issue on a core: all its lanes take the trap, a lane whose guard is false too (R384). -/
def State.compare (s : State) (core : Nat) (i : Iss) : State :=
  let w := s.warp i.u
  if !i.handler && w.kind == .warp && i.pc != 0 && (s.core core).bps.any (fun b => b.2 == i.pc) then
    s.updWarp i.u (fun w => { w with bp := some (i.pc, i.frag) })
  else s

/-- Lanes of F that the instruction sends away from its sequential successor, with the address traced for a BRC its own. -/
def Need.goes (n : Need) (w : Warp) (i : Iss) : List (Nat × Word) :=
  if n.jump = 0 then [] else i.n.filterMap (fun l => (n.sent (w.lane l)).map (fun t => (l, if n.jump = 2 then i.pc else t)))

/-- The trace of an instruction that has issued from `s0` (R388). -/
def State.traced (s s0 : State) (w : Warp) (i : Iss) (n : Need) : State :=
  if (s.core w.core).trace.isNone then s
  else s.traceIssue i.u w (s0.syncBody w) i.pc i.prio i.frag (if n.jump = 1 then 0 else n.jump) (n.goes w i)

/-- The entry that the instruction leaves by sequential advance, if any lane does. -/
def State.noteSeq (s : State) (w : Warp) (i : Iss) (n : Need) : State :=
  let next := codeAfter i.pc i.len
  let gone := (n.goes w i).map (·.1)
  let stays := i.frag.any (fun l => !(w.lane l).helper && !(gone.contains l && i.act.contains l) &&
    ((s.warp i.u).lane l).place == .frontier && ((s.warp i.u).lane l).pc == next)
  s.updWarp i.u (fun w => { w with seq := if stays then some (next, i.prio) else none })

/-- The same for an instruction that completes after its issue: lanes that advance now leave by sequential advance. -/
def State.noteLate (s : State) (u : Nat) (pc : Word) (prio : BitVec 6) (len : Nat) (ls : List Nat) : State :=
  let next := codeAfter pc len
  if ls.any (fun l => ((s.warp u).lane l).ready && ((s.warp u).lane l).pc == next) then s.updWarp u (fun w => { w with seq := some (next, prio) }) else s

/-- An instruction that its guard suppresses in every lane that could execute it: it issues, is traced and compared, and the fragment
moves on (R21, R384, R388). -/
def State.skip (s : State) (w : Warp) (i : Iss) (n : Need) : State :=
  let t : State := s.updLanes i.u i.frag (fun _ k => if k.helper then k else k.advance i.len)
  let t : State := (t.traced s w i n).updWarp i.u (fun w => { w with pfx := none, stop := none })
  let t : State := (t.noteSeq w i n).countIssue i n 3
  (if n.branch && w.kind == .warp then t.count (t.gridOf w) 0x0B 1 else t).compare w.core i

/-- The checks of R86 steps 2 to 5, and the waits before issue (R18, R67). -/
def State.gate (s : State) (w : Warp) (i : Iss) (n : Need) : Gate :=
  if (List.range 8).any (fun k => i.wait.getLsbD k && w.tokBusy k && !w.isAe) then .stop (s.stall i.u (some (.tokens i.wait)))
  else if i.act.isEmpty || (n.perWarp && i.n.isEmpty) then
    .stop (s.skip w i n)
  else if s.illegal w i n then .stop (s.fragTrap i 0x01 (fun _ => ⟨0x01, 0, 0⟩))
  else if n.handler && !i.handler then .stop (s.fragTrap i 0x18 (fun _ => ⟨0x18, 0, 0⟩))
  else if (n.atHead || !(n.mappedSrcs w).isEmpty) && !(s.waitingTasks w i.act).isEmpty then
    .stop (s.parkHead i (s.waitingTasks w i.act))
  else
    match (n.srcs.findSome? (s.srcTrap w i (n.mappedSrcs w))).orElse (fun _ => s.alsoTrap w i n) with
    | some c => .stop (s.fragTrap i c (fun _ => ⟨c, 0, 0⟩))
    | none =>
      let e := n.waits w i
      if n.mem && w.acquiring then .stop s
      else if e.isEmpty && !s.otherWaits i.u w n then .go ((n.mappedSrcs w).foldl (fun s q => s.popGroup i q) s)
      else if (n.srcWaits w i).any (fun p => (w.lane p.1).isLong p.2) || (n.mappedSrcs w).any (fun q => !s.queueReady w (n.mappedSrcs w) q) then
        .stop (s.stall i.u (some (.regs (e ++ ((n.mappedSrcs w).filter (fun q => !s.queueReady w (n.mappedSrcs w) q)).map (fun q => (0, q.reg))))))
      else .stop s

/-- Lanes of F that the instruction has completed in: helper lanes, and those that it did not leave where they stood or send to a
handler (R358). -/
def State.completed (s : State) (i : Iss) : List Nat :=
  i.act.filter (fun l => let k := (s.warp i.u).lane l; k.helper || !((k.pc == i.pc && k.prio == i.prio) || (k.prio == 63 && !i.handler)))

/-- The value that a read of a FIFO leaves on its way: the destination is empty until it arrives (R19, R205). -/
def State.delay (s : State) (i : Iss) (w0 : Warp) (ls : List Nat) (dsts : List Nat) : State :=
  ls.foldl (fun s l => dsts.foldl (fun s r =>
    let k := (s.warp i.u).lane l
    if k.isEmpty r || k.isOrphan r then s
    else
      let v := k.val r
      let s : State := s.updWarp i.u (fun w => w.updLane l (fun k => { k with x := Map.put k.x r ⟨(w0.lane l).val r, .empty true⟩ }))
      s.addReq (.load { Load.value (s.warp i.u).core i.u l [BitVec.ofNat 6 r] v.toNat with src := 1 })) s) s

/-- The register cache of a core's warp after an instruction (R159): its lane register sources are hits or are read into it, its results enter it
dirty, and the registers that it left empty leave it. Sources are used in field order (DESIGN CHOICE, log entry 90). -/
def State.cached (s : State) (w0 : Warp) (i : Iss) (n : Need) : State :=
  if w0.kind != .warp || i.act.isEmpty then s
  else
    let w := s.warp i.u
    let srcs := ((n.srcs.foldl (fun acc o => match o with | .regs l _ => acc ++ l | .scope _ => acc) ([] : List Nat)).filter (fun r =>
      (w0.mapOf r).isNone)).eraseDups
    let hits := (srcs.filter (fun r => w0.cache.any (fun e => e.1 == r))).length
    let late (r : Nat) : Bool := i.act.any (fun l => (w.lane l).isEmpty r)
    let (c, a) := cacheUses w0.cache srcs false
    let (c, b) := cacheUses (c.filter (fun e => !late e.1)) (n.dsts.filter (fun r => !late r)).eraseDups true
    ((s.updWarp i.u (fun w => { w with cache := c })).count (s.gridOf w0) 0x10 hits).count (s.gridOf w0) 0x11 (a + b)

/-- What every completed issue leaves: the group's prefixes are spent, lanes whose guard was false advance, popped groups are
delivered, a breakpoint is noted (R21, R67, R205, R384). A may-fault instruction is compared when its checks have passed, and an
instruction that trapped in some lanes not at all; a group popped for those lanes stays held for them (R253). A fragment that waits at a
barrier, for children or for its commit takes the warp out of the active set (R157). -/
def State.issued (s : State) (w0 : Warp) (i : Iss) (n : Need) (whole : Bool := true) : State :=
  if !(Map.has s.warps i.u) then s else
  let off := i.frag.filter (fun l => !i.act.contains l)
  let pops := (n.mappedSrcs w0).map (·.reg)
  let s : State := s.updLanes i.u off (fun _ k => if k.helper then k else k.advance i.len)
  let s : State := s.updWarp i.u (fun w => { w.unwait with pfx := none, stop := none })
  let s : State := s.noteSeq w0 i n
  let s : State := s.countIssue i n (if !whole then 4 else if i.n.isEmpty then 3 else 2)
  let done := if whole then i.act else s.completed i
  let s : State := if pops.isEmpty || (s.warp i.u).check.isSome then s else s.delay i w0 done n.dsts
  let s : State := s.cached w0 i n
  let s : State := if (s.warp i.u).head.isNone || i.n.any (fun l => ((s.warp i.u).lane l).place.waits) then s.stall i.u (some .idle) else s
  let s : State := if i.handler then s.updWarp i.u (fun w => w.split i.frag) else s
  match (s.warp i.u).check with
  | some c => s.updWarp i.u (fun w => { w with check := some { c with pops := pops } })
  | none =>
    let s : State := if pops.isEmpty || done.length != i.act.length then s else s.updWarp i.u (fun w => w.releaseHeld pops)
    if whole then s.compare w0.core i else s

/-- What an instruction's own part leaves: `s` before its checks, `s'` after them. TRAP and BRK issue, and fill a slot that is useful (R111, R384,
R390) (DEDUCED, log entry 86). -/
def State.outcome (s s' : State) (w : Warp) (i : Iss) (n : Need) (e : Eff) : State :=
  match e with
  | .ok t => (t.traced s' w i n).issued w i n
  | .part t => (t.traced s' w i n).issued w i n false
  | .fin t => ((t.traced s' w i n).issued w i n).sweep
  | .trap c t => (if c = 0x12 || c = 0x13 then (s'.traced s' w i n).countIssue i n 2 else s').fragTrap i c t
  | .wait r => s.stall i.u r
  | .blocked t => t

/-- One instruction of an agent: its checks, then its own part. -/
def State.issueBy (s : State) (u : Nat) (w : Warp) (n : Need) (k : Iss → State → Eff) : State :=
  if w.busy then s
  else match w.head with
    | none => s
    | some h =>
      let i := w.iss u h n.wlen
      match s.gate w i n with
      | .stop t => t
      | .go s' => s.outcome s' w i n (k i s')

/-- One instruction of the acting agent. -/
def issue (s : State) (n : Need) (k : Iss → State → Eff) : Out :=
  match s.cur with
  | none => .fault .noAgent
  | some u => match Map.get? s.warps u with
    | none => .fault .noAgent
    | some w => .next (s.issueBy u w n k)

/-- The fragment moves on to the next instruction. -/
def State.adv (s : State) (i : Iss) : State := s.updLanes i.u i.act (fun _ k => if k.helper then k else k.advance i.len)

/-- A trap of one address and detail for the whole fragment. -/
def trap1 (cause : Nat) (addr : Dword := 0) (info : Word := 0) : Eff := .trap cause (fun _ => ⟨cause, addr, info⟩)

end Sys2Proof.Machine
end

