-- ==== Sys2Proof/Machine/Operands.lean ====
section
/-! DEFINITION. Operand forms (R70, R71, R87): 32-bit sources with their scope bit, pairs and quads, the values that the lanes of N must
agree on (R425), and the frame of every instruction that acts lane by lane on its own registers. -/

namespace Sys2Proof.Machine

/-- Get: the value of a 32-bit source in a lane (R87). -/
def State.get (s : State) (w : Warp) (l : Nat) (k : Lane) (a : Src) : Word :=
  if a.s then s.scopeVal w l a.r.toNat else k.val a.r.toNat

/-- GetPair's value (R87). -/
def Lane.pairVal (k : Lane) (r : BitVec 6) : Dword := pair (k.val r.toNat) (k.val (r.toNat + 1))

/-- The words of a quad, lowest first. -/
def Lane.quadVals (k : Lane) (r : BitVec 6) : List Word := (List.range 4).map (fun j => k.val (r.toNat + j))

/-- The four words as a number (GetQuad). -/
def Lane.quadVal (k : Lane) (r : BitVec 6) : BitVec 128 := k.val (r.toNat + 3) ++ k.val (r.toNat + 2) ++ k.val (r.toNat + 1) ++ k.val r.toNat

/-- The registers of a pair destination. -/
def pairRegs (d : BitVec 6) : List Nat := [d.toNat, d.toNat + 1]

/-- An instruction that acts on each lane's own registers: every lane of F, then the fragment advances. `f` gets the lane and the
reader of its 32-bit sources. -/
def lanewise (s : State) (n : Need) (f : Lane → (Src → Word) → Lane) : Out :=
  issue s n (fun i s => .ok ((s.updLanes i.u i.act (fun l k => f k (s.get (s.warp i.u) l k))).adv i))

/-- Two 32-bit sources and a 32-bit destination. -/
def op2 (s : State) (d : BitVec 6) (a b : Src) (f : Word → Word → Word) : Out :=
  lanewise s { srcs := [a.opd, b.opd], dsts := [d.toNat] } (fun k g => k.put d.toNat (f (g a) (g b)))

/-- One 32-bit source and a 32-bit destination; `ae`: the address engine may run it (R301). -/
def op1 (s : State) (d : BitVec 6) (a : Src) (f : Word → Word) (ae : Bool := true) : Out :=
  lanewise s { srcs := [a.opd], dsts := [d.toNat], ae := ae } (fun k g => k.put d.toNat (f (g a)))

/-- Two 32-bit sources and the destination as third, implicit source. -/
def op3 (s : State) (d : BitVec 6) (a b : Src) (f : Word → Word → Word → Word) (ae : Bool := true) : Out :=
  lanewise s { srcs := [a.opd, b.opd, wait1 d], dsts := [d.toNat], ae := ae } (fun k g => k.put d.toNat (f (g a) (g b) (k.val d.toNat)))

/-- Two pairs and a pair destination. -/
def opPair2 (s : State) (d : BitVec 6) (a b : RegE) (f : Dword → Dword → Dword) : Out :=
  lanewise s { srcs := [a.opd2, b.opd2], dsts := pairRegs d } (fun k _ => k.putPair d.toNat (f (k.pairVal a.r) (k.pairVal b.r)))

/-- A pair shifted by a 32-bit count. -/
def opPairShift (s : State) (d : BitVec 6) (a : RegE) (b : Src) (f : Dword → Nat → Dword) : Out :=
  lanewise s { srcs := [a.opd2, b.opd], dsts := pairRegs d } (fun k g =>
    k.putPair d.toNat (f (k.pairVal a.r) ((g b).toNat % 64)))

/-- A lane register and a constant. -/
def opImm (s : State) (d : BitVec 6) (a : RegE) (f : Word → Word) : Out :=
  lanewise s { srcs := [a.opd], dsts := [d.toNat] } (fun k _ => k.put d.toNat (f (k.val a.r.toNat)))

/-- Register numbers of the 16-bit forms. -/
def wide5 (r : BitVec 5) : BitVec 6 := r.setWidth 6
def srcOf (r : BitVec 5) : Src := ⟨wide5 r, false, false⟩

/-- A 16-bit two-address form: d is the first source (R65, R117). -/
def half2 (s : State) (d b : BitVec 5) (f : Word → Word → Word) : Out :=
  lanewise s { srcs := [wait1 (wide5 d), wait1 (wide5 b)], dsts := [d.toNat], wlen := 1 } (fun k _ =>
    k.put d.toNat (f (k.val d.toNat) (k.val b.toNat)))

/-- The mask of the lanes whose value differs from the lowest lane's, among lanes that must agree (R425). -/
def disagree {α : Type} [DecidableEq α] (vals : List (Nat × α)) : Word :=
  match vals with
  | [] => 0
  | (_, v) :: r => maskOf ((r.filter (fun p => p.2 ≠ v)).map (·.1))

/-- Requires the lanes of N to hold one value, and goes on with it (R425). -/
def agree {α : Type} [DecidableEq α] (i : Iss) (f : Nat → α) (k : α → Eff) : Eff :=
  match i.n with
  | [] => .wait none  -- not reached: such an instruction is `perWarp`
  | l :: _ =>
    let m := disagree (i.n.map (fun x => (x, f x)))
    if m = 0 then k (f l) else trap1 0x04 0 m

end Sys2Proof.Machine
end

