-- ==== Sys2Proof/Machine/Flags.lean ====
section
/-! DEFINITION. The floating control register of a lane: what it asks of an operation, how flags are raised, and the FP_EXCEPTION split
of a fragment (R28, R34, R119, R358). -/

namespace Sys2Proof.Machine

/-- The environment that fpctl gives an operation (R28 to R30). -/
def Lane.env (k : Lane) : FEnv := ⟨Rm.ofCode (k.fpctl.extractLsb' 0 2), k.fpctl.getLsbD 2, k.fpctl.getLsbD 3⟩

/-- Sets sticky flags (R28, R34). -/
def Lane.raise (k : Lane) (f : Flags) : Lane := { k with fpctl := k.fpctl ||| (f.setWidth 14 <<< 4) }

/-- The flags whose enable bit is set (R28). -/
def Lane.enabled (k : Lane) (f : Flags) : Bool := f &&& (k.fpctl >>> 9).setWidth 5 != 0

/-- A floating instruction on each lane: `f` gives the lane with its result written, and the flags. A lane with an enabled flag keeps
its registers and traps FP_EXCEPTION; helper lanes take the result in any case (R34, R119, R358). -/
def fpwise (s : State) (n : Need) (f : Lane → (Src → Word) → Lane × Flags) : Out :=
  issue s { n with ae := false } (fun i s =>
    let w := s.warp i.u
    let res (l : Nat) (k : Lane) : Lane × Flags := f k (s.get w l k)
    let bad := i.n.filter (fun l => (w.lane l).enabled (res l (w.lane l)).2)
    let s : State := s.updLanes i.u i.act (fun l k =>
      if bad.contains l then k.raise (res l k).2
      else if k.helper then (res l k).1.raise (res l k).2
      else ((res l k).1.raise (res l k).2).advance i.len)
    if bad.isEmpty then .ok s
    else .part (s.takeTrap i.u i.handler bad 0x17 (fun l => ⟨0x17, 0, (res l (w.lane l)).2.setWidth 32⟩) i.pc (fun _ => ⟨i.pc, i.prio, false⟩)))

/-- Writes a 32-bit result with its flags. -/
def put32 (d : BitVec 6) (k : Lane) (r : FRes) : Lane × Flags := (k.put d.toNat (BitVec.ofNat 32 r.bits), r.flags)

/-- Writes a 64-bit result with its flags. -/
def put64 (d : BitVec 6) (k : Lane) (r : FRes) : Lane × Flags := (k.putPair d.toNat (BitVec.ofNat 64 r.bits), r.flags)

/-- F32 forms with two sources, three with the destination, and one. -/
def fp2 (s : State) (d : BitVec 6) (a b : Src) (f : FEnv → Nat → Nat → FRes) (lpb : Nat := 8) : Out :=
  fpwise s { srcs := [a.opd, b.opd], dsts := [d.toNat], lpb := lpb } (fun k g => put32 d k (f k.env (g a).toNat (g b).toNat))

def fp3 (s : State) (d : BitVec 6) (a b : Src) (f : FEnv → Nat → Nat → Nat → FRes) : Out :=
  fpwise s { srcs := [a.opd, b.opd, wait1 d], dsts := [d.toNat] } (fun k g =>
    put32 d k (f k.env (g a).toNat (g b).toNat (k.val d.toNat).toNat))

def fp1 (s : State) (lpb : Nat) (d : BitVec 6) (a : Src) (f : FEnv → Nat → FRes) : Out :=
  fpwise s { srcs := [a.opd], dsts := [d.toNat], lpb := lpb } (fun k g => put32 d k (f k.env (g a).toNat))

/-- F64 forms (R121, R122). -/
def dp2 (s : State) (d : BitVec 6) (a b : RegE) (f : FEnv → Nat → Nat → FRes) (lpb : Nat := 8) : Out :=
  fpwise s { srcs := [a.opd2, b.opd2], dsts := pairRegs d, lpb := lpb } (fun k _ =>
    put64 d k (f k.env (k.pairVal a.r).toNat (k.pairVal b.r).toNat))

def dp3 (s : State) (d : BitVec 6) (a b : RegE) (f : FEnv → Nat → Nat → Nat → FRes) : Out :=
  fpwise s { srcs := [a.opd2, b.opd2, wait2 d], dsts := pairRegs d } (fun k _ =>
    put64 d k (f k.env (k.pairVal a.r).toNat (k.pairVal b.r).toNat (k.pairVal d).toNat))

def dp1 (s : State) (d : BitVec 6) (a : RegE) (f : FEnv → Nat → FRes) (lpb : Nat := 8) : Out :=
  fpwise s { srcs := [a.opd2], dsts := pairRegs d, lpb := lpb } (fun k _ => put64 d k (f k.env (k.pairVal a.r).toNat))

/-- A packed 16-bit form: element results side by side, flags joined (R34, R126). -/
def packed (r0 r1 : FRes) : FRes := ⟨r0.bits + 65536 * r1.bits, r0.flags ||| r1.flags⟩

def half16 (w : Word) (i : Nat) : Nat := w.toNat / 65536 ^ i % 65536

def hp2 (s : State) (d : BitVec 6) (a b : Src) (f : FEnv → Nat → Nat → FRes) : Out :=
  fpwise s { srcs := [a.opd, b.opd], dsts := [d.toNat] } (fun k g =>
    let r (i : Nat) : FRes := f k.env (half16 (g a) i) (half16 (g b) i)
    put32 d k (packed (r 0) (r 1)))

def hp3 (s : State) (d : BitVec 6) (a b : Src) (f : FEnv → Nat → Nat → Nat → FRes) : Out :=
  fpwise s { srcs := [a.opd, b.opd, wait1 d], dsts := [d.toNat] } (fun k g =>
    let r (i : Nat) : FRes := f k.env (half16 (g a) i) (half16 (g b) i) (half16 (k.val d.toNat) i)
    put32 d k (packed (r 0) (r 1)))

/-- A 16-bit two-address floating form (R65). -/
def fhalf2 (s : State) (d b : BitVec 5) (f : FEnv → Nat → Nat → FRes) : Out :=
  fpwise s { srcs := [wait1 (wide5 d), wait1 (wide5 b)], dsts := [d.toNat], wlen := 1 } (fun k _ =>
    put32 (wide5 d) k (f k.env (k.val d.toNat).toNat (k.val b.toNat).toNat))

end Sys2Proof.Machine
end

