-- ==== Sys2Proof/Machine/Release.lean ====
section
/-! DEFINITION. Counters of unacknowledged accesses, releases and acquires (R220, R223, R224), values that arrive later (R19), and
entering a parcel (R109). -/

namespace Sys2Proof.Machine

/-- A store of lanes or of a scalar control core, not of an engine (R84). -/
def Store.own (t : Store) : Bool := t.cls == 0 || t.cls == 8

/-- Whether a store or atomic of the warp is unacknowledged at the die point, or at its home slice; a returning atomic counts until its value
arrives, an XADDM at its home slice only (R220, R248) (DEDUCED, log entry 45). -/
def Req.dieCount (r : Req) (u : Nat) : Bool :=
  match r with
  | .store t => t.warp == u && t.own && t.stage == .issued
  | .atom a => a.warp == u && (a.ret.isSome || a.pass == 0)
  | _ => false

def Req.homeCount (r : Req) (u : Nat) : Bool :=
  match r with
  | .store t => t.warp == u && t.own && t.stage != .acked
  | .atom a => a.warp == u
  | .xaddm x => x.warp == u
  | _ => false

/-- Whether a store of the warp is not yet host-visible (R223, R235). -/
def Req.hostCount (r : Req) (u : Nat) : Bool :=
  match r with
  | .store t => t.warp == u && t.own
  | .atom a => a.warp == u
  | .xaddm x => x.warp == u
  | _ => false

def State.dieZero (s : State) (u : Nat) : Bool := !(s.reqs.any (fun p => p.2.dieCount u))
def State.homeZero (s : State) (u : Nat) : Bool := !(s.reqs.any (fun p => p.2.homeCount u))
def State.hostZero (s : State) (u : Nat) : Bool := !(s.reqs.any (fun p => p.2.hostCount u))

/-- Whether the warp's counter for a scope is zero; at sys its stores are host-visible too (R223). -/
def State.counterZero (s : State) (u scope : Nat) : Bool :=
  if scope = 0 then true else if scope ≤ 2 then s.dieZero u else if scope = 3 then s.homeZero u else s.hostZero u

/-- Whether every earlier load, LDO, LDL and returning atomic of the warp has its value (R223). -/
def State.loadsDone (s : State) (u : Nat) : Bool :=
  !(s.loadsOf u) && !(s.reqs.any (fun p => match p.2 with | .atom a => a.warp == u && a.ret.isSome | _ => false))

/-- A release at a scope may issue (R223). -/
def State.released (s : State) (u scope : Nat) : Bool := s.loadsDone u && s.counterZero u scope

/-- The L1 invalidation of an acquire at cluster scope or wider (R224), counted (R393). -/
def State.acquire (s : State) (u scope : Nat) : State :=
  if scope = 0 || (s.warp u).isScc then s
  else (s.invalidateL1 (s.warp u).core).count (s.gridOf (s.warp u)) 0x18 1

/-- An acquire of a warp has completed: its L1 is invalidated at cluster scope or wider (R224), and what comes later follows what had passed the die
point by then (R225). -/
def State.acquired (s : State) (u : Nat) (invalidate : Bool) : State :=
  let s : State := { s.updWarp u (fun w => { w with acqSeq := s.nextId }) with nextId := s.nextId + 1 }
  if invalidate then s.acquire u 1 else s

/-- An acquire is over once its requests are: the L1 is invalidated (R224). -/
def State.settleAcquire (s : State) (u : Nat) : State :=
  match (s.warp u).acq with
  | some (ks, inv) =>
    if ks.any (fun k => match Map.get? s.reqs k with | some (.load _) => true | some (.atom _) => true | _ => false) then s
    else (s.updWarp u (fun w => { w with acq := none })).acquired u inv
  | none => s

/-- A release of a warp issues: the tick that its later stores carry (R236). -/
def State.noteRel (s : State) (u : Nat) : State := s.updWarp u (fun w => { w with rel := s.tick.toNat + 1 })

/-- Leaves a value on its way to registers of a lane, which are empty until it arrives (R19). -/
def State.deliver (s : State) (u l : Nat) (dst : List (BitVec 6)) (v : Nat) (long : Bool := true) (due : Nat := 0) : State :=
  let s : State := s.updWarp u (fun w => w.updLane l (fun k => dst.foldl (fun k r => k.mark long r.toNat) k))
  s.addReq (.load { Load.value (s.warp u).core u l dst v with due := due })

/-- The same value for every lane of F. -/
def State.deliverAll (s : State) (i : Iss) (dst : List (BitVec 6)) (v : Nat) (long : Bool := true) (due : Nat := 0) : State :=
  i.act.foldl (fun s l => s.deliver i.u l dst v long due) s

/-- What a transfer into a parcel finds (R109). -/
inductive EnterRes where
  | ok
  | wait
  | trap (cause : Nat)
  deriving DecidableEq, Repr

/-- Enter's checks for code address t from the parcel `own` (R109); a target outside the lane's own parcel traps here too (R13). -/
def State.enterCheck (s : State) (w : Warp) (own : Nat) (t : Word) : EnterRes :=
  let q := t.toNat / 65536
  if q = own then (if (s.parcel w.core w.ctx q).length ≤ t.toNat % 65536 then .trap 0x01 else .ok)
  else if !s.mapped w.ctx q then .trap 0x01
  else
    let p := s.parcel w.core w.ctx q
    if p.state = 0 then .trap 0x06
    else if p.state = 1 then .wait
    else if p.length ≤ t.toNat % 65536 then .trap 0x01 else .ok

/-- The info that goes with Enter's trap: the value given for an absent or unmapped id, 0 for an offset outside (R109). -/
def State.enterInfo (s : State) (w : Warp) (t info : Word) : Word :=
  let q := t.toNat / 65536
  if s.mapped w.ctx q && (s.parcel w.core w.ctx q).state != 0 then 0 else info

/-- A call reopens a CLOSING parcel (R109, R327). -/
def State.reopen (s : State) (core ctx q : Nat) : State :=
  s.updCore core (fun c => { c with parcels := Map.upd c.parcels (parcelKey ctx q) (fun p =>
    if p.state = 3 then { p with state := 2 } else p) })

/-- Enter for several lanes, each with its own target, in ascending lane order: the first lane that does not pass decides, by its trap or
its wait for a LOADING parcel (R109, R185). Its cause is the fragment's; `info` gives each lane its own, 0 where the lane's target passes
(DESIGN CHOICE, log entry 88). -/
def enterAll (s : State) (i : Iss) (isCall : Bool) (targets : List (Nat × Word)) (info : Nat → Word) (k : State → Eff) : Eff :=
  let w := s.warp i.u
  let own := i.pc.toNat / 65536
  match targets.findSome? (fun p => match s.enterCheck w own p.2 with | .ok => none | e => some e) with
  | some (.trap c) => .trap c (fun l => ⟨c, 0, match targets.find? (fun p => p.1 == l) with
      | some p => s.enterInfo w p.2 (info l)
      | none => 0⟩)
  | some _ => .wait none
  | none => k (if isCall then targets.foldl (fun s p =>
        if p.2.toNat / 65536 = own then s else s.reopen w.core w.ctx (p.2.toNat / 65536)) s else s)

/-- Target: a code address in the current parcel, `off` halfwords from the instruction; none outside the resident length (R13, R87). -/
def State.target (s : State) (i : Iss) (wlen : Nat) (off : Int) : Option Word :=
  let w := s.warp i.u
  let t : Int := ((i.pc.toNat % 65536 + (i.len - wlen) : Nat) : Int) + off
  if t < 0 || ((s.parcel w.core w.ctx (i.pc.toNat / 65536)).length : Int) ≤ t then none
  else some (BitVec.ofNat 32 (i.pc.toNat / 65536 * 65536 + t.toNat))

end Sys2Proof.Machine
end

