-- ==== Sys2Proof/Machine/Tasks.lean ====
section
/-! DEFINITION. Ordered tasks (R269 to R276): abort, and the loss of a slot. A task that lost its slot while its lane runs a handler
keeps its record under a number from 64 on, which is no slot, until the handler returns. -/

namespace Sys2Proof.Machine

/-- Whether some value is on its way to a lane's register. -/
def State.targeted (s : State) (u l r : Nat) : Bool :=
  s.reqs.any (fun p => match p.2 with
    | .load x => x.warp == u && x.lane == l && x.dst.any (fun d => d.toNat == r)
    | .atom a => a.warp == u && a.parts.any (fun k => k.lane == l) && a.ret.any (fun d => d.toNat == r || d.toNat + 1 == r)
    | _ => false)

/-- A may-fault instruction under check without the pads of a lane (R257). -/
def Pending.without (p : Pending) (l : Nat) : Pending := match p with | .ldl d pads => .ldl d (pads.filter (fun x => x.1 != l)) | _ => p

/-- Cancels a lane's loads, an LDL's pads and an XLD's image with them: their registers become orphaned, and an acquire that waited for them is
over (R20, R224, R274). -/
def State.cancelLoads (s : State) (u l : Nat) : State :=
  let mine (x : Load) : Bool := x.warp == u && x.lane == l && (!x.pas.isEmpty || x.src == 2)
  let images := s.reqs.filterMap (fun p => match p.2 with | .load x => if mine x then x.acc else none | _ => none)
  let s : State := { s with reqs := s.reqs.filter (fun p => match p.2 with
    | .load x => !(mine x)
    | _ => true) }
  let s : State := (s.updWarp u (fun w => { w with xaWait := images.foldl (fun l b => l.erase b) w.xaWait })).settleAcquire u
  let lost := ((s.warp u).lane l).x.filter (fun c => match c.2.fe with | .empty _ => !s.targeted u l c.1 | _ => false)
  s.updWarp u (fun w => { w.updLane l (fun k => lost.foldl (fun k c => k.orphan c.1) k) with
    check := w.check.map (fun c => { c with
      what := c.what.without l, lanes := c.lanes.filter (· != l), acc := c.acc.filter (fun a => a.lane != l) }) })

/-- A lane goes back to its checkpoint (R274), or, its slot lost, to its TASKBEG, where it waits for a slot that is free (R275); one that a debug session has parked stays parked (R371). -/
def Lane.toCheckpoint (k : Lane) (c : Checkpoint) (lost : Bool) : Lane :=
  let k : Lane := { k with x := c.regs.foldl (fun m r => Map.setD m r.1 ⟨r.2, .full⟩ .zero) k.x, p := c.p, place := if k.place == .debug then .debug else .frontier }
  if lost then { k.goto c.begPc c.begPrio with task := none, place := if k.place == .debug then .debug else .slot true } else k.goto c.pc c.prio

/-- The join enrolments of a lane return to the checkpoint. -/
def Warp.rejoin (w : Warp) (l : Nat) (e : BitVec 8) : Warp :=
  { w with joins := (List.range 8).foldl (fun m j =>
      let v := Map.getD m j 0
      Map.setD m j (if e.getLsbD j then v ||| (1#32 <<< l) else v &&& ~~~ (1#32 <<< l)) 0) w.joins }

/-- Takes a timestamp out of those begun (R275). -/
def State.unbegin (s : State) (g stamp : Nat) : State :=
  s.updGrid g (fun k => { k with range := k.range.map (fun r => { r with begun := r.begun.filter (· != stamp) }) })

/-- Issue slots charged useful that become discarded; a slot that several tasks of a fragment have filled moves once (R390). -/
def moveSlots (m : Map Nat) (n : Nat) : Map Nat := Map.put (Map.put m 2 (Map.getD m 2 0 - n)) 4 (Map.getD m 4 0 + n)
def Map.forgetSlots (m : Map Task) (ks : List Nat) : Map Task := Map.mapV m (fun _ t => { t with useful := t.useful.filter (fun k => !ks.contains k) })

/-- An operation of the whole warp that waits, without one of its lanes. -/
def Hold.without (h : Hold) (l : Nat) : Hold :=
  match h with
  | .fence f b ks => .fence f b ks
  | .office ls len t r => .office (ls.filter (· != l)) len (t.filter (fun x => x.1 != l)) r
  | .bankcfg => .bankcfg
  | .replayArm ls len => .replayArm (ls.filter (· != l)) len
  | .restante ls len p => .restante (ls.filter (· != l)) len p

/-- A lane that goes back to its checkpoint takes no part in what its warp has begun: a bank's change, a session's arming, a SPAWN (R274). -/
def State.dropLane (s : State) (u l : Nat) : State :=
  let s : State := s.updWarp u (fun w => { w with hold := w.hold.map (fun h => Hold.without h l) }.unspawn [l])
  s.updCore (s.warp u).core (fun c => { c with cfg := c.cfg.map (fun x => if x.warp == u then { x with lanes := x.lanes.filter (· != l) } else x) })

/-- An abort (R274), with the counts it moves (R390, R393). `lost`: the task loses its slot (R275). A lane that runs a handler is
aborted when the handler returns; a task that has no lane left keeps its record, whose turn is still to come (R276) (DEDUCED, log entry 21). -/
def State.abortTask (s : State) (core n : Nat) (lost : Bool) : State :=
  match Map.get? (s.core core).tasks n with
  | none => s
  | some t =>
    let k := (s.warp t.warp).lane t.lane
    if k.task != some n then
      if lost then s.updCore core (fun c => { c with tasks := Map.put (Map.del c.tasks n) (max 64 (Map.fresh c.tasks)) t }) else s
    else
    let s : State := if lost then s.unbegin t.grid t.stamp else s
    if k.prio == 63 then
      let t' : Task := { t with buf := [], sig := 0, abortPending := true }
      if lost then
        let m := max 64 (Map.fresh (s.core core).tasks)
        (s.updCore core (fun c => { c with tasks := Map.put (Map.del c.tasks n) m t' })).updWarp t.warp (fun w =>
          w.updLane t.lane (fun k => { k with task := some m }))
      else s.updCore core (fun c => { c with tasks := Map.put c.tasks n t' })
    else
      let s : State := (s.cancelLoads t.warp t.lane).dropLane t.warp t.lane
      let s : State := s.updWarp t.warp (fun w => (w.updLane t.lane (fun k => k.toCheckpoint t.cp lost)).rejoin t.lane t.cp.joins)
      let t' : Task := { t with buf := [], sig := 0, aborts := t.aborts + 1, ended := false, abortPending := false, useful := [] }
      let s : State := s.updCore core (fun c => { c with
        tasks := (if lost then Map.del c.tasks n else Map.put c.tasks n t').forgetSlots t.useful
        slots := moveSlots c.slots t.useful.length })
      (s.updGrid t.grid (fun g => { g with slots := moveSlots g.slots t.useful.length })).count t.grid 0x1A 1

/-- A lane leaves its handler: a pending abort is made now (R274). -/
def State.leaveHandler (s : State) (u l : Nat) : State :=
  let w := s.warp u
  match (w.lane l).task with
  | none => s
  | some n =>
    match Map.get? (s.core w.core).tasks n with
    | some t => if t.abortPending then s.abortTask w.core n (64 ≤ n) else s
    | none => s

end Sys2Proof.Machine
end

