-- ==== Sys2Proof/Machine/Control.lean ====
section
/-! DEFINITION. Class 4 and the 16-bit control forms: transfers, joins, the ends of lanes, prefixes, and the instructions of a handler
(R67, R106 to R112, R152, R177, R178, R363 to R367, R384). -/

namespace Sys2Proof.Machine

/-! ### Transfers (R13, R14, R106 to R109) -/

/-- Counts an event of a core's lanes; the address engine and the scalar control core count none here. -/
def State.countLanes (s : State) (u code : Nat) : State :=
  if (s.warp u).kind == .warp then s.count (s.gridOf (s.warp u)) code 1 else s

/-- Sends each lane of F to its own address and priority, and counts the transfer (R14, R393). -/
def State.transfer (s : State) (i : Iss) (f : Nat → Lane → Lane) : State :=
  let old := s.warp i.u
  let s : State := s.updLanes i.u i.act (fun l k => if k.helper then k else f l k)
  let ends := (i.frag.filter (fun l => !(old.lane l).helper)).map (fun l =>
    if i.act.contains l then (s.warp i.u).lane l else (old.lane l).advance i.len)
  let s : State := s.countLanes i.u 0x0B
  match ends with
  | k :: r => if r.any (fun x => !x.sameEntry k) then s.countLanes i.u 0x0C else s
  | [] => s

/-- A lane's link registers at a call (R14). -/
def Lane.link (k : Lane) (ret : Word) (prio : BitVec 6) : Lane := { k.put 63 ret with lprio := prio }

/-- The call's link in every lane of F. After the last halfword of a parcel of 65,536 there is no code address, and the spec gives the link no
value: a free one in each lane (DESIGN CHOICE, log entry 14). -/
def State.linkAll (s : State) (i : Iss) : State :=
  if fitsAfter i.pc i.len then s.updLanes i.u i.act (fun _ k => k.link (codeAfter i.pc i.len) i.prio)
  else { s.updLanes i.u i.act (fun l k => k.link (lo32 (Config.freeValue (s.free + l))) i.prio) with free := s.free + 32 }

/-- On the address engine, whose lanes run in lock step, a transfer is taken by all of them or by none (R301; log entry 27). -/
def Iss.lockStep (i : Iss) (w : Warp) (ls : List Nat) : Bool := !w.isAe || ls.isEmpty || ls.length == i.frag.length

def execBra (o : BitVec 18) (p : BitVec 6) (s : State) : Out :=
  issue s { lpb := 0, prio := p, jump := 1, branch := true, sent := fun _ => some 0 } (fun i s =>
    match s.target i 2 o.toInt with
    | none => trap1 0x01
    | some t => if i.lockStep (s.warp i.u) i.act then .ok (s.transfer i (fun _ k => k.goto t p)) else trap1 0x04)

def execBrc (o : BitVec 14) (p : BitVec 6) (n : Bool) (c : BitVec 3) (s : State) : Out :=
  issue s { lpb := 0, prio := p, jump := 2, branch := true, sent := fun k => if k.pred c != n then some 0 else none } (fun i s =>
    let w := s.warp i.u
    let taken (l : Nat) : Bool := (w.lane l).pred c != n
    if !i.lockStep w (i.act.filter taken) then trap1 0x04
    else match s.target i 2 o.toInt with
      | none => if i.n.any taken then trap1 0x01 else .ok (s.transfer i (fun _ k => k.advance i.len))
      | some t => .ok (s.transfer i (fun l k => if taken l then k.goto t p else k.advance i.len)))

def execCall (o : BitVec 18) (p : BitVec 6) (s : State) : Out :=
  issue s { dsts := [63], lpb := 0, prio := p, jump := 1, branch := true, sent := fun _ => some 0 } (fun i s =>
    match s.target i 2 o.toInt with
    | none => trap1 0x01
    | some t => if i.lockStep (s.warp i.u) i.act then .ok ((s.linkAll i).transfer i (fun _ k => k.goto t p)) else trap1 0x04)

/-- CALLP (R108): Enter, then the slot of the parcel's entry table. -/
def execCallp (q : BitVec 16) (e : BitVec 6) (s : State) : Out :=
  issue s { dsts := [63], lpb := 0, ae := false, jump := 1, branch := true, sent := fun _ => some 0 } (fun i s =>
    let base : Word := q.setWidth 32 <<< 16
    enterAll s i true (i.n.map (fun l => (l, base))) (fun _ => base ||| e.setWidth 32) (fun s =>
      let w := s.warp i.u
      match s.entrySlot w.core w.ctx q.toNat e.toNat with
      | none => trap1 0x01
      | some (off, prio) => .ok ((s.linkAll i).transfer i (fun _ k => k.goto (base ||| BitVec.ofNat 32 off) (BitVec.ofNat 6 prio)))))

/-- A transfer through a register: Enter for every lane, then each lane's own target (R107, R109). -/
def toRegister (s : State) (n : Need) (isCall : Bool) (r : Nat) (prio : Lane → BitVec 6) : Out :=
  issue s { n with jump := 8, branch := true, sent := fun k => some (k.val r) } (fun i s =>
    let w := s.warp i.u
    let t (l : Nat) : Word := (w.lane l).val r
    if !i.lockStep w i.act || (w.isAe && disagree (i.n.map (fun l => (l, t l))) != 0) then trap1 0x04
    else enterAll s i isCall (i.n.map (fun l => (l, t l))) t (fun s =>
      let s : State := if isCall then s.linkAll i else s
      .ok (s.transfer i (fun l k => k.goto (t l) (prio k)))))

def execJmpr (a : RegE) (p : BitVec 6) (s : State) : Out :=
  toRegister s { srcs := [a.opd], lpb := 0, prio := p } false a.r.toNat (fun _ => p)

def execCallr (a : RegE) (p : BitVec 6) (s : State) : Out :=
  toRegister s { srcs := [a.opd], dsts := [63], lpb := 0, prio := p } true a.r.toNat (fun _ => p)

def execRetr (a : BitVec 6) (s : State) : Out :=
  toRegister s { srcs := [wait1 a], lpb := 0 } false a.toNat (fun k => k.lprio)

def execRet (s : State) : Out :=
  toRegister s { srcs := [wait1 63], lpb := 0, wlen := 1 } false 63 (fun k => k.lprio)

/-! ### Joins (R152, R177, R178) -/

def Warp.setJoin (w : Warp) (j : Nat) (e : Word) : Warp := { w with joins := Map.setD w.joins j e 0 }

def execJenrol (j : BitVec 3) (s : State) : Out :=
  issue s { lpb := 0, scc := false, ae := false } (fun i s =>
    .ok ((s.updWarp i.u (fun w => w.setJoin j.toNat (w.joinE j.toNat ||| maskOf i.n))).adv i))

/-- JWAIT: lanes in E park with the priority written here; others advance (R152). -/
def jwait (s : State) (wlen : Nat) (j : BitVec 3) (p : BitVec 6) : Out :=
  issue s { lpb := 0, scc := false, ae := false, prio := p, wlen := wlen } (fun i s =>
    let e := (s.warp i.u).joinE j.toNat
    .ok ((s.adv i).updLanes i.u (i.n.filter (bitAt e)) (fun _ k =>
      { k with place := .join j.toNat, prio := p, frag := if p == 63 then k.frag else 0 })))

def execJwait (j : BitVec 3) (p : BitVec 6) (s : State) : Out := jwait s 2 j p

def execJwait16 (j : BitVec 3) (p : BitVec 6) (s : State) : Out := jwait s 1 j p

def execJleave (j : BitVec 3) (s : State) : Out :=
  issue s { lpb := 0, scc := false, ae := false } (fun i s =>
    .ok ((s.updWarp i.u (fun w => w.setJoin j.toNat (w.joinE j.toNat &&& ~~~ maskOf i.n))).adv i))

/-! ### Ends (R110, R360, R361, R272) -/

/-- Registers of the lanes that no value has reached yet. -/
def Warp.emptiesOf (w : Warp) (ls : List Nat) : List (Nat × Nat) :=
  ls.foldl (fun acc l => acc ++ ((w.lane l).x.filter (fun c => match c.2.fe with | .empty _ => true | _ => false)).map (fun c => (l, c.1))) []

/-- Lanes end in their handler; where it has CONTAINED, their grid ends with that status (R360, R362, R366) (DEDUCED, log entry 99). -/
def State.endHandler (s : State) (u : Nat) (ls : List Nat) : State :=
  let w := s.warp u
  let t : State := s.endLanes u ls
  if ls.any (fun l => !(w.lane l).helper && (w.lane l).tcause == 0x16) then t.kill (s.gridOf w) 3 0 else t

/-- EXIT waits for the lane's registers, then ends the lane: as TEXIT in a handler; ILLEGAL inside a task otherwise (DEDUCED, log entry
39). An orphaned register, whose value will never come, does not hold it back (DESIGN CHOICE, log entry 105). -/
def exitBy (s : State) (wlen : Nat) : Out :=
  issue s { lpb := 0, wlen := wlen } (fun i s =>
    let w := s.warp i.u
    let e := w.emptiesOf i.n
    if !i.handler && i.n.any (fun l => (w.lane l).task.isSome) then trap1 0x01
    else if !e.isEmpty then .wait (if e.any (fun p => (w.lane p.1).isLong p.2) then some (.regs e) else none)
    else match w.kind with
      | .ae _ _ _ _ => .fin (s.aeEnd i.u 1)
      | .scc c => .fin (s.haltScc i.u c)
      | .warp =>
        if i.handler then .fin (s.endHandler i.u i.n)
        else .fin ((s.updWarp i.u (fun k => k.exitLanes (s.block w.block).helperExit i.n)).afterLanes i.u))

def execExit (s : State) : Out := exitBy s 2

def execExit16 (s : State) : Out := exitBy s 1

/-- TRAP (R111): SOFTWARE with the code as detail; the lanes resume after it. -/
def execTrap (c : BitVec 16) (s : State) : Out :=
  issue s { lpb := 0, ae := false } (fun _ _ => trap1 0x12 0 (c.setWidth 32))

/-- BRK (R384): BREAKPOINT for the fragment. -/
def execBrk (s : State) : Out :=
  issue s { lpb := 0, ae := false, scc := false } (fun _ _ => trap1 0x13)

/-! ### NOP, YIELD and the prefixes (R67, R112) -/

def execNop (s : State) : Out := issue s { lpb := 0, wlen := 1 } (fun i s => .ok (s.adv i))

def execYield (s : State) : Out := issue s { lpb := 0, wlen := 1, ae := false, yields := true } (fun i s => .ok (s.adv i))

/-- A prefix is remembered with its group; one too many, or one in the last halfword of the parcel, is a prefix error, which no
guard excuses (R67, R86). -/
def State.prefixBy (s : State) (u : Nat) (w : Warp) (f : Pfx → Option Pfx) : State :=
  if w.busy then s
  else match w.head with
    | none => s
    | some h =>
      let p := w.prefixAt h
      let last := (s.parcel w.core w.ctx (h.pc.toNat / 65536)).length ≤ h.pc.toNat % 65536 + p.len + 1
      match (if last then none else f p) with
      | some q => s.updWarp u (fun w => { w with pfx := some { q with len := p.len + 1 } })
      | none =>
        let frag := w.entry h
        s.fragTrap ⟨u, h.pc, h.prio, p.len + 1, frag, frag, frag.filter (fun l => !(w.lane l).helper), 0⟩ 0x01 (fun _ => ⟨0x01, 0, 0⟩)

/-- A prefix of the acting agent. -/
def prefixed (s : State) (f : Pfx → Option Pfx) : Out :=
  match s.cur with
  | none => .fault .noAgent
  | some u => match Map.get? s.warps u with
    | none => .fault .noAgent
    | some w => .next (s.prefixBy u w f)

def execGuard (n : Bool) (p : BitVec 3) (s : State) : Out :=
  prefixed s (fun x => if x.guard.isSome then none else some { x with guard := some (n, p) })

def execWaitk (k : BitVec 8) (s : State) : Out :=
  prefixed s (fun x => if x.wait.isSome then none else some { x with wait := some k })

/-! ### Leaving a handler (R363 to R367) -/

/-- Whether a lane returns to the instruction whose watchpoint it has met (R362). -/
def Lane.again (k : Lane) : Bool := k.tcause == 0x14 && k.resumePc == k.tpc

/-- RETT: a watchpoint is not checked in the instruction that a WATCHPOINT's lane resumes at (R362). -/
def execRett (s : State) : Out :=
  issue s { lpb := 0, ae := false, handler := true, jump := 1, sent := fun _ => some 0 } (fun i s =>
    .ok (i.n.foldl (fun s l => s.leaveHandler i.u l)
      (s.updLanes i.u i.act (fun _ k => if k.helper then k else { k.rett with noWatch := k.again }))))

def execSetrpc (a b : Src) (s : State) : Out :=
  issue s { srcs := [a.opd, b.opd], lpb := 0, ae := false, handler := true, perWarp := true } (fun i s =>
    let w := s.warp i.u
    agree i (fun l => s.get w l (w.lane l) a) (fun m =>
      .ok ((s.updLanes i.u (i.act.filter (bitAt m)) (fun l k => { k with resumePc := s.get w l k b, resumePast := false })).adv i)))

/-- TEXIT (R366). -/
def execTexit (a : Src) (s : State) : Out :=
  issue s { srcs := [a.opd], lpb := 0, ae := false, handler := true, perWarp := true } (fun i s =>
    let w := s.warp i.u
    agree i (fun l => s.get w l (w.lane l) a) (fun m =>
      let s : State := s.adv i
      match w.kind with
      | .scc c => if (i.act.filter (bitAt m)).isEmpty then .ok s else .fin (s.haltScc i.u c)
      | _ => .fin (s.endHandler i.u (i.act.filter (bitAt m)))))

/-- A debug session parks the warp (R386): every fragment leaves the frontier; the lanes that asked will go on as after RETT. -/
def Warp.park (w : Warp) (ls : List Nat) : Warp :=
  { w with lanes := Map.mapV w.lanes (fun l k =>
      if ls.contains l then { k.rett with place := .debug, noWatch := k.again }
      else if k.ready then { k with place := .debug } else k) }

/-- TSVC: the fragment leaves the frontier until the firmware replies (R367); a debug request to an attached session parks the warp. -/
def execTsvc (s : State) : Out :=
  issue s { lpb := 0, ae := false, handler := true } (fun i s =>
    let w := s.warp i.u
    let cause := ((i.n.head?).map (fun l => (w.lane l).tcause)).getD 0
    if w.kind == .warp && (cause == 0x13 || cause == 0x14) && (s.ctx w.ctx).debug then .ok (s.updWarp i.u (fun w => w.park i.n))
    else .ok (s.updLanes i.u i.n (fun _ k => { k with place := .tsvc })))

end Sys2Proof.Machine
end

