-- ==== Sys2Proof/Machine/Parallel.lean ====
section
/-! DEFINITION. Class 5: scope registers, cross-lane exchange, votes and scans, spawning, child grids, barriers (R161 to R191). -/

namespace Sys2Proof.Machine

/-! ### Folds (R44) -/

/-- One level of the pairwise tree: an absent sibling passes the other through. -/
def pairUp {α : Type} (op : α → α → α) : List (Option α) → List (Option α)
  | some a :: some b :: r => some (op a b) :: pairUp op r
  | some a :: none :: r => some a :: pairUp op r
  | none :: b :: r => b :: pairUp op r
  | r => r

/-- Fold over 2^n positions. -/
def foldTree {α : Type} (op : α → α → α) : Nat → List (Option α) → Option α
  | 0, v => v.headD none
  | n + 1, v => foldTree op n (pairUp op v)

/-! ### Writing scope registers (R162 to R173) -/

/-- What a class 5 instruction of the warp's lanes needs. -/
def scopeNeed (a : Src) : Need := { srcs := [a.opd], lpb := 0, scc := false, ae := false, atHead := true, perWarp := true }

/-- In a DET block, a warp that the walker formed must not run what depends on lane positions (R264). -/
def State.walkedDet (s : State) (i : Iss) : Bool := (s.warp i.u).walked && (s.block (s.warp i.u).block).det

/-- A DET buffer after a write; none where another reduction stands in it (R166). -/
def detWrite (b : Option DetBuf) (op : Option Nat) (v : Word) : Option DetBuf :=
  match b, op with
  | _, none => some (.assigned v)
  | none, some o => some (.reduce o v)
  | some (.assigned a), some o => some (.assigned (scopeOp o a v))
  | some (.reduce o' a), some o => if o = o' then some (.reduce o (scopeOp o a v)) else none

/-- The REDU forms that a DET block may address to a cluster or grid register (R167). -/
def detFree (op : Option Nat) : Bool := match op with | some o => o == 2 || (4 ≤ o && o ≤ 10) | none => false

/-- Combines with what the register holds; MOVU and MOVUF replace it. -/
def combine (op : Option Nat) (old v : Word) : Word := match op with | some o => scopeOp o old v | none => v

/-- ScopeWrite and ScopeCombine to a warp register or wider (R163 to R167). A write to a block, cluster or grid register takes effect by a
later step; the private copies of a migrated warp are written at once (R410). -/
def State.scopeWrite (s : State) (i : Iss) (dst : Nat) (op : Option Nat) (v : Word) : Eff :=
  let w := s.warp i.u
  let det := (s.block w.block).det
  let (level, reg) := scopeLevel dst
  let send : Eff := match s.scopeOwner w level with
    | none => .ok (s.adv i)
    | some o => .ok ({ s with
        scopeWrites := Map.put s.scopeWrites s.nextId ⟨level, o, reg, op, v, w.core, w.block, i.u, w.wix⟩, nextId := s.nextId + 1 }.adv i)
  if dst < 24 then
    .ok ((s.updWarp i.u (fun w => { w with w := Map.setD w.w (dst - 8) (combine op (Map.getD w.w (dst - 8) 0) v) 0 })).adv i)
  else if level = 0 then
    if det then
      match detWrite (Map.get? w.det reg) op v with
      | some b => .ok ((s.updWarp i.u (fun w => { w with
          det := if w.privB.isNone then Map.put w.det reg b else w.det
          privB := w.privB.map (fun m => Map.setD m reg (combine op (Map.getD m reg 0) v) 0) })).adv i)
      | none => trap1 0x0C
    else match w.privB with
      | some m => .ok ((s.updWarp i.u (fun w => { w with privB := some (Map.setD m reg (combine op (Map.getD m reg 0) v) 0) })).adv i)
      | none => send
  else if det && !detFree op then trap1 0x0C
  else if level = 1 then
    match w.privC with
    | some m => .ok ((s.updWarp i.u (fun w => { w with privC := some (Map.setD m reg (combine op (Map.getD m reg 0) v) 0) })).adv i)
    | none => send
  else send

/-- The quads that hold a lane of N, with those lanes. -/
def quadsOf (n : List Nat) : List (Nat × List Nat) :=
  ((List.range 8).map (fun k => (k, n.filter (fun l => l / 4 == k)))).filter (fun q => !q.2.isEmpty)

/-- Writes quad copies of register q(dst). -/
def Warp.putQuads (w : Warp) (dst : Nat) (op : Option Nat) (vs : List (Nat × Word)) : Warp :=
  { w with q := vs.foldl (fun m p => Map.setD m (p.1 * 8 + dst) (combine op (Map.getD m (p.1 * 8 + dst) 0) p.2) 0) w.q }

/-- MOVU and MOVUF (R171). -/
def movu (s : State) (d : BitVec 6) (a : Src) (must : Bool) : Out :=
  issue s (scopeNeed a) (fun i s =>
    let w := s.warp i.u
    let v (l : Nat) : Word := s.get w l (w.lane l) a
    let first (ls : List Nat) : Word := v (ls.headD 0)
    -- both checks are step 6 of R86, which gives them no order: DET_VIOLATION comes first (DESIGN CHOICE, log entry 109)
    if s.walkedDet i then trap1 0x0C
    else if d.toNat < 8 then
      let qs := quadsOf i.n
      let m := if must then qs.foldl (fun m q => m ||| disagree (q.2.map (fun l => (l, v l)))) 0 else 0
      if m != 0 then trap1 0x04 0 m
      else .ok ((s.updWarp i.u (fun w => w.putQuads d.toNat none (qs.map (fun q => (q.1, first q.2))))).adv i)
    else
      let m := if must then disagree (i.n.map (fun l => (l, v l))) else 0
      if m != 0 then trap1 0x04 0 m else s.scopeWrite i d.toNat none (first i.n))

def execMovu (d : BitVec 6) (a : Src) (s : State) : Out := movu s d a true

def execMovuf (d : BitVec 6) (a : Src) (s : State) : Out := movu s d a false

/-- The values of a list of positions, present where the lane is in N. -/
def present (n : List Nat) (v : Nat → Word) (from_ len : Nat) : List (Option Word) :=
  (List.range len).map (fun i => if n.contains (from_ + i) then some (v (from_ + i)) else none)

/-- REDU (R172): the number is the function's. -/
def redu (s : State) (op : Nat) (d : BitVec 6) (a : Src) : Out :=
  issue s (scopeNeed a) (fun i s =>
    let w := s.warp i.u
    let v (l : Nat) : Word := s.get w l (w.lane l) a
    if s.walkedDet i then trap1 0x0C
    else if d.toNat < 8 then
      let vs := (quadsOf i.n).filterMap (fun q => (foldTree (scopeOp op) 2 (present i.n v (4 * q.1) 4)).map (fun f => (q.1, f)))
      .ok ((s.updWarp i.u (fun w => w.putQuads d.toNat (some op) vs)).adv i)
    else match foldTree (scopeOp op) 5 (present i.n v 0 32) with
      | some f => s.scopeWrite i d.toNat (some op) f
      | none => .ok (s.adv i))

def execReduAddS32 (d : BitVec 6) (a : Src) (s : State) : Out := redu s 2 d a

def execReduAddF32 (d : BitVec 6) (a : Src) (s : State) : Out := redu s 3 d a

def execReduMinS (d : BitVec 6) (a : Src) (s : State) : Out := redu s 4 d a

def execReduMaxS (d : BitVec 6) (a : Src) (s : State) : Out := redu s 5 d a

def execReduMinZ (d : BitVec 6) (a : Src) (s : State) : Out := redu s 6 d a

def execReduMaxZ (d : BitVec 6) (a : Src) (s : State) : Out := redu s 7 d a

def execReduAnd (d : BitVec 6) (a : Src) (s : State) : Out := redu s 8 d a

def execReduOr (d : BitVec 6) (a : Src) (s : State) : Out := redu s 9 d a

def execReduXor (d : BitVec 6) (a : Src) (s : State) : Out := redu s 10 d a

def execReduFmin (d : BitVec 6) (a : Src) (s : State) : Out := redu s 11 d a

def execReduFmax (d : BitVec 6) (a : Src) (s : State) : Out := redu s 12 d a

def execReduAmaxF32 (d : BitVec 6) (a : Src) (s : State) : Out := redu s 13 d a

/-- MOVS (R173): every lane receives its own view of the scope index (DEDUCED, log entry 40). -/
def movs (s : State) (n : Need) (d i : BitVec 6) : Out :=
  lanewise s { n with srcs := [.scope i.toNat], dsts := [d.toNat] } (fun k g => k.put d.toNat (g ⟨i, true, false⟩))

def execMovs (d i : BitVec 6) (s : State) : Out := movs s { lpb := 0, scc := false, ae := false } d i

def execMovs16 (d : BitVec 4) (i : BitVec 6) (s : State) : Out := movs s { lpb := 0, scc := false, ae := false, wlen := 1 } (d.setWidth 6) i

/-! ### Exchange, votes, scans (R174 to R176) -/

/-- An instruction whose lanes read one another: every lane of F, helpers included, receives a value computed from the warp at issue (R169). -/
def crosswise (s : State) (n : Need) (f : Iss → State → Nat → Lane → Lane) : Out :=
  issue s { n with lpb := 0, scc := false, ae := false } (fun i s =>
    if s.walkedDet i then trap1 0x0C else .ok ((s.updLanes i.u i.act (f i s)).adv i))

/-- The value of the source lane, or the lane's own where that lane is outside F (R174). -/
def exchange (s : State) (d : BitVec 6) (a : Src) (more : List Opd) (from_ : Lane → Nat → Int) : Out :=
  crosswise s { srcs := a.opd :: more, dsts := [d.toNat] } (fun i s l k =>
    let w := s.warp i.u
    let x := from_ k l
    let l' := if 0 ≤ x && x < 32 && i.act.contains x.toNat then x.toNat else l
    k.put d.toNat (s.get w l' (w.lane l') a))

/-- QXCH's patterns (R174). -/
def quadFrom (pat l : Nat) : Nat := if pat < 3 then l ^^^ (pat + 1) else 4 * (l / 4) + (pat - 3)

def execQxch (d : BitVec 6) (a : Src) (i : BitVec 6) (s : State) : Out :=
  exchange s d a [] (fun _ l => (quadFrom i.toNat l : Nat))

def execShfl (d : BitVec 6) (a : Src) (b : RegE) (s : State) : Out :=
  exchange s d a [b.opd] (fun k _ => ((k.val b.r.toNat).toNat % 32 : Nat))

def execShup (d : BitVec 6) (a : Src) (i : BitVec 6) (s : State) : Out :=
  exchange s d a [] (fun _ l => (l : Int) - (i.toNat : Int))

def execShdn (d : BitVec 6) (a : Src) (i : BitVec 6) (s : State) : Out :=
  exchange s d a [] (fun _ l => (l : Int) + (i.toNat : Int))

def execShxr (d : BitVec 6) (a : Src) (i : BitVec 6) (s : State) : Out :=
  exchange s d a [] (fun _ l => (l ^^^ i.toNat : Nat))

def execVote (d : BitVec 6) (r : BitVec 3) (s : State) : Out :=
  crosswise s { dsts := [d.toNat] } (fun i s _ k =>
    k.put d.toNat (maskOf (i.n.filter (fun l => ((s.warp i.u).lane l).pred r))))

def execVany (q r : BitVec 3) (s : State) : Out :=
  crosswise s {} (fun i s _ k => k.putP q (i.n.any (fun l => ((s.warp i.u).lane l).pred r)))

def execVall (q r : BitVec 3) (s : State) : Out :=
  crosswise s {} (fun i s _ k => k.putP q (i.n.all (fun l => ((s.warp i.u).lane l).pred r)))

def execElect (p : BitVec 3) (s : State) : Out :=
  crosswise s {} (fun i _ l k => k.putP p (i.n.head? == some l))

def addF32 (a b : Word) : Word := BitVec.ofNat 32 (f32.add .plain a.toNat b.toNat).bits

/-- The sum that SCAN gives a lane: of the lanes of N below it, and for f32 of itself too (R176). -/
def scanSum (inclusive : Bool) (op : Word → Word → Word) (zero : Word) (n : List Nat) (v : Nat → Word) (l : Nat) : Word :=
  (n.filter (fun x => x < l || (inclusive && x == l))).foldl (fun acc x => op acc (v x)) zero

def execScanAddS32 (d : BitVec 6) (a : Src) (s : State) : Out :=
  crosswise s { srcs := [a.opd], dsts := [d.toNat] } (fun i s l k =>
    let w := s.warp i.u
    k.put d.toNat (scanSum false (fun x y => x + y) 0 i.n (fun x => s.get w x (w.lane x) a) l))

def execScanAddF32 (d : BitVec 6) (a : Src) (s : State) : Out :=
  crosswise s { srcs := [a.opd], dsts := [d.toNat] } (fun i s l k =>
    let w := s.warp i.u
    k.put d.toNat (scanSum true addF32 0x80000000 i.n (fun x => s.get w x (w.lane x) a) l))

/-! ### Spawning (R149, R185 to R187) -/

/-- Whether a bin awaits its warp, so that later SPAWNs into it wait (R149). -/
def Bin.forming (b : Bin) : Bool := b.flush || 32 ≤ b.lanes.length

/-- The bin of a key, or an empty one; none where every bin is another's, or where the key's own bin was awaiting its warp before the SPAWN
began, in the bins `old`: the lanes with which one SPAWN passes 32 stay in the bin (R149). -/
def Core.binFor (c : Core) (old : Map Bin) (block : Nat) (warp : Option Nat) (entry : Word) : Option Nat :=
  match Map.find? c.bins (fun _ b => b.block == block && b.warp == warp && b.entry == entry) with
  | some (k, _) => if (match Map.get? old k with | some b => b.forming | none => false) then none else some k
  | none => (List.range 8).find? (fun k => !(Map.has c.bins k))

/-- Adds one lane to the bin; the timer of an ordinary bin starts with its first lane. -/
def Core.addBin (c : Core) (k block : Nat) (warp : Option Nat) (entry : Word) (args : List Word) (timed : Bool) : Core :=
  { c with bins := match Map.get? c.bins k with
      | some b => Map.put c.bins k { b with lanes := b.lanes ++ [args] }
      | none => Map.put c.bins k ⟨block, warp, entry, [args], false, timed⟩ }

/-- Where a lane's spawn goes: core and block (R185, R186) (DEDUCED, log entry 42). -/
def State.spawnTo (s : State) (w : Warp) (args : List Word) : Option (Nat × Nat) :=
  match w.kind with
  | .scc c =>
    let core := coreAt c ((args.getD 3 0).toNat % 4)
    (s.oldestBlock core w.ctx).map (fun b => (core, b))
  | _ => some (w.core, w.block)

/-- Adds the lanes one by one, as far as bins allow: the lanes added, and the state; `s0` is the state before the first. -/
def State.spawnAll (s0 s : State) (u : Nat) (ls : List (Nat × Word × List Word)) : List Nat × State :=
  match ls with
  | [] => ([], s)
  | (l, t, args) :: rest =>
    let w := s.warp u
    match s.spawnTo w args with
    | none => ([], s)
    | some (core, b) =>
      let det := (s.block b).det
      let key := if det then some u else none
      match (s.core core).binFor (s0.core core).bins b key t with
      | none => ([], s)
      | some k =>
        let s : State := (s.updCore core (fun c => c.addBin k b key t args (!det))).count (s.block b).grid 0x12 1
        let (done, s) := s0.spawnAll s u rest
        (l :: done, s)

/-- The lanes of a SPAWN that has begun, of those at the instruction, or all of them where none has: a lane that has come to the instruction
meanwhile runs its own (R185) (DEDUCED, log entry 42). -/
def Warp.spawners (w : Warp) (n : List Nat) : List Nat :=
  if n.any (bitAt w.spawning) then n.filter (bitAt w.spawning) else n

/-- SPAWN (R185): Enter for every lane first, once; then lanes join bins in ascending order, and the instruction waits, with those lanes done,
while a lane finds no bin. -/
def execSpawn (a : RegE) (b : BitVec 6) (s : State) : Out :=
  issue s { srcs := [a.opd, wait4 b], lpb := 0, ae := false, atHead := true } (fun i s =>
    let w := s.warp i.u
    let t (l : Nat) : Word := (w.lane l).val a.r.toNat
    let mine := w.spawners i.n
    let begun := i.n.any (bitAt w.spawning)
    let left := mine.filter (fun l => !(bitAt w.spawned l))
    let go (s : State) : Eff :=
      let todo := left.map (fun l => (l, t l, (w.lane l).quadVals b))
      if left.any (fun l => (s.spawnTo w ((w.lane l).quadVals b)).isNone) then trap1 0x0B
      else
        let (done, s) := s.spawnAll s i.u todo
        if done.length = todo.length then
          .ok ((s.updWarp i.u (fun w => w.unspawn mine)).adv { i with act := i.act.filter (fun l => mine.contains l || !i.n.contains l) })
        else .blocked (s.updWarp i.u (fun w => { w with spawning := w.spawning ||| maskOf mine, spawned := w.spawned ||| maskOf done }))
    if w.kind == .warp && (s.block w.block).migrated then trap1 0x01
    else if begun then go s
    else enterAll s i true (left.map (fun l => (l, t l))) t go)

/-- BINFL (R187): every non-empty bin keyed to the issuing block is ordered to form. -/
def execBinfl (s : State) : Out :=
  issue s { lpb := 0, scc := false, ae := false, atHead := true, perWarp := true } (fun i s =>
    let w := s.warp i.u
    .ok ((s.updCore w.core (fun c => { c with bins := Map.mapV c.bins (fun _ b =>
      if b.block == w.block then { b with flush := true, timer := false } else b) })).adv i))

/-! ### Child grids (R188 to R190, R392) -/

/-- A little-endian field of a record. -/
def field (r : List Byte) (off n : Nat) : Nat := leNat ((r.drop off).take n)

/-- The first failed check of a list, in order (DEDUCED, log entry 30). -/
def firstBad (cs : List (Nat × Bool)) : Option Nat := (cs.find? (fun c => !c.2)).map (·.1)

/-- The lowest offset at which a grid record breaks R189; the product of the dimensions is laid to dim z, rectangles to the height. -/
def State.badRecord (s : State) (ctx : Nat) (r : List Byte) : Option Nat :=
  let f := field r
  let known (q : Nat) : Bool := s.mapped ctx q
  let cluster := f 17 1
  firstBad [
    (0, known (f 0 2)), (2, f 2 1 < 64), (3, f 3 1 < 16), (4, 0 < f 4 4), (8, 0 < f 8 4),
    (12, 0 < f 12 4 && f 4 4 * f 8 4 * f 12 4 ≤ 2 ^ 48 &&
      (!(cluster == 1 || cluster == 2 || cluster == 4) || f 4 4 * f 8 4 * f 12 4 % cluster == 0)),
    (16, 1 ≤ f 16 1 && f 16 1 ≤ 32), (17, cluster == 1 || cluster == 2 || cluster == 4),
    (18, f 18 1 < f 16 1 || f 18 1 == 255), (19, 8 ≤ f 19 1 && f 19 1 ≤ 64 && f 19 1 % 8 == 0), (20, f 20 4 ≤ 327680),
    (32, f 32 1 ≤ 8), (33, f 33 1 ≤ 4 && ((f 32 1 == 0) == (f 33 1 == 0))), (34, f 34 1 ≤ 3), (35, f 35 1 == 0),
    (36, (List.range 6).all (fun k => f (36 + 2 * k) 2 == 0 || known (f (36 + 2 * k) 2))), (60, f 60 4 == 0)]

/-- The grid that a record describes. -/
def gridRecOf (r : List Byte) : GridRec :=
  let f := field r
  let bit (k : Nat) : Bool := f 3 1 / 2 ^ k % 2 == 1
  { parcel := f 0 2, entry := f 2 1, det := bit 0, exact := bit 1, counters := bit 2, helperExit := bit 3
    dimx := f 4 4, dimy := f 8 4, dimz := f 12 4, warps := f 16 1, cluster := f 17 1
    producer := if f 18 1 = 255 then none else some (f 18 1)
    regs := f 19 1, scratch := f 20 4, args := BitVec.ofNat 64 (f 24 8), rectW := f 32 1, rectH := f 33 1, prio := f 34 1
    preload := ((List.range 6).map (fun k => f (36 + 2 * k) 2)).filter (· != 0)
    signal := BitVec.ofNat 64 (f 48 8), limit := f 56 4 }

/-- Records in the mailbag (R144): child grids with a block not yet placed. -/
def State.mailbag (s : State) : Nat :=
  (s.grids.filter (fun g => g.2.parentGrid.isSome && !g.2.ended && g.2.next < g.2.info.dimx * g.2.info.dimy * g.2.info.dimz)).length

/-- Whether the warp's replay session is open (R395). -/
def State.inSession (s : State) (u : Nat) : Bool := match (s.ctx (s.warp u).ctx).session with | some x => x.warp == u | none => false

/-- Counter sets in use (R392). -/
def State.setsUsed (s : State) : Nat := (s.grids.filter (fun g => g.2.counters.isSome)).length

/-- A trap of one lane among the checks of a fragment: its rank among causes, whether every lane of F takes it, the trap. -/
structure LaneTrap where
  lane : Nat
  rank : Nat
  all : Bool
  trap : Trap
  deriving DecidableEq, Repr

/-- The rank of a memory check's failure in the order of R358. -/
def causeRank (t : Trap) : Nat :=
  if t.cause = 0x0A then 1 else if t.cause = 0x0B then 2
  else if t.cause = 0x09 && (inWindow t.addr || !canonical t.addr) then 3
  else if t.cause = 0x16 then 4 else if t.cause = 0x08 then 5 else if t.cause = 0x09 then 6 else if t.cause = 0x14 then 7 else 8

/-- A fragment's failed checks (R358): T is the lanes of the earliest rank, or all of F; the others of F stay where they are. -/
def State.trapLanes (s : State) (i : Iss) (fs : List LaneTrap) : State :=
  let best := fs.foldl (fun m f => min m f.rank) (match fs with | f :: _ => f.rank | [] => 0)
  let t := fs.filter (fun f => f.rank == best)
  match t with
  | [] => s
  | f :: _ =>
    let ls := if f.all then i.act else t.map (·.lane)
    s.takeTrap i.u i.handler ls f.trap.cause (fun l => ((t.find? (fun x => x.lane == l)).getD f).trap) i.pc (fun _ => ⟨i.pc, i.prio, false⟩)

/-- The handle of the next grid: 32 bits, not 0, no other grid's (R188); a name not used before while they last. -/
def State.newHandle (s : State) : Nat :=
  if s.nextId < 2 ^ 32 then s.nextId
  else ((List.range (s.grids.length + 1)).find? (fun k => !(Map.has s.grids (k + 1)))).getD 0 + 1

/-- A child enters the mailbag; its handle, or 0 where the mailbag or the counter sets are full (R142, R144, R392). -/
def State.launch (s : State) (u : Nat) (info : GridRec) : Nat × State :=
  if 4096 ≤ s.mailbag || (info.counters && 512 ≤ s.setsUsed) then (0, s)
  else
    let w := s.warp u
    let g := s.gridOf w
    let h := s.newHandle
    let set : Option Counters :=
      if info.counters then some ⟨(List.range 4).map (fun k => Map.getD w.pmCode k 0), [0, 0, 0, 0]⟩ else none
    let seq := s.nextId
    let s : State := { s with nextId := seq + 1 }
    let s : State := s.setGrid h { Grid.absent with
      ctx := w.ctx, info := info, parentGrid := some g, parentWarp := some u, packet := (s.grid g).packet
      pendSeq := seq, counters := set, ended := false, inSession := s.inSession u }
    let s : State := s.updWarp u (fun w => { w with children := w.children ++ [h] })
    match (s.grid g).packet with
    | some p => (h, s.updPacket p (fun q => { q with counter := q.counter + 1 }))
    | none => (h, s)

/-- JOIN (R190): F waits until every grid it names has ended. -/
def execJoin (a : Src) (s : State) : Out :=
  issue s { srcs := [a.opd], lpb := 0, scc := false, ae := false, inTask := false, perWarp := true } (fun i s =>
    let w := s.warp i.u
    let hs := if a.s then w.children else (i.n.map (fun l => ((w.lane l).val a.r.toNat).toNat)).eraseDups
    match hs.find? (fun h => !(Map.has s.grids h && (s.grid h).parentGrid == some (s.gridOf w))) with
    | some h => if a.s then .ok ((s.adv i).updLanes i.u i.n (fun _ k => { k with place := .children hs }))
      else trap1 0x01 0 (BitVec.ofNat 32 h)
    | none => .ok ((s.adv i).updLanes i.u i.n (fun _ k => { k with place := .children hs })))

/-! ### Barriers (R179 to R184) -/

/-- BARB, BARA, BARC and BARLAST (R181). `waits`: the lanes wait at the barrier; `pd`: BARLAST's predicate, written in helper lanes of F
too (R169, R184). A deferred arrival meets DET_VIOLATION, DISAGREE and the count's ILLEGAL before it waits, BARRIER_BUSY after (DESIGN CHOICE,
log entry 89). -/
def arriveAt (s : State) (a : Src) (wlen : Nat) (cluster : Bool) (id : Nat) (waits : Bool) (pd : Option (BitVec 3)) : Out :=
  issue s { srcs := [a.opd], lpb := 0, scc := false, ae := false, inTask := false, perWarp := true, wlen := wlen } (fun i s =>
    let w := s.warp i.u
    let all := a.s && a.r == 60
    let v (l : Nat) : Word := s.get w l (w.lane l) a
    let n := v (i.act.headD 0)
    let want : Option Nat := if all then none else some n.toNat
    let m := if all then 0 else disagree (i.act.map (fun l => (l, v l)))
    let b := s.barrier w cluster id
    if pd.isSome && s.walkedDet i then trap1 0x0C
    else if m != 0 then trap1 0x04 0 m
    else if !all && (n == 0 || 64 < n) then trap1 0x01 0 n
    else if s.arrived w cluster id then .wait (some (.bar cluster id))
    else if !s.loadsDone i.u then .wait none
    else if b.expected.isSome && b.expected != some want then trap1 0x0D
    else
      let s : State := s.setBarrier w cluster id { b with expected := some want }
      let s : State := s.updWarp i.u (fun w =>
        { w with
          barM := Map.put w.barM (barKey cluster id) (Map.getD w.barM (barKey cluster id) 0 ||| maskOf i.n)
          barHelp := match pd with
            | some r => w.barHelp ++ (i.act.filter (fun l => (w.lane l).helper)).map (fun l => (barKey cluster id, l, r))
            | none => w.barHelp })
      let s : State := s.adv i
      let s : State := if waits then s.updLanes i.u i.n (fun _ k => { k with place := .bar cluster id b.phase pd }) else s
      let s : State := s.arrive i.u cluster id
      .ok (if waits && !cluster then s.flushDet i.u else s))

def execBarb (a : Src) (i : BitVec 6) (s : State) : Out := arriveAt s a 2 false i.toNat true none

def execBarb16 (b : BitVec 4) (s : State) : Out := arriveAt s ⟨60, true, false⟩ 1 false b.toNat true none

def execBara (a : Src) (i : BitVec 6) (s : State) : Out := arriveAt s a 2 false i.toNat false none

def execBarc (a : Src) (i : BitVec 6) (s : State) : Out := arriveAt s a 2 true i.toNat true none

def execBarlast (p : BitVec 3) (a : Src) (i : BitVec 6) (s : State) : Out := arriveAt s a 2 false i.toNat true (some p)

/-- BARW (R183): waits without arriving. -/
def execBarw (_a : Src) (id : BitVec 6) (s : State) : Out :=
  issue s { lpb := 0, scc := false, ae := false, inTask := false } (fun i s =>
    let w := s.warp i.u
    let b := s.barrier w false id.toNat
    let s := s.adv i
    if Map.getD w.barM (barKey false id.toNat) 0 != 0 || s.arrived w false id.toNat then
      .ok ((s.updLanes i.u i.n (fun _ k => { k with place := .bar false id.toNat b.phase none })).flushDet i.u)
    else .ok s)

end Sys2Proof.Machine
end

