-- ==== Sys2Proof/Machine/Access.lean ====
section
/-! DEFINITION. The accesses of lanes: translation and its caches (R210 to R212), checks after issue (R22, R358), loads, stores and atomics
put on their way through the L1, the die point and the home slices (R197 to R203, R218, R227, R240 to R248, R271). -/

namespace Sys2Proof.Machine

/-! ### Sizes and images -/

/-- Bytes of a size code (R113). -/
def sizeBytes (z : BitVec 3) : Nat :=
  match z.toNat with
  | 0 | 5 => 1
  | 1 | 6 => 2
  | 2 => 4
  | 3 => 8
  | _ => 16

/-- The registers that a value of n bytes fills. -/
def regsFor (d : BitVec 6) (n : Nat) : List (BitVec 6) :=
  (List.range ((n + 3) / 4)).map (fun j => d + BitVec.ofNat 6 j)

/-- Registers of a data field by size. -/
def sizeRegs (d : BitVec 6) (z : BitVec 3) : List (BitVec 6) := regsFor d (sizeBytes z)

/-- The 552 bytes of an accumulator image (R48). -/
def Acc.image (a : Acc) : List Byte :=
  leBytes 544 a.v.toNat ++ leBytes 8 ((if a.pinf then 1 else 0) + (if a.ninf then 2 else 0) + (if a.nan then 4 else 0))

def Acc.ofImage (bs : List Byte) : Acc :=
  let f := leNat (bs.drop 544)
  ⟨BitVec.ofNat 4352 (leNat (bs.take 544)), f % 2 == 1, f / 2 % 2 == 1, f / 4 % 2 == 1⟩

/-! ### Accesses under check (R15, R16, R358, R385) -/

def Access.align (a : Access) : Nat := if a.n = 552 then 8 else a.n

/-- Whether its first and its last byte have canonical addresses (R15, R248). -/
def Access.canonical (a : Access) : Bool :=
  Machine.canonical a.va && a.va.toNat + a.n ≤ 2 ^ 64 && Machine.canonical (BitVec.ofNat 64 (a.va.toNat + a.n - 1))

/-- Whether the access gets as far as translation: aligned, canonical, outside the window. -/
def Access.translates (a : Access) : Bool := a.va.toNat % a.align == 0 && !inWindow a.va && a.canonical

/-- Addresses of its first and last byte. -/
def Access.ends (a : Access) : List Nat :=
  if a.va.toNat / 65536 = (a.va.toNat + a.n - 1) / 65536 then [a.va.toNat] else [a.va.toNat, a.va.toNat + a.n - 1]

/-- What the check knows of the page of an address. -/
def Check.page (c : Check) (ctx va : Nat) : Option (Xlat ⊕ Nat) :=
  match c.xlat.find? (fun x => x.covers ctx va) with
  | some x => some (.inl x)
  | none => (c.bad.find? (fun b => b.1 == va / 65536)).map (fun b => .inr b.2)

/-- Whether every page that the accesses need is translated or failed. -/
def Check.resolved (c : Check) (ctx : Nat) : Bool :=
  c.acc.all (fun a => !a.translates || a.ends.all (fun v => (c.page ctx v).isSome))

/-- The kinds of watchpoint match (R385): as a load, as a store. -/
def Pending.kinds : Pending → Bool × Bool
  | .ld _ _ => (true, false)
  | .ldo _ _ _ _ => (true, false)
  | .ldl _ _ => (true, false)
  | .img 0 _ => (true, false)
  | .img _ _ => (false, true)
  | .atom _ _ ret _ _ => (ret, true)
  | .st => (false, true)
  | .stl => (false, true)
  | .sto _ => (false, true)
  | .signal => (false, false)
  | .aeLd _ _ => (false, false)

/-- The watchpoints of the core that an access of the lane matches. -/
def State.watchHits (s : State) (w : Warp) (what : Pending) (a : Access) : List Nat :=
  if (w.lane a.lane).noWatch || w.kind != .warp then []
  else Map.keysWhere (s.core w.core).watches (fun _ x =>
    x.ctl.getLsbD 31 && ((x.ctl.getLsbD 30 && what.kinds.1) || (x.ctl.getLsbD 29 && what.kinds.2)) &&
      max a.va.toNat x.base.toNat < min (a.va.toNat + a.n) x.limit.toNat)

/-- The first failed check of one access, in the order of R358. -/
def State.accessTrap (s : State) (w : Warp) (c : Check) (a : Access) : Option Trap :=
  let watch : Option Trap := if (s.watchHits w c.what a).isEmpty then none else some ⟨0x14, a.va, 0⟩
  if a.va.toNat % a.align ≠ 0 then some ⟨0x0A, a.va, 0⟩
  else if inWindow a.va then
    match s.window w.ctx w.core (s.view w) a.va a.n with
    | .inr t => some t
    | .inl k => if a.wr && (List.range a.n).any (fun i => s.inMap w.block (k + i)) then some ⟨0x09, a.va, 0⟩ else watch
  else if !canonical a.va then some ⟨0x09, a.va, 0⟩
  else if !a.canonical then some ⟨0x09, BitVec.ofNat 64 ((a.va.toNat + a.n - 1) / 65536 * 65536), 0⟩
  else
    let ps := a.ends.map (fun v => (v, c.page w.ctx v))
    let at_ (v : Nat) : Dword := if v = a.va.toNat then a.va else BitVec.ofNat 64 (v / 65536 * 65536)
    let lost := ps.find? (fun p => match p.2 with | some (.inl x) => s.contained (s.localPa (x.paOf p.1)) | _ => false)
    let bad := ps.findSome? (fun p => match p.2 with | some (.inr i) => some (p.1, i) | _ => none)
    let no := ps.findSome? (fun p => match p.2 with | some (.inl x) => if x.allows a.rd a.wr then none else some (p.1, x.level) | _ => none)
    match lost, bad, no with
    | some p, _, _ => some ⟨0x16, at_ p.1, 0⟩
    | none, some (v, i), _ => some ⟨0x08, at_ v, BitVec.ofNat 32 i⟩
    | none, none, some (v, l) => some ⟨0x09, at_ v, BitVec.ofNat 32 l⟩
    | none, none, none => watch

/-- The places of an access's bytes. -/
def State.accessPas (s : State) (w : Warp) (c : Check) (a : Access) : List Nat :=
  if inWindow a.va then
    match s.window w.ctx w.core (s.view w) a.va a.n with
    | .inl k => (List.range a.n).map (k + ·)
    | .inr _ => []
  else (List.range a.n).filterMap (fun i => match c.page w.ctx (a.va.toNat + i) with
    | some (.inl x) => some (s.localPa (x.paOf (a.va.toNat + i)))
    | _ => none)

/-- Whether loads of the access bypass the L1 (R197). -/
def Check.bypass (w : Warp) (c : Check) (a : Access) (pas : List Nat) : Bool :=
  w.kind != .warp || pas.any isRelay || a.ends.any (fun v => match c.page w.ctx v with | some (.inl x) => x.nc | _ => false)

/-- Starts the walks that an agent's check needs (R212). -/
def State.startWalks (s : State) (u : Nat) : State :=
  let w := s.warp u
  match w.check with
  | none => s
  | some c =>
    let vas := c.acc.foldl (fun l a => if a.translates then l ++ a.ends else l) []
    vas.foldl (fun s v =>
      let c := ((s.warp u).check).getD c
      let set (s : State) (f : Check → Check) : State := s.updWarp u (fun w => { w with check := w.check.map f })
      if (c.page w.ctx v).isSome || s.reqs.any (fun p => match p.2 with
          | .walk k => k.warp == u && k.va / 65536 == v / 65536
          | _ => false) then s
      else match s.tlbFind w.core w.ctx v with
        | some x => set (s.fillTlb w.core x) (fun c => { c with xlat := c.xlat ++ [x] })
        | none => match s.walkStart w.core w.ctx v with
          | some (level, table) => (s.touchEntry w.core w.ctx v).addReq (.walk ⟨w.core, u, w.ctx, v, level, table⟩)
          | none => set s (fun c => { c with bad := c.bad ++ [(v / 65536, 1)] })) s

/-- The destinations of lanes that are orphaned, by lane. -/
def Warp.orphansAmong (w : Warp) (lanes : List Nat) (mark : Nat → List (BitVec 6)) : List (Nat × Nat) :=
  lanes.foldl (fun acc l => acc ++ (((mark l).filter (fun r => (w.lane l).isOrphan r.toNat)).map (fun r => (l, r.toNat)))) []

/-- Puts a may-fault instruction under check (R22): destinations become empty, and translation starts. -/
def State.startCheck (s : State) (i : Iss) (what : Pending) (lanes : List Nat) (acc : List Access) (mark : Nat → List (BitVec 6))
    (long : Bool) : State :=
  let orphans := (s.warp i.u).orphansAmong lanes mark
  let s : State := s.updLanes i.u lanes (fun l k => (mark l).foldl (fun k r => k.mark long r.toNat) k)
  (s.updWarp i.u (fun w => { w with check := some ⟨what, lanes, acc, i.len, [], [], [], none, i.frag, orphans⟩ })).startWalks i.u

/-- Lanes of non-head tasks that an access to the window parks (R272). -/
def State.windowParks (s : State) (w : Warp) (acc : List Access) : List Nat :=
  s.waitingTasks w ((acc.filter (fun a => inWindow a.va)).map (·.lane))

/-! ### Tasks: buffers and signatures (R271, R272) -/

/-- The signature bit of a line (R271). -/
def sigBit (pa : Nat) : Nat :=
  let la := pa / 256
  ((BitVec.ofNat 8 la) ^^^ (BitVec.ofNat 8 (la / 2 ^ 8)) ^^^ (BitVec.ofNat 8 (la / 2 ^ 16)) ^^^ (BitVec.ofNat 8 (la / 2 ^ 24)) ^^^
    (BitVec.ofNat 8 (la / 2 ^ 32))).toNat

/-- The task of a lane. -/
def State.taskOf (s : State) (w : Warp) (l : Nat) : Option (Nat × Task) :=
  match (w.lane l).task with
  | none => none
  | some n => (Map.get? (s.core w.core).tasks n).map (fun t => (n, t))

def State.updTask (s : State) (core n : Nat) (f : Task → Task) : State :=
  s.updCore core (fun c => { c with tasks := Map.upd c.tasks n f })

/-- The bytes of a task's buffer. -/
def Task.cells (t : Task) : Map Byte := t.buf.foldl (fun m e => e.2.foldl (fun m c => Map.put m c.1 c.2) m) []

/-- Lines that a set of bytes touches. -/
def linesOf (cells : Map Byte) : List Nat := (cells.map (fun c => c.1 / 256)).eraseDups

/-- A store merged into the buffer (R271). -/
def Task.merge (t : Task) (cells : Map Byte) : Task :=
  { t with buf := cells.foldl (fun m c => Map.put m (c.1 / 8 * 8) (Map.put (Map.getD m (c.1 / 8 * 8) []) c.1 c.2)) t.buf }

/-- Whether a store needs a 17th entry. -/
def Task.overflows (t : Task) (cells : Map Byte) : Bool :=
  16 < (t.merge cells).buf.length

/-- Counts n requests served at a home slice, where its lines come into use; the line of a read that it did not hold misses to HBM, a write takes
its line without reading HBM; a window's bytes have no home slice (R206, R216, R393) (DEDUCED, log entry 86). -/
def State.countServed (s : State) (g : Nat) (pas : List Nat) (wr : Bool := false) (n : Nat := 1) : State :=
  if pas.isEmpty || pas.any isSp || n = 0 then s
  else
    let lines := (pas.map (· / 256)).eraseDups
    let miss := if wr then 0 else (lines.filter (fun x => isHbm (x * 256) && !s.llcHas x)).length
    ((s.llcUses pas wr).count g 0x07 n).count g 0x08 miss

/-! ### What translation leaves (R206, R212) -/

/-- The table entries that a walk reads from a level on: each read is served at its home slice, and what it found is kept (R206, R212). -/
def State.readTables (s : State) (core grid ctx va : Nat) : Nat → Nat → Nat → State
  | 0, _, _ => s
  | fuel + 1, level, table =>
    let t : State := s.countServed grid [table + 8 * levelIndex (va % 2 ^ 57) level]
    match s.pteStep ctx (va % 2 ^ 57) level table with
    | .next n => (t.keepEntry core ⟨ctx, level, va % 2 ^ 57 / 2 ^ levelShift level, n⟩).readTables core grid ctx va fuel (level + 1) n
    | _ => t

/-- An address has been translated for a core's own access (`own`) or for an engine, whose pipe fills the base die's TLB alone (R212). -/
def State.touchXlat (s : State) (core grid ctx va : Nat) (own : Bool) : State :=
  let fill (s : State) (x : Xlat) : State := if own then s.fillTlb core x else s.fillShared core x
  match (if own then s.tlbFind core ctx va else (s.sharedTlb core).find? (fun x => x.covers ctx va)) with
  | some x => fill s x
  | none =>
    let t : State := match s.walkStart core ctx va with
      | some (level, table) => (s.touchEntry core ctx va).readTables core grid ctx va 4 level table
      | none => s
    match s.keptWalk core ctx va with
    | .inl x => fill t x
    | .inr _ => t

/-! ### Loads on their way (R198, R218, R224, R240, R271) -/

/-- The fill of a missing sector: one for each sector and beat, so the lanes of a beat share those named from k0 on; the line is allocated
where it is absent and the set has room (R198). -/
def State.fillFor (s : State) (k0 core grid warp sector : Nat) (walker : Bool := false) : Nat × State :=
  match List.find? (fun (p : Nat × Req) => match p.2 with | .fill f => k0 ≤ p.1 && f.core == core && f.sector == sector | _ => false) s.reqs with
  | some p => (p.1, s)
  | none =>
    let s : State := match (s.core core).allocLine (sector / 4) s.nextId with
      | some c => s.setCore core c
      | none => s
    let bank := (Map.get? (s.core core).l1 (sector / 4)).map (·.bank)
    (s.nextId, s.addReq (.fill ⟨core, grid, warp, sector, none, none, false, bank, 0, walker⟩))

/-- Whether an atomic of a lane to a byte, at cluster scope or wider, or an XADDM, is not over: the lane's later accesses come after it, and do
not take a byte that the L1 still masks for an earlier store (R17, R199) (DEDUCED, log entry 23). -/
def State.atomAhead (s : State) (u lane pa : Nat) : Bool :=
  s.reqs.any (fun r => match r.2 with
    | .atom a => a.scope != 0 && a.warp == u && a.parts.any (fun p => p.lane == lane && p.pa ≤ pa && pa < p.pa + (if 17 ≤ a.aop then 8 else 4))
    | .xaddm x => x.warp == u && x.lanes.contains lane && x.pas.contains pa
    | _ => false)

/-- Whether a lane's load finds a byte in the L1. -/
def State.l1Sees (s : State) (core u lane pa : Nat) : Bool := (s.core core).l1Has pa && !s.atomAhead u lane pa

/-- The sectors of a beat's loads that the L1 does not serve: some byte that a lane asks for is missing (R198). -/
def State.missing (s : State) (core u : Nat) (ps : List (Nat × List Nat)) : List Nat :=
  (ps.foldl (fun acc p => acc ++ (p.2.filter (fun k => !s.l1Sees core u p.1 k)).map (· / 64)) ([] : List Nat)).eraseDups

/-- What the L1's merge must not put in place of for an earlier load of the same lane, named below k0, when the lane writes bytes (R17,
R198). -/
def State.shieldLoads (s : State) (k0 u lane core : Nat) (places : List Nat) : State :=
  let keep (l : Load) (m : Map (Option Byte)) (k : Nat) : Map (Option Byte) :=
    if l.pas.contains k && !Map.has m k then
      Map.put m k (if (s.core core).l1Has k then some ((s.core core).l1Byte k) else none)
    else m
  let shield (l : Load) : Load := { l with fwd := places.foldl (keep l) l.fwd }
  let filling (l : Load) : Bool := match l.serve with | .fill _ => true | _ => false
  { s with reqs := s.reqs.map (fun p => match p.2 with
      | .load l => if p.1 < k0 && l.warp == u && l.lane == lane && filling l then (p.1, .load (shield l)) else p
      | _ => p) }

/-- A load through the L1 (R198): the bytes of sector requests that hit are taken now, the sectors of `miss` are requested. -/
def State.l1Load (s : State) (k0 : Nat) (miss : List Nat) (l : Load) : State :=
  let grid := s.gridOf (s.warp l.warp)
  let c := s.core l.core
  let sectors := (l.pas.map (· / 64)).eraseDups
  let miss := sectors.filter miss.contains
  let got := l.pas.zipIdx.foldl (fun m p => if miss.contains (p.1 / 64) then m else Map.put m p.2 (c.l1Byte p.1)) l.got
  let s : State := s.shieldLoads s.nextId l.warp l.lane l.core (l.pas.filter (fun k => !miss.contains (k / 64)))
  let fwd := l.pas.foldl (fun m k => if s.atomAhead l.warp l.lane k && !Map.has m k then Map.put m k none else m) l.fwd
  let s : State := (sectors.filter (fun x => !miss.contains x)).foldl (fun s x => match (s.core l.core).allocLine (x / 4) s.nextId with
    | some c => if Map.has (s.core l.core).l1 (x / 4) then { s.setCore l.core c with nextId := s.nextId + 1 } else s
    | none => s) s
  let (ks, s) := miss.foldl (fun (p : List Nat × State) x => let (k, s) := p.2.fillFor k0 l.core grid l.warp x; (p.1 ++ [k], s)) (([] : List Nat), s)
  s.addReq (.load { l with got := got, fwd := fwd, serve := if ks.isEmpty then .done else .fill ks })

/-- Where an LDO is served (R224, R240): none for a plain load, else acquire and scope. `miss` as for the L1. -/
def State.startLoad (s : State) (k0 : Nat) (miss : List Nat) (l : Load) (order : Option (Bool × Nat)) (byp : Bool) : State :=
  let w := s.warp l.warp
  let sp := l.pas.any isSp
  let now (s : State) : State := s.addReq (.load { l with serve := .done, got := bytesMap (l.pas.map s.byte) })
  if sp then
    if l.pas.all (fun k => (s.block (spBlock k)).core == l.core) then now s else s.addReq (.load { l with serve := .home })
  else match s.taskOf w l.lane with
    | some (n, t) =>
      let own := t.cells
      let fwd := l.pas.foldl (fun m k => match Map.get? own k with | some b => Map.put m k (some b) | none => m) l.fwd
      let bits := (l.pas.map sigBit).eraseDups
      (s.updTask w.core n (fun t => { t with sig := bits.foldl (fun g b => g ||| (1#256 <<< b)) t.sig })).addReq
        (.load { l with serve := .home, fwd := fwd })
    | none =>
      match order with
      | some (acq, scope) =>
        if !acq || 3 ≤ scope then s.addReq (.load { l with serve := .home })
        else if scope = 0 && !byp then s.l1Load k0 miss l else s.addReq (.load { l with serve := .diePoint })
      | none => if byp then s.addReq (.load { l with serve := .diePoint }) else s.l1Load k0 miss l

/-- Sector requests of an L1 access by beat (R198, R393). -/
def sectorRequests (reqs : List (Nat × List Nat)) : List (Nat × Nat) :=
  (reqs.foldl (fun acc r => acc ++ r.2.map (fun k => (r.1, k / 64))) []).eraseDups

/-! ### Stores on their way (R199, R203, R216, R271) -/

/-- Whether the L1 can take stores to all of some places now (R199). Of a store's lines in one set, those beyond the CACHE ways that the set has
enter no line: they leave with the others (DESIGN CHOICE, log entry 107). -/
def State.linesFree (s : State) (core : Nat) (pas : List Nat) : Bool :=
  let ls := ((pas.filter (fun k => !isSp k && !isRelay k)).map (· / 256)).eraseDups
  let fit := ls.foldl (fun acc x => if (acc.filter (fun y => y % 256 == x % 256)).length < (s.core core).ways.length then acc ++ [x] else acc) []
  ((s.core core).takeLines 0 fit).isSome

/-- The bytes of a store enter the L1 with their mask bits, line by line; where a line finds no place, no fill that left before brings its sectors older
bytes (R198, R199). -/
def State.enterL1 (s : State) (core : Nat) (cells : Map Byte) : State :=
  (linesOf cells).foldl (fun s x =>
    let here := cells.filter (fun p => p.1 / 256 == x)
    match (s.core core).allocLine x s.nextId with
    | some c => { s.setCore core (c.l1Store here) with nextId := s.nextId + 1 }
    | none => ((here.map (fun p => p.1 / 64)).eraseDups).foldl (fun s y => s.staleFills core (some y)) s) s

/-- The head's buffered stores go out before what it does directly (R272). -/
def State.flushTask (s : State) (u l : Nat) : State :=
  let w := s.warp u
  match s.taskOf w l with
  | none => s
  | some (n, t) =>
    if t.buf.isEmpty then s
    else
      let s : State := (linesOf t.cells).foldl (fun s x =>
        s.addStore 0 w.core u w.block (s.gridOf w) w.ctx (t.cells.filter (fun c => c.1 / 256 == x)) 0 [l]) s
      s.updTask w.core n (fun t => { t with buf := [], wrote := (t.wrote ++ linesOf t.cells).eraseDups })

/-- The head's direct writes count among the lines its commit wrote. -/
def State.noteWrote (s : State) (u l : Nat) (lines : List Nat) : State :=
  let w := s.warp u
  match s.taskOf w l with
  | none => s
  | some (n, _) => s.updTask w.core n (fun t => { t with wrote := (t.wrote ++ lines).eraseDups })

/-- One lane's store outside a task's buffer; line requests are made by the caller. -/
def State.storeEnters (s : State) (u lane : Nat) (cells : Map Byte) : State :=
  let w := s.warp u
  if cells.any (fun c => isSp c.1) || w.kind != .warp || cells.any (fun c => isRelay c.1) then s
  else (s.shieldLoads s.nextId u lane w.core (cells.map (·.1))).enterL1 w.core cells

/-- The stores of one instruction: each beat's bytes enter the L1 and leave as one request per line; own-core scratchpad bytes are
written at once (R199, R203, R216). The halves of 16 bytes are never seen apart (DESIGN CHOICE, log entry 103). -/
def State.startStores (s : State) (u : Nat) (ls : List (Nat × Nat × Map Byte)) : State :=
  let w := s.warp u
  let s : State := ls.foldl (fun s p => ((s.flushTask u p.2.1).noteWrote u p.2.1 (linesOf p.2.2)).storeEnters u p.2.1 p.2.2) s
  let cls := if w.isScc then 8 else 0
  let beats := (ls.map (·.1)).eraseDups
  beats.foldl (fun s b =>
    let mine := ls.filter (fun p => p.1 == b)
    let cells := mine.foldl (fun m p => p.2.2.foldl (fun m c => Map.put m c.1 c.2) m) ([] : Map Byte)
    let on (x : Nat) : List Nat := (mine.filter (fun p => p.2.2.any (fun c => c.1 / 256 == x))).map (·.2.1)
    let own := cells.filter (fun c => isSp c.1 && (s.block (spBlock c.1)).core == w.core)
    let out := cells.filter (fun c => !(isSp c.1 && (s.block (spBlock c.1)).core == w.core))
    (linesOf out).foldl (fun s x =>
      (s.addStore cls w.core u w.block (s.gridOf w) w.ctx (out.filter (fun c => c.1 / 256 == x)) 0 (on x)).count (s.gridOf w) 0x0A 1)
      (s.setBytes own)) s

/-! ### Atomics (R226, R227, R242 to R244) -/

def atomWide (aop : Nat) : Bool := 17 ≤ aop

/-- The new value of an atomic, or none where it writes nothing (R243): o old, v data, c compare or bound. -/
def atomOp (aop : Nat) (o v c : BitVec 64) : Option (BitVec 64) :=
  let o32 : Word := lo32 o
  let v32 : Word := lo32 v
  let w (x : Word) : Option (BitVec 64) := some (x.setWidth 64)
  match aop with
  | 0 => w (o32 + v32)
  | 1 => w (o32 - v32)
  | 2 => w (o32 &&& v32)
  | 3 => w (o32 ||| v32)
  | 4 => w (o32 ^^^ v32)
  | 5 => w (if v32.slt o32 then v32 else o32)
  | 6 => w (if o32.slt v32 then v32 else o32)
  | 7 => w (if v32 < o32 then v32 else o32)
  | 8 => w (if o32 < v32 then v32 else o32)
  | 9 => w v32
  | 10 => if o32 = lo32 c then w v32 else none
  | 11 =>
    let t := o32.toNat + v32.toNat
    w (BitVec.ofNat 32 (if (lo32 c).toNat < t then t - (lo32 c).toNat - 1 else t))
  | 12 => w (if o32 < v32 then o32 + lo32 c + 1 - v32 else o32 - v32)
  | 13 => w (scopeOp 3 o32 v32)
  | 14 => w (scopeOp 11 o32 v32)
  | 15 => w (scopeOp 12 o32 v32)
  | 16 => w (scopeOp 13 o32 v32)
  | 17 => some (BitVec.ofNat 64 (f64.add .plain o.toNat v.toNat).bits)
  | 18 => some (o + v)
  | 19 => if o = c then some v else none
  | _ => some v

/-- The parts of an atomic performed one after another, in ascending lane order, on bytes read through `base`: the parts with their old
values, and the bytes written (R244). -/
def atomRun (aop : Nat) (base : Nat → Byte) (ps : List AtomLane) : List AtomLane × Map Byte :=
  ps.foldl (fun (acc : List AtomLane × Map Byte) p =>
    let n := if atomWide aop then 8 else 4
    let old : BitVec 64 := BitVec.ofNat 64 (leNat ((List.range n).map (fun i => (Map.get? acc.2 (p.pa + i)).getD (base (p.pa + i)))))
    let cells := match atomOp aop old p.v p.c with
      | some x => (cellsAt p.pa (leBytes n x.toNat)).foldl (fun m c => Map.put m c.1 c.2) acc.2
      | none => acc.2
    (acc.1 ++ [{ p with old := old }], cells)) ([], [])

/-- Registers of the old value. -/
def oldRegs (d : BitVec 6) (aop : Nat) : List (BitVec 6) := if atomWide aop then [d, d + 1] else [d]

/-- Places of an atomic's bytes. -/
def AtomLane.pas (p : AtomLane) (aop : Nat) : List Nat := (List.range (if atomWide aop then 8 else 4)).map (p.pa + ·)
def Atom.pas (a : Atom) : List Nat := a.parts.foldl (fun l p => l ++ p.pas a.aop) []

/-- The bytes that a performed block-scope atomic wrote are what other such atomics of its core that wait for them keep of them (R227). -/
def State.freshenAtoms (s : State) (core : Nat) (cells : Map Byte) : State :=
  { s with reqs := Map.mapV s.reqs (fun _ r => match r with
      | .atom a => if a.scope = 0 && a.core = core then
          .atom { a with got := (cells.filter (fun c => a.pas.contains c.1)).foldl (fun m c => Map.put m c.1 c.2) a.got } else r
      | _ => r) }

/-- A block-scope atomic named k performed at the L1 atomic unit, and its written-through store (R227, R244). -/
def State.l1Atom (s : State) (k : Nat) (a : Atom) (base : Nat → Byte) : State :=
  let (ps, cells) := atomRun a.aop base a.parts
  let n := if atomWide a.aop then 8 else 4
  let s : State := a.parts.foldl (fun s p => s.shieldLoads k a.warp p.lane a.core ((List.range n).map (p.pa + ·))) s
  let s : State := (s.enterL1 a.core cells).freshenAtoms a.core cells
  let s : State := (linesOf cells).foldl (fun s x =>
    (s.addStore a.cls a.core a.warp a.block a.grid a.ctx (cells.filter (fun c => c.1 / 256 == x)) k (a.parts.map (·.lane))).count a.grid 0x0A 1) s
  let s : State := s.count a.grid 0x09 ps.length
  match a.ret with
  | none => s
  | some d => ps.foldl (fun s p => s.addReq (.load (.value a.core a.warp p.lane (oldRegs d a.aop) p.old.toNat))) s

/-- Clears the valid bits of the sectors of an atomic's bytes in the issuing core's L1; masks stay till the home slice acknowledges the stores
(R199). -/
def State.dropForAtom (s : State) (core : Nat) (pas : List Nat) : State :=
  ((pas.map (· / 64)).eraseDups).foldl (fun s x => (s.updCore core (fun c => c.l1DropSector x)).staleFills core (some x)) s

/-- A block-scope atomic of one line (R227, R244): performed now where the L1 has its bytes and no earlier one to them waits; else it waits for
the fills of the missing sectors, which it shares with earlier ones as long as no invalidation has made them stale (R225), and for those that these wait
for. -/
def State.startL1Atom (s : State) (a : Atom) : State :=
  let x := (a.parts.headD ⟨0, 0, 0, 0, 0⟩).pa / 256
  let pas := a.pas
  let s : State := match (s.core a.core).allocLine x s.nextId with
    | some c => { s.setCore a.core c with nextId := s.nextId + 1 }
    | none => s
  let c := s.core a.core
  let waiting := s.reqs.filterMap (fun p => match p.2 with | .atom b => if b.scope = 0 && b.core = a.core then some b else none | _ => none)
  let ahead := waiting.foldl (fun l b => if (b.parts.any (fun p => (p.pas b.aop).any pas.contains)) then l ++ b.fills else l) []
  let miss := ((pas.filter (fun k => !c.l1Has k)).map (· / 64)).eraseDups
  let shared (sector : Nat) : Option Nat := (waiting.foldl (fun l b => l ++ b.own) []).find? (fun k => match Map.get? s.reqs k with
    | some (.fill f) => f.sector == sector && !f.stale
    | _ => false)
  let (ks, s) := miss.foldl (fun (p : List Nat × State) sector => match shared sector with
    | some k => (p.1 ++ [k], p.2)
    | none => let (k, t) := p.2.fillFor p.2.nextId a.core a.grid a.warp sector; (p.1 ++ [k], t)) (([] : List Nat), s)
  let fills := (ahead ++ ks).eraseDups
  if fills.isEmpty then s.l1Atom s.nextId a c.l1Byte
  else s.addReq (.atom { a with
    fills := fills, own := ks, got := (pas.filter (fun k => !miss.contains (k / 64))).foldl (fun m k => Map.put m k (c.l1Byte k)) [] })

/-- The atomics of one instruction, each lane's with its beat (R244): the requests of its beats for one line are performed together, so that no
other access comes between them. A block-scope atomic to a Relay address is performed at the home slice, since such addresses never use the L1
(R197; DEDUCED, log entry 93). `acq`: of an acquire. -/
def State.startAtoms (s : State) (u aop scope : Nat) (acq : Bool) (ret : Option (BitVec 6)) (ps : List (Nat × AtomLane)) : State :=
  let w := s.warp u
  let local_ := scope == 0 && w.kind == .warp
  let s : State := ps.foldl (fun s p => (s.flushTask u p.2.lane).noteWrote u p.2.lane [p.2.pa / 256]) s
  let cls := if w.isScc then 8 else 0
  ((ps.map (fun p => p.2.pa / 256)).eraseDups).foldl (fun s x =>
    let mine := ps.filter (fun p => p.2.pa / 256 == x)
    let pas := mine.foldl (fun l p => l ++ p.2.pas aop) []
    let a : Atom := ⟨cls, w.core, u, w.wix, w.block, s.gridOf w, w.ctx, aop, scope, ret, mine.map (·.2), (mine.map (·.1)).eraseDups.length, [], [], [], 0, 0,
      (s.warp u).rel, acq, 0⟩
    if local_ && !(pas.any isSp) && !(pas.any isRelay) then s.startL1Atom a
    else
      let s : State := if pas.any isSp || w.kind != .warp then s else s.dropForAtom w.core pas
      s.addReq (.atom { a with scope := max 1 scope })) s

/-! ### Requests by their bytes (R17, R218, R222) -/

/-- The places of a request's bytes. -/
def Req.pas (r : Req) : List Nat :=
  match r with
  | .load l => l.pas
  | .fill f => (List.range 64).map (fun j => f.sector * 64 + j)
  | .store t => t.pas
  | .atom a => a.pas
  | .xaddm x => x.pas
  | .walk _ => []

def Req.core (r : Req) : Nat :=
  match r with
  | .load l => l.core
  | .fill f => f.core
  | .store t => t.core
  | .atom a => a.core
  | .xaddm x => x.core
  | .walk p => p.core

/-- A store that is not performed, an atomic that is not, at its home. -/
def Req.openStore (r : Req) : Bool := match r with | .store t => t.stage == .issued || t.stage == .passed | _ => false
def Req.openAtom (r : Req) : Bool :=
  match r with
  | .atom a => a.scope != 0 && a.performed < a.parts.length
  | .xaddm x => !x.linesLeft.isEmpty
  | _ => false

/-- A load or fill whose bytes have not all been served. -/
def Req.openRead (r : Req) : Bool :=
  match r with
  | .load l => l.serve == .diePoint || l.serve == .home
  | .fill f => f.got.isNone
  | _ => false

/-! ### Who waits for whom (R17, R218, R222, R231) -/

/-- The path of a request to the die point: the engine class of a store; a scalar control core's and an address engine's loads have
their own. -/
def State.pathOf (s : State) (r : Req) : Nat :=
  match r with
  | .store t => t.cls
  | .atom a => a.cls
  | .load l => if (s.warp l.warp).isScc then 8 else if (s.warp l.warp).isAe then 4 else 0
  | _ => 0

/-- The armed session that covers the atomics of a warp and grid at home slices; none covers those of the window (R394, R395). -/
def State.sessionOf (s : State) (ctx warp grid : Nat) (pas : List Nat) : Option Session :=
  match (s.ctx ctx).session with
  | some x => if x.armed && (warp == x.warp || (s.grid grid).inSession) && !(pas.any isSp) then some x else none
  | none => none
def State.sessionFor (s : State) (a : Atom) : Option Session := s.sessionOf a.ctx a.warp a.grid a.pas
def State.sessionForImage (s : State) (x : Xaddm) : Option Session := s.sessionOf x.ctx x.warp x.grid x.pas

/-- Whether a request is of a lane; a store that names no lanes is of all lanes of its warp. -/
def Req.ofLane (r : Req) (u l : Nat) : Bool :=
  match r with
  | .load x => x.warp == u && x.lane == l
  | .atom a => a.warp == u && a.parts.any (fun p => p.lane == l)
  | .store t => t.warp == u && (t.lanes.isEmpty || t.lanes.contains l)
  | .xaddm x => x.warp == u && x.lanes.contains l
  | _ => false

/-- Whether a request waits for a fill. -/
def Req.onFill (r : Req) (k : Nat) : Bool :=
  match r with
  | .load x => (match x.serve with | .fill ks => ks.contains k | _ => false)
  | .atom a => a.scope == 0 && a.fills.contains k
  | _ => false

/-- Whether a request named k serves one of some lanes of a warp. -/
def State.serves (s : State) (k u : Nat) (ls : List Nat) : Bool :=
  s.reqs.any (fun q => (q.1 == k || q.2.onFill k) && ls.any (q.2.ofLane u))

/-- Whether an atomic waits in an enforced session, where it holds back nothing but its own lanes (R396). -/
def State.enforced (s : State) (r : Req) : Bool :=
  match (match r with | .atom b => s.sessionFor b | .xaddm x => s.sessionForImage x | _ => none) with
  | some x => x.mode == 2
  | none => false

/-- Whether an older request holds a request named k back only by its core: an atomic of an enforced session waits for other lanes of the core too, and
the lock of an XADDM holds back no other access, so that they hold back no more than what their own lanes do (R17, R248, R396) (DEDUCED, log
entry 58). -/
def State.apart (s : State) (k : Nat) (r : Req) : Bool :=
  match r with
  | .atom b => s.enforced r && !(s.serves k b.warp (b.parts.map (·.lane)))
  | .xaddm x => !(s.serves k x.warp x.lanes) && (s.enforced r || !(match Map.get? s.reqs k with | some (.xaddm _) => true | _ => false))
  | _ => false

/-- Whether an older request of the core and path that passes a test touches some of the places and holds the request back (R17, R232). -/
def State.olderReq (s : State) (k : Nat) (r : Req) (pas : List Nat) (t : Req → Bool) : Bool :=
  s.reqs.any (fun p => p.1 < k && p.2.core == r.core && s.pathOf p.2 == s.pathOf r && t p.2 && meets p.2.pas pas && !s.apart k p.2)

/-- The sequence number of a request's passing the die point, or 0. -/
def Req.passed (r : Req) : Nat :=
  match r with
  | .load l => l.pass
  | .fill f => f.pass
  | .store t => t.pass
  | .atom a => a.pass
  | .xaddm x => x.pass
  | .walk _ => 0

/-- Whether a request of the same base die that passes a test, touches some of the places and has passed the die point before number `n` is
still to be served at its home: requests of one base die for one byte are served there in the order in which they passed (R218, R225,
R231) (DEDUCED, log entry 58). -/
def State.passedBefore (s : State) (core n : Nat) (pas : List Nat) (t : Req → Bool) : Bool :=
  s.reqs.any (fun p => p.2.passed != 0 && p.2.passed < n && baseDieOfCore p.2.core == baseDieOfCore core && t p.2 && meets p.2.pas pas &&
    !s.enforced p.2 && (match p.2 with | .xaddm _ => false | _ => true))

/-- Whether an older request of the core and path has not passed the die point. -/
def State.olderUnpassed (s : State) (k core path : Nat) : Bool :=
  s.reqs.any (fun p => p.1 < k && p.2.core == core && s.pathOf p.2 == path && (match p.2 with
    | .store t => t.stage == .issued
    | .load l => l.serve == .diePoint
    | .fill f => f.passed.isNone
    | .atom a => a.scope != 0 && a.pass == 0 && !(p.2.pas.any isSp)
    | .xaddm x => x.pass == 0
    | _ => false))

/-- Whether a request may pass the die point: after the core's older ones of its path, those of other warps too (R218) (DEDUCED, log entry
116). -/
def State.mayPass (s : State) (k : Nat) (r : Req) (reads : Bool) : Bool :=
  !s.olderUnpassed k r.core (s.pathOf r) && !(reads && s.olderReq k r r.pas Req.openAtom)

/-- What a request takes at the die point, byte by byte. -/
def State.takeHeld (s : State) (core : Nat) (pas : List Nat) : Map Byte :=
  pas.foldl (fun m pa => match s.held (baseDieOfCore core) pa with | some b => Map.put m pa b | none => m) []

/-- The first tick at which an acquire may have taken the bytes that the die point holds for it (R236). -/
def State.heldDue (s : State) (core : Nat) (pas : List Nat) : Nat :=
  pas.foldl (fun n pa => match s.heldStore (baseDieOfCore core) pa with
    | some t => if t.rel != 0 && t.core / 32 != core / 32 then max n (t.rel + 59) else n
    | none => n) 0

/-- Marks the stores at the die point that a request of a core meets. -/
def State.markSeen (s : State) (core : Nat) (pas : List Nat) : State :=
  { s with reqs := Map.mapV s.reqs (fun _ r => match r with
      | .store t => if t.heldAt (baseDieOfCore core) && meets (t.cells.map (·.1)) pas && !t.seen.contains core then
          .store { t with seen := t.seen ++ [core] } else r
      | _ => r) }

/-- Whether a load that passes the die point by meets a byte there that a request of its core has taken (R231), or that had passed there when
its warp's latest acquire completed (R225). -/
def State.meetsSeen (s : State) (core floor : Nat) (pas : List Nat) : Bool :=
  s.stores.any (fun p => p.2.stage == .passed && (p.2.seen.contains core || p.2.pass < floor) && baseDieOfCore p.2.core == baseDieOfCore core &&
    meets (p.2.cells.map (·.1)) pas) || s.passedBefore core floor pas Req.openAtom

/-- Whether the die point over a core's base die still holds a performed store to some of the places: its acknowledgement precedes whatever the
home slice answers a core there (R218, R231) (DEDUCED, log entry 58). -/
def State.ackDue (s : State) (core : Nat) (pas : List Nat) : Bool :=
  s.stores.any (fun p => p.2.stage == .performed && p.2.heldAt (baseDieOfCore core) && meets (p.2.cells.map (·.1)) pas)

end Sys2Proof.Machine
end

