-- ==== Sys2Proof/WellFormed.lean ====
section
/-! DEFINITION. Which operand values an instruction may carry (R71 to R85): the checks an instruction's own fields decide. A pattern
that breaks one is no instruction. Checks that need the machine (the nameable registers of R10, the EXACT attribute, a handler
fragment, the kind of agent) are made when the instruction executes. -/

namespace Sys2Proof

/-- An even register number: the low member of a pair (R71). -/
def even (r : BitVec 6) : Bool := r.toNat % 2 == 0

/-- A multiple of 4: the low member of a quad (R71). -/
def quad (r : BitVec 6) : Bool := r.toNat % 4 == 0

/-- A 32-bit source: the e-bit may be 1 only on a lane register (R71). -/
def Src.ok (a : Src) : Bool := !(a.s && a.e)

/-- The source field that an instruction leaves at 0 (R71). -/
def zeroSrc : Src := ⟨0, false, false⟩

/-- The special zr as a source (R72). -/
def zrSrc : Src := ⟨60, true, false⟩

/-- A CVT format of 64 bits: f64, s64, z64 (R76). -/
def cvtWide (f : BitVec 3) : Bool := f == 3 || f == 4 || f == 5

/-- The data register of a class 3 access: a pair for b64, a quad for b128 (R78). -/
def dataOk (z : BitVec 3) (d : BitVec 6) : Bool := (z != 3 || even d) && (z != 4 || quad d)

/-- The data register of an atomic: a pair for CAS, INCW, DECW and the 64-bit operations, a quad for CAS.64 (R79). -/
def atomDataOk (p : BitVec 5) (d : BitVec 6) : Bool :=
  if p == 19 then quad d
  else if p == 10 || p == 11 || p == 12 || p == 17 || p == 18 || p == 20 then even d
  else true

/-- A system register index that R105 assigns. -/
def srReadable (s : BitVec 8) : Bool :=
  s.toNat < 0x16 || (0x18 ≤ s.toNat && s.toNat < 0x1E) || (0x20 ≤ s.toNat && s.toNat < 0x38)

/-- A system register whose access is RW (R105): fpctl, lprio, bintmr. -/
def srAnyWrite (s : BitVec 8) : Bool := s == 0x10 || s == 0x11 || s == 0x15

/-- A system register that SRW may name: access RW or RH (R104, R105). -/
def srWritable (s : BitVec 8) : Bool :=
  srAnyWrite s || (0x18 ≤ s.toNat && s.toNat < 0x1E) || (0x20 ≤ s.toNat && s.toNat < 0x38)

/-- Whether an instruction's fields obey the operand rules. A device event is no instruction of code, so none is well-formed. -/
def Instr.wf : Instr → Bool
  | .add _ a b | .sub _ a b | .mul _ a b | .mulhS _ a b | .mulhZ _ a b | .mad _ a b | .divS _ a b | .divZ _ a b | .remS _ a b
    | .remZ _ a b | .and _ a b | .or _ a b | .xor _ a b | .andn _ a b | .shl _ a b | .shr _ a b | .sra _ a b | .rol _ a b
    | .minS _ a b | .minZ _ a b | .maxS _ a b | .maxZ _ a b => a.ok && b.ok
  | .absS _ a | .popc _ a | .clz _ a | .brev _ a => a.ok
  | .bfxZ _ a b | .bfxS _ a b | .bfi _ a b => a.ok && b.ok
  | .addw d a b | .subw d a b => even d && even a.r && even b.r
  | .mulwS d a b | .mulwZ d a b => even d && a.ok && b.ok
  | .shlw d a b | .shrw d a b | .sraw d a b => even d && even a.r && b.ok
  | .cmpS c _ a b | .cmpZ c _ a b => c.toNat < 6 && a.ok && b.ok
  | .cmpwS c _ a b | .cmpwZ c _ a b => c.toNat < 6 && even a.r && even b.r
  | .plog o _ _ _ => o.toNat < 7
  | .ptox _ _ => true
  | .xtop _ a => a.ok
  | .rng _ a => even a.r
  | .rngj a b => even a.r && even b.r
  | .fadd _ a b | .fsub _ a b | .fmul _ a b | .ffma _ a b | .ffms _ a b | .fmin _ a b | .fmax _ a b | .fdiv _ a b =>
    a.ok && b.ok
  | .fsqrt _ a | .frcp _ a | .frsq _ a | .fabs _ a | .fneg _ a => a.ok
  | .fcmp c _ a b => c.toNat < 7 && a.ok && b.ok
  | .fclass _ a | .fex2 _ a | .flg2 _ a => a.ok
  | .dadd d a b | .dsub d a b | .dmul d a b | .dfma d a b | .dfms d a b | .dmin d a b | .dmax d a b | .ddiv d a b =>
    even d && even a.r && even b.r
  | .dsqrt d a => even d && even a.r
  | .dcmp c _ a b => c.toNat < 7 && even a.r && even b.r
  | .dabs d a | .dneg d a => even d && even a.r
  | .hadd2 _ a b | .hmul2 _ a b | .hfma2 _ a b | .badd2 _ a b | .bmul2 _ a b | .bfma2 _ a b => a.ok && b.ok
  | .cvt d a f t _ _ => f != t && (!cvtWide f || even a.r) && (!cvtWide t || even d)
  | .pkn _ a _ _ f => f != 2 || even a
  | .upkn _ _ i f => f == 2 || i.toNat < 4
  | .dot4E4m3 _ a b | .dot4E5m2 _ a b | .dot8E2m1 _ a b | .dot4S8 _ a b | .dot8S4 _ a b | .dot2Bf16 _ a b | .dot2F16 _ a b =>
    a.ok && b.ok
  | .xaccf _ a => even a
  | .xacc _ a b | .xfma _ a b => even a && even b
  | .xrnd d _ => even d
  | .xclr _ | .addi _ _ _ | .andi _ _ _ | .ori _ _ _ | .xori _ _ _ | .shi _ _ _ _ | .movlo _ _ | .movhi _ _ | .cmpi _ _ _ _
    | .sel _ _ _ _ _ | .scale _ _ _ _ => true
  | .srd _ s => srReadable s
  | .srw _ s => srWritable s
  | .ldca _ _ | .muli _ _ _ => true
  | .ld d a z _ => even a.r && z.toNat < 7 && dataOk z d
  | .st d a z _ => even a.r && z.toNat < 5 && dataOk z d
  | .ldo d a z o s =>
    even a.r && (z.toNat < 4 || z == 5 || z == 6) && dataOk z d && (o == 0 && s == 0 || o == 1 && s.toNat < 5)
  | .sto d a z s => even a.r && z.toNat < 4 && dataOk z d && s.toNat < 5
  | .atom d a z s _ p | .atomn d a z s _ p =>
    even a.r && s.toNat < 5 && p.toNat < 21 && (z == if p.toNat < 17 then 2 else 3) && atomDataOk p d
  | .prf a | .prfl a => even a.r
  | .inv => true
  | .xld _ a | .xst _ a | .xaddm _ a => even a.r
  | .bra _ _ | .brc _ _ _ _ | .call _ _ | .callp _ _ | .jmpr _ _ | .callr _ _ | .retr _ | .jenrol _ | .jwait _ _ | .jleave _
    | .exit | .trap _ | .rett | .mov16 _ _ | .add16 _ _ | .sub16 _ _ | .mul16 _ _ | .and16 _ _ | .or16 _ _ | .xor16 _ _
    | .andn16 _ _ | .shl16 _ _ | .shr16 _ _ | .sra16 _ _ | .fadd16 _ _ | .fsub16 _ _ | .fmul16 _ _ | .fmin16 _ _ | .fmax16 _ _
    | .nop | .guard _ _ => true
  | .waitk k => k != 0
  | .movi _ _ | .addi16 _ _ | .jwait16 _ _ | .ret | .exit16 | .barb16 _ | .yield | .movs16 _ _ => true
  | .movu d a | .movuf d a | .reduAddS32 d a | .reduAddF32 d a | .reduMinS d a | .reduMaxS d a | .reduMinZ d a | .reduMaxZ d a
    | .reduAnd d a | .reduOr d a | .reduXor d a | .reduFmin d a | .reduFmax d a | .reduAmaxF32 d a => d.toNat < 60 && a.ok
  | .movs _ _ => true
  | .qxch _ a i => a.ok && i.toNat < 7
  | .shfl _ a _ => a.ok
  | .shup _ a i | .shdn _ a i | .shxr _ a i => a.ok && i.toNat < 32
  | .vote _ _ | .vany _ _ | .vall _ _ => true
  | .scanAddS32 _ a | .scanAddF32 _ a => a.ok
  | .elect _ => true
  | .spawn _ i => quad i
  | .binfl => true
  | .launch _ a => even a.r
  | .join a => a.ok && (!a.s || a.r == 60)
  | .barb a i | .bara a i => a.ok && i.toNat < 16
  | .barw a i => a == zeroSrc && i.toNat < 16 || a == zrSrc && i.toNat < 16
  | .barc a i => a.ok && i.toNat < 4
  | .barlast _ a i => a.ok && i.toNat < 16
  | .cpy _ a b _ _ => even a && even b
  | .cpyd a _ _ => even a
  | .cpyt d _ _ _ _ => quad d
  | .gathd a _ _ => even a
  | .tballoc _ _ | .tbinit _ _ _ | .tbarr _ | .tbwait _ _ | .tbref _ | .tbfree _ => true
  | .pgpop d => quad d
  | .pgpost a => quad a.r
  | .pgcnt _ => true
  | .aestart _ b => even b.r
  | .aestop => true
  | .qmap _ i => i.toNat < 37
  | .qunmap _ => true
  | .qtst _ i | .qpush _ i | .qclose i | .qopen i => i.toNat < 37
  | .mmaE4m3 a _ _ _ | .mmaE5m2 a _ _ _ | .mmaE2m1 a _ _ _ | .mmaS8 a _ _ | .mmaS4 a _ _ | .mmaBf16 a _ _ | .mmaF16 a _ _
    | .mmaF64 a _ _ | .mmv a _ _ | .drain a _ _ => even a
  | .maclr i | .mstat _ i => i.toNat < 8
  | .pload _ _ _ _ | .pevict _ | .pres _ _ | .pstat _ _ => true
  | .walk _ a _ => even a
  | .wstat _ _ | .wcancel _ | .wqry _ _ _ => true
  | .lbdef _ a => even a.r
  | .ldl _ _ b | .stl _ _ b => even b.r
  | .lbfree _ => true
  | .fence k _ s => k.toNat < 3 && s.toNat < 5
  | .fencex x y s => x.toNat < 10 && y.toNat < 10 && s.toNat < 5
  | .tick d | .ticko d => even d
  | .pmcfg _ _ => true
  | .pmrd d _ => even d
  | .tdrd d a => even d && a.ok
  | .bankcfg _ a b => a.ok && b.ok
  | .taskbeg a b => even a.r && b.ok
  | .taskend => true
  | .taskrng a b => even a.r && b.ok
  | .taskq _ => true
  | .migrate _ a => even a.r
  | .brk => true
  | .rpbeg a => even a.r
  | .rpend _ => true
  | .wscap a | .wsrst a => even a.r
  | .setrpc a b => a.ok && b.ok
  | .texit a => a.ok
  | .tsvc => true
  | .coll a _ => even a
  | .signal a b => even a.r && b.ok
  | .translationCheckDone _ | .pageWalkReadArrives _ | .loadValueArrives _ | .l1Fill _ | .storeAckDiePoint _ | .storeAckHome _
    | .requestServedHomeSlice _ | .xaddmLinePerformed _ | .scopeWriteTakesEffect _ | .joinRelease _ _ | .barrierComplete _ _ _
    | .joinSatisfied _ | .warpEntersActiveSet _ | .binTimerExpire _ _ | .binFormWarp _ _ | .blockPlace _ | .swapOut _ | .swapIn _
    | .gridTimeLimit _ | .bankModeChangeDone _ | .copyChunkAcked _ | .copyComplete _ | .engineFaultServiceReply _ _
    | .mmaKstepEnd _ | .drainStart _ | .drainComplete _ | .maclrAtHead _ | .parcelLoadComplete _ | .parcelBecomesAbsent _ _
    | .walkStart _ _ | .walkRoundEnd _ | .commitOfficeReply _ | .taskCommitStart _ | .taskCommitComplete _ | .tsvcReplyResume _ _
    | .tsvcReplyEnd _ _ _ _ | .comparatorBreakpoint _ | .debugResume _ | .preemptRequest _ _ _ | .coreVacated _ | .contextSwitch _
    | .uncorrectableError _ | .softErrorCorrected | .sccRestart _ _ _ | .debugStopRequest _ | .clockStop | .debugStopRelease
    | .watchpointRangeWrite _ _ _ _ | .traceRingConfig _ _ | .replayArmed _ | .replayEnforceTimeout _ _ | .capturePageSaved _ _
    | .queueSetup _ _ _ _ _ _ | .queueReset _ | .doorbellWrite _ _ _ | .packetLaunch _ | .packetWaitSignal _ | .waitSignalMet _ _
    | .packetSetSignal _ | .tlbInvalidateRange _ _ _ | .dieOnline _ | .dieOffline _ | .liveUpdate _ _ | .peerAccess _ _ _ _
    | .peerFailure _ | .collectiveComplete _ | .rdmaWrite _ _ _ _ | .rdmaRead _ _ _ _ | .rdmaSend _ _ | .rdmaReceive _ _ _
    | .hostRead _ _ | .hostWrite _ _ | .attestationRequest _ _ | .boot _ _ | .powerClockStep _ | .hostVisible _
    | .restanteWaitTimeout _ | .relayBringUp _ _ | .queuePairSetup _ _ | .rootTableSet _ _ | .quotaSet _ _ _
    | .peerGroupSet _ _ _ _ | .hostServiceRegister _ | .contextKeyRegister _ _ | .debugSessionAttach _ | .linkEnumeration _ _ => false

end Sys2Proof
end

