-- ==== Sys2Proof/Machine/Floating.lean ====
section
/-! DEFINITION. Class 1, the floating, narrow and exact-accumulator instructions (06_arithmetic_instructions.md). -/

namespace Sys2Proof.Machine

def execFadd (d : BitVec 6) (a b : Src) (s : State) : Out := fp2 s d a b f32.add

def execFsub (d : BitVec 6) (a b : Src) (s : State) : Out := fp2 s d a b f32.sub

def execFmul (d : BitVec 6) (a b : Src) (s : State) : Out := fp2 s d a b f32.mul

def execFfma (d : BitVec 6) (a b : Src) (s : State) : Out := fp3 s d a b (fun e => f32.fma e false)

def execFfms (d : BitVec 6) (a b : Src) (s : State) : Out := fp3 s d a b (fun e => f32.fma e true)

def execFmin (d : BitVec 6) (a b : Src) (s : State) : Out := fp2 s d a b (fun e => f32.minmax e.daz false)

def execFmax (d : BitVec 6) (a b : Src) (s : State) : Out := fp2 s d a b (fun e => f32.minmax e.daz true)

def execFdiv (d : BitVec 6) (a b : Src) (s : State) : Out := fp2 s d a b f32.div 2

def execFsqrt (d : BitVec 6) (a : Src) (s : State) : Out := fp1 s 2 d a f32.sqrt

def execFrcp (d : BitVec 6) (a : Src) (s : State) : Out := fp1 s 4 d a frcp

def execFrsq (d : BitVec 6) (a : Src) (s : State) : Out := fp1 s 4 d a frsq

def execFabs (d : BitVec 6) (a : Src) (s : State) : Out := fp1 s 8 d a (fun e x => ⟨f32.absneg e.daz false x, 0⟩)

def execFneg (d : BitVec 6) (a : Src) (s : State) : Out := fp1 s 8 d a (fun e x => ⟨f32.absneg e.daz true x, 0⟩)

def execFcmp (c p : BitVec 3) (a b : Src) (s : State) : Out :=
  fpwise s { srcs := [a.opd, b.opd] } (fun k g =>
    let r := f32.cmp k.env.daz c (g a).toNat (g b).toNat
    (k.putP p r.1, r.2))

def execFclass (d : BitVec 6) (a : Src) (s : State) : Out := op1 s d a (fun x => BitVec.ofNat 32 (fclass x.toNat)) false

def execFex2 (d : BitVec 6) (a : Src) (s : State) : Out := fp1 s 4 d a fex2

def execFlg2 (d : BitVec 6) (a : Src) (s : State) : Out := fp1 s 4 d a flg2

def execDadd (d : BitVec 6) (a b : RegE) (s : State) : Out := dp2 s d a b f64.add

def execDsub (d : BitVec 6) (a b : RegE) (s : State) : Out := dp2 s d a b f64.sub

def execDmul (d : BitVec 6) (a b : RegE) (s : State) : Out := dp2 s d a b f64.mul

def execDfma (d : BitVec 6) (a b : RegE) (s : State) : Out := dp3 s d a b (fun e => f64.fma e false)

def execDfms (d : BitVec 6) (a b : RegE) (s : State) : Out := dp3 s d a b (fun e => f64.fma e true)

def execDmin (d : BitVec 6) (a b : RegE) (s : State) : Out := dp2 s d a b (fun e => f64.minmax e.daz false)

def execDmax (d : BitVec 6) (a b : RegE) (s : State) : Out := dp2 s d a b (fun e => f64.minmax e.daz true)

def execDdiv (d : BitVec 6) (a b : RegE) (s : State) : Out := dp2 s d a b f64.div 2

def execDsqrt (d : BitVec 6) (a : RegE) (s : State) : Out := dp1 s d a f64.sqrt 2

def execDcmp (c p : BitVec 3) (a b : RegE) (s : State) : Out :=
  fpwise s { srcs := [a.opd2, b.opd2] } (fun k _ =>
    let r := f64.cmp k.env.daz c (k.pairVal a.r).toNat (k.pairVal b.r).toNat
    (k.putP p r.1, r.2))

def execDabs (d : BitVec 6) (a : RegE) (s : State) : Out := dp1 s d a (fun e x => ⟨f64.absneg e.daz false x, 0⟩)

def execDneg (d : BitVec 6) (a : RegE) (s : State) : Out := dp1 s d a (fun e x => ⟨f64.absneg e.daz true x, 0⟩)

def execHadd2 (d : BitVec 6) (a b : Src) (s : State) : Out := hp2 s d a b f16.add

def execHmul2 (d : BitVec 6) (a b : Src) (s : State) : Out := hp2 s d a b f16.mul

def execHfma2 (d : BitVec 6) (a b : Src) (s : State) : Out := hp3 s d a b (fun e => f16.fma e false)

def execBadd2 (d : BitVec 6) (a b : Src) (s : State) : Out := hp2 s d a b bf16.add

def execBmul2 (d : BitVec 6) (a b : Src) (s : State) : Out := hp2 s d a b bf16.mul

def execBfma2 (d : BitVec 6) (a b : Src) (s : State) : Out := hp3 s d a b (fun e => bf16.fma e false)

/-! ### Conversions (R127, R128) -/

/-- The float formats among CVT's codes (R76). -/
def cvtFloat (f : BitVec 3) : Option Fmt :=
  match f.toNat with
  | 2 => some f32
  | 3 => some f64
  | 6 => some f16
  | 7 => some bf16
  | _ => none

/-- Width and signedness of the integer codes: 0 s32, 1 z32, 4 s64, 5 z64 (R76). -/
def cvtWidth (f : BitVec 3) : Nat := if f.toNat < 2 then 32 else 64
def cvtSigned (f : BitVec 3) : Bool := f.toNat % 4 == 0

/-- The value of an integer source. -/
def cvtInt (f : BitVec 3) (v : Nat) : Int :=
  if cvtSigned f then (if cvtWidth f = 32 then (BitVec.ofNat 32 v).toInt else (BitVec.ofNat 64 v).toInt) else (v % 2 ^ cvtWidth f : Nat)

/-- CVT's result (R36, R128): rounding with its own field, daz and ftz of the lane. -/
def cvt (e : FEnv) (f t : BitVec 3) (r : BitVec 2) (sat : Bool) (v : Nat) : FRes :=
  let rm := Rm.ofCode r
  match cvtFloat f, cvtFloat t with
  | none, none => ⟨(cvtInt f v % (2 ^ cvtWidth t : Nat)).toNat, 0⟩
  | none, some k => k.roundInt { e with rm := rm } (cvtInt f v) 0 false
  | some k, none => toInt k e.daz rm (cvtSigned t) (cvtWidth t) (v % 2 ^ (1 + k.e + k.f))
  | some k, some k' => toFloat k k' { e with rm := rm } sat (v % 2 ^ (1 + k.e + k.f))

def execCvt (d : BitVec 6) (a : RegE) (f t : BitVec 3) (r : BitVec 2) (sat : Bool) (s : State) : Out :=
  fpwise s { srcs := [if cvtWide f then a.opd2 else a.opd], dsts := if cvtWide t then pairRegs d else [d.toNat] } (fun k _ =>
    let v := if cvtWide f then (k.pairVal a.r).toNat else (k.val a.r.toNat).toNat
    let x := cvt k.env f t r sat v
    if cvtWide t then put64 d k x else put32 d k x)

/-! ### Narrow elements (R129, R130) -/

/-- The narrow format of a 2-bit code. -/
def narrowOf (f : BitVec 2) : Narrow := if f = 0 then .e4m3 else if f = 1 then .e5m2 else if f = 2 then .e2m1 else .e8m0

/-- A word with a bit field replaced. -/
def insert (w : Word) (lo n v : Nat) : Word :=
  let m : Word := BitVec.ofNat 32 ((2 ^ n - 1) * 2 ^ lo)
  (w &&& ~~~ m) ||| (BitVec.ofNat 32 (v * 2 ^ lo) &&& m)

/-- PKN's word: b with the element or elements at pos replaced (R129). -/
def pkn (f p : BitVec 2) (a0 a1 b : Word) : Word :=
  if f = 3 then insert b (8 * p.toNat) 8 (s8OfF32 a0.toNat)
  else if f = 2 then
    insert (insert b (8 * p.toNat) 4 (Narrow.e2m1.ofF32 a0.toNat)) (8 * p.toNat + 4) 4 (Narrow.e2m1.ofF32 a1.toNat)
  else insert b (8 * p.toNat) 8 ((narrowOf f).ofF32 a0.toNat)

def execPkn (d a b : BitVec 6) (p f : BitVec 2) (s : State) : Out :=
  lanewise s { srcs := [if f = 2 then wait2 a else wait1 a, wait1 b], dsts := [d.toNat], ae := false } (fun k _ =>
    k.put d.toNat (pkn f p (k.val a.toNat) (k.val (a.toNat + 1)) (k.val b.toNat)))

/-- UPKN's result: the element widened exactly (R40, R130). -/
def upkn (f : BitVec 2) (i : BitVec 3) (a : Word) : Word :=
  BitVec.ofNat 32 ((narrowOf f).toF32 (if f = 2 then a.toNat / 16 ^ i.toNat % 16 else a.toNat / 256 ^ i.toNat % 256))

def execUpkn (d a : BitVec 6) (i : BitVec 3) (f : BitVec 2) (s : State) : Out :=
  lanewise s { srcs := [wait1 a], dsts := [d.toNat], ae := false } (fun k _ => k.put d.toNat (upkn f i (k.val a.toNat)))

/-! ### Dot products (R132, R133) -/

/-- The products' elements of two packed registers. -/
def elems (n w : Nat) (u : Nat → FVal) (a b : Word) : List (FVal × FVal) :=
  (List.range n).map (fun i => (u (a.toNat / 2 ^ (w * i) % 2 ^ w), u (b.toNat / 2 ^ (w * i) % 2 ^ w)))

def dotN (n w : Nat) (u : Nat → FVal) (a b c : Word) : Word := BitVec.ofNat 32 (dotF (elems n w u a b) c.toNat)

/-- Signed elements of width w, multiplied and summed with the addend, wrapping (R132). -/
def dotS (n w : Nat) (a b c : Word) : Word :=
  (List.range n).foldl (fun acc i =>
    acc + sext32 (a.toNat / 2 ^ (w * i)) w * sext32 (b.toNat / 2 ^ (w * i)) w) c

def execDot4E4m3 (d : BitVec 6) (a b : Src) (s : State) : Out := op3 s d a b (dotN 4 8 Narrow.e4m3.unpack) false

def execDot4E5m2 (d : BitVec 6) (a b : Src) (s : State) : Out := op3 s d a b (dotN 4 8 Narrow.e5m2.unpack) false

def execDot8E2m1 (d : BitVec 6) (a b : Src) (s : State) : Out := op3 s d a b (dotN 8 4 Narrow.e2m1.unpack) false

def execDot4S8 (d : BitVec 6) (a b : Src) (s : State) : Out := op3 s d a b (dotS 4 8) false

def execDot8S4 (d : BitVec 6) (a b : Src) (s : State) : Out := op3 s d a b (dotS 8 4) false

def execDot2Bf16 (d : BitVec 6) (a b : Src) (s : State) : Out := op3 s d a b (dotN 2 16 (bf16.unpack false)) false

def execDot2F16 (d : BitVec 6) (a b : Src) (s : State) : Out := op3 s d a b (dotN 2 16 (f16.unpack false)) false

/-! ### The exact-accumulator family (R134 to R137) -/

def Warp.acc (w : Warp) (c : Bool) : Acc := if c then w.xa1 else w.xa0
def Warp.setAcc (w : Warp) (c : Bool) (a : Acc) : Warp := if c then { w with xa1 := a } else { w with xa0 := a }

/-- What an accumulator instruction needs. -/
def accNeed (srcs : List Opd) : Need := { srcs := srcs, scc := false, ae := false, exact := true }

/-- Adds each active non-helper lane's terms; an image on its way into the accumulator is awaited (R135, R248). -/
def accumulate (s : State) (c : Bool) (srcs : List Opd) (terms : Lane → List FVal) : Out :=
  issue s (accNeed srcs) (fun i s =>
    let w := s.warp i.u
    if w.xaWait.contains c then .wait none
    else
      let sum := i.n.foldl (fun acc l => (terms (w.lane l)).foldl Acc.add acc) (w.acc c)
      .ok ((s.updWarp i.u (fun w => w.setAcc c sum)).adv i))

def execXaccf (c : Bool) (a : BitVec 6) (s : State) : Out := accumulate s c [wait2 a] (fun k => [accTerm (k.pairVal a)])

def execXacc (c : Bool) (a b : BitVec 6) (s : State) : Out :=
  accumulate s c [wait2 a, wait2 b] (fun k => [accTerm (k.pairVal a), accTerm (k.pairVal b)])

def execXfma (c : Bool) (a b : BitVec 6) (s : State) : Out :=
  accumulate s c [wait2 a, wait2 b] (fun k => [accProduct (k.pairVal a) (k.pairVal b)])

/-- XRND: every active lane receives the rounded accumulator; the flags are each lane's own (R137). -/
def execXrnd (d : BitVec 6) (c : Bool) (s : State) : Out :=
  let busy : Bool := match s.cur with | some u => (s.warp u).xaWait.contains c | none => false
  let acc : Acc := match s.cur with | some u => (s.warp u).acc c | none => .zero
  if busy then issue s { dsts := pairRegs d, scc := false, ae := false, exact := true } (fun _ _ => .wait none)
  else fpwise s { dsts := pairRegs d, scc := false, ae := false, exact := true } (fun k _ => put64 d k acc.round)

def execXclr (c : Bool) (s : State) : Out :=
  issue s (accNeed []) (fun i s =>
    if (s.warp i.u).xaWait.contains c then .wait none
    else .ok ((s.updWarp i.u (fun w => w.setAcc c .zero)).adv i))

end Sys2Proof.Machine
end

