-- ==== Sys2Proof/Machine/Checked.lean ====
section
/-! DEFINITION. The end of a may-fault instruction's checks: its lanes split into those that trap, stay and complete, and the
instruction takes effect for the last (R22, R23, R358). -/

namespace Sys2Proof.Machine

/-! ### Who may complete -/

/-- The accesses of lanes that pass, with their places. -/
def State.passing (s : State) (w : Warp) (c : Check) : List (Access × List Nat) :=
  (c.acc.filter (fun a => (s.accessTrap w c a).isNone)).map (fun a => (a, s.accessPas w c a))

/-- The bytes that a store access writes. -/
def Access.cells (a : Access) (pas : List Nat) : Map Byte :=
  (pas.zip (leBytes a.n a.data.toNat)).foldl (fun m p => Map.put m p.1 p.2) []

/-- Whether a store access goes to its task's buffer (R271): a plain store of a task, outside the window. -/
def State.buffers (s : State) (w : Warp) (what : Pending) (a : Access) (pas : List Nat) : Bool :=
  (what == .st || what == .stl) && (s.taskOf w a.lane).isSome && !(pas.any isSp)

/-- Whether such a store finds no entry (R272). -/
def State.bufferFull (s : State) (w : Warp) (a : Access) (pas : List Nat) : Bool :=
  match s.taskOf w a.lane with
  | some (_, t) => t.overflows (a.cells pas)
  | none => false

/-- Whether an access of a lane would overtake an earlier one of that lane to the same bytes: a block-scope atomic that waits for its fill,
or anything on its way to a window (R17) (DEDUCED, log entry 58). -/
def State.overtakes (s : State) (u lane : Nat) (pas : List Nat) : Bool :=
  s.reqs.any (fun r => meets r.2.pas pas && (match r.2 with
    | .atom a => a.warp == u && a.parts.any (fun p => p.lane == lane) && (a.scope == 0 || (pas.any isSp && r.2.openAtom))
    | .xaddm x => x.warp == u && x.lanes.contains lane && pas.any isSp && r.2.openAtom
    | .store _ => r.2.ofLane u lane && pas.any isSp && r.2.openStore
    | .load l => l.warp == u && l.lane == lane && pas.any isSp && r.2.openRead
    | _ => false))

/-- Whether the effect of the instruction need not wait: a store's lines can be taken by the L1 (R199), an engine-free line for a
block-scope atomic, a sys-scope release for SIGNAL (R417). -/
def State.effectFree (s : State) (u : Nat) (w : Warp) (c : Check) : Bool :=
  let ps := s.passing w c
  let l1 (ps : List (Access × List Nat)) : Bool := w.kind != .warp || s.linesFree w.core (ps.foldl (fun l p => l ++ p.2) [])
  !(ps.any (fun p => s.overtakes u p.1.lane p.2)) && match c.what with
  | .st | .stl => l1 (ps.filter (fun p => !s.buffers w c.what p.1 p.2))
  | .sto _ => l1 ps
  | .img 1 _ => l1 (ps.take 1)
  | .atom _ _ _ _ 0 => l1 ps && !(w.kind == .warp && ps.any (fun p => p.2.any (s.atomAhead u p.1.lane)))
  | .signal => s.released u 4
  | _ => true

/-- Whether a check can end (R358, R212). -/
def State.checkReady (s : State) (u : Nat) : Bool :=
  let w := s.warp u
  match w.check with
  | some c => c.fault.isNone && c.resolved w.ctx && s.effectFree u w c
  | none => false

/-! ### Effects -/

/-- Beat of a lane of the fragment, whose lanes with a false guard take their beats too (R154). -/
def beatOf (lanes : List Nat) (l : Nat) : Nat := (lanes.filter (· < l)).length / 8

/-- The sectors that the L1 does not serve for the loads of a beat. -/
def State.beatMiss (s : State) (u : Nat) (w : Warp) (lanes : List Nat) (b : Nat) (ps : List (Access × List Nat)) : List Nat :=
  s.missing w.core u ((ps.filter (fun p => beatOf lanes p.1.lane == b)).map (fun p => (p.1.lane, p.2)))

/-- Counts of sector requests (R393). -/
def State.countSectors (s : State) (u : Nat) (w : Warp) (lanes : List Nat) (ps : List (Access × List Nat)) : State :=
  let rs := sectorRequests (ps.map (fun p => (beatOf lanes p.1.lane, p.2)))
  let hit (r : Nat × Nat) : Bool := !(s.beatMiss u w lanes r.1 ps).contains r.2
  (s.count (s.gridOf w) 0x05 (rs.filter hit).length).count (s.gridOf w) 0x06 (rs.filter (fun r => !hit r)).length

/-- Marks the registers of loads that missed as long waits (R157). -/
def State.remark (s : State) (u k0 : Nat) : State :=
  s.reqs.foldl (fun s p => match p.2 with
    | .load l =>
      if l.warp == u && k0 ≤ p.1 && l.serve != .done then
        s.updWarp u (fun w => w.updLane l.lane (fun k => l.dst.foldl (fun k r => k.mark true r.toNat) k))
      else s
    | _ => s) s

/-- Loads of the lanes that passed. -/
def State.loadsGo (s : State) (u : Nat) (c : Check) (ps : List (Access × List Nat)) (dst : Access → List (BitVec 6)) (sgn : Bool)
    (order : Option (Bool × Nat)) (acc : Option Bool) : State :=
  let w := s.warp u
  let plain := ps.filter (fun p => !(Check.bypass w c p.1 p.2) && !(p.2.any isSp) && (s.taskOf w p.1.lane).isNone)
  let s : State := if order == none || order == some (true, 0) then s.countSectors u w c.frag plain else s
  let k0 := s.nextId
  let beats := (ps.map (fun p => beatOf c.frag p.1.lane)).eraseDups
  let s : State := beats.foldl (fun s b =>
    let k := s.nextId
    let miss := s.beatMiss u w c.frag b plain
    (ps.filter (fun p => beatOf c.frag p.1.lane == b)).foldl (fun s p =>
      s.startLoad k miss ⟨w.core, u, p.1.lane, dst p.1, p.1.n, sgn, p.2, .done, [], [], acc, none, 0, order.any (·.1), w.acqSeq, 0, 0⟩ order
        (Check.bypass w c p.1 p.2)) s) s
  s.remark u k0

/-- An acquire begins: later memory instructions of the warp wait for its requests (R224). -/
def State.beginAcquire (s : State) (u k0 : Nat) (invalidate : Bool) : State :=
  let ks := Map.keysWhere s.reqs (fun k r => k0 ≤ k && match r with
    | .load l => l.warp == u
    | .atom a => a.warp == u
    | _ => false)
  if ks.isEmpty then s.acquired u invalidate
  else s.updWarp u (fun w => { w with acq := some (ks, invalidate) })

/-- Plain and ordered stores; what a task buffers goes to its buffer, and the head's overflow goes out directly (R271, R272). -/
def State.storesGo (s : State) (u : Nat) (c : Check) (ps : List (Access × List Nat)) : State :=
  let w := s.warp u
  let toBuf := ps.filter (fun p => s.buffers w c.what p.1 p.2 && !s.bufferFull w p.1 p.2)
  let direct := ps.filter (fun p => !(s.buffers w c.what p.1 p.2 && !s.bufferFull w p.1 p.2))
  let s : State := toBuf.foldl (fun s p => match s.taskOf w p.1.lane with
    | some (n, _) => s.updTask w.core n (fun t => t.merge (p.1.cells p.2))
    | none => s) s
  s.startStores u (direct.map (fun p => (beatOf c.frag p.1.lane, p.1.lane, p.1.cells p.2)))

/-- The accumulator image's bytes, as cells. -/
def imageCells (pas : List Nat) (a : Acc) : Map Byte := (pas.zip a.image).foldl (fun m p => Map.put m p.1 p.2) []

/-- A part of an atomic from its access (R242). -/
def partOf (aop : Nat) (a : Access) (pa : Nat) : AtomLane :=
  let d (i : Nat) : Word := a.data.extractLsb' (32 * i) 32
  let x (i : Nat) : BitVec 64 := (d i).setWidth 64
  match aop with
  | 10 => ⟨a.lane, pa, x 1, x 0, 0⟩
  | 11 | 12 => ⟨a.lane, pa, x 0, x 1, 0⟩
  | 19 => ⟨a.lane, pa, pair (d 2) (d 3), pair (d 0) (d 1), 0⟩
  | 17 | 18 | 20 => ⟨a.lane, pa, pair (d 0) (d 1), 0, 0⟩
  | _ => ⟨a.lane, pa, x 0, 0, 0⟩

/-- The address engine's load to a FIFO register: one group, element i from lane i, 0 from lanes outside (R303) (DEDUCED, log entry 24). -/
def State.pushLoad (s : State) (u : Nat) (bank : Nat) (ps : List (Access × List Nat)) : State :=
  let w := s.warp u
  let lane (i : Nat) : Option (List Nat) := (ps.find? (fun p => p.1.lane == i)).map (·.2)
  let pas := (List.range 32).foldl (fun l i => l ++ (lane i).getD []) []
  let idx := (List.range 128).filter (fun k => (lane (k / 4)).isSome)
  let sp := pas.any isSp
  let got : Map Byte := if sp then (idx.zip pas).foldl (fun m p => Map.put m p.1 (s.byte p.2)) [] else []
  s.addReq (.load ⟨w.core, u, 0, [], 128, false, pas, if sp || pas.isEmpty then .done else .diePoint, got,
    [], none, some bank, 0, false, 0, 0, 0⟩)

/-- The effect of an instruction whose checks have ended, for the lanes that passed. -/
def State.effect (s : State) (u : Nat) (c : Check) (ps : List (Access × List Nat)) : State :=
  let w := s.warp u
  let k0 := s.nextId
  let one := ps.take 1
  match c.what with
  | .ld d z => s.loadsGo u c ps (fun _ => sizeRegs d z) (4 < z.toNat) none none
  | .ldo d z acq scope =>
    let s : State := s.loadsGo u c ps (fun _ => sizeRegs d z) (4 < z.toNat) (some (acq, scope)) none
    if acq && !ps.isEmpty then s.beginAcquire u k0 (0 < scope) else s
  | .ldl d pads =>
    let s : State := s.loadsGo u c ps (fun a => regsFor d a.n) false none none
    pads.foldl (fun s p => s.addReq (.load { Load.value w.core u p.1 (regsFor d p.2.1) p.2.2.toNat with src := 2 })) s
  | .st | .stl => s.storesGo u c ps
  | .sto _ => (s.noteRel u).storesGo u c ps
  | .atom d aop ret ar scope =>
    let ps := ps.filterMap (fun p => p.2.head?.map (fun k => (beatOf c.frag p.1.lane, partOf aop p.1 k)))
    let s : State := (if ar then s.noteRel u else s).startAtoms u aop scope ar (if ret then some d else none) ps
    if ar && !ps.isEmpty then s.beginAcquire u k0 (0 < scope) else s
  | .img op b =>
    match op with
    | 0 => one.foldl (fun s p => (s.loadsGo u c [p] (fun _ => []) false none (some b)).updWarp u (fun w =>
        { w with xaWait := w.xaWait ++ [b] })) s
    | 1 => one.foldl (fun s p => s.startStores u [(0, p.1.lane, imageCells p.2 (w.acc b))]) s
    | _ => one.foldl (fun s p =>
        let s : State := (s.flushTask u p.1.lane).noteWrote u p.1.lane (p.2.map (· / 256)).eraseDups
        (s.dropForAtom w.core p.2).addReq (.xaddm ⟨w.core, u, w.wix, c.lanes, w.block, s.gridOf w, w.ctx, p.2, (w.acc b).image, 0,
          (p.2.map (· / 256)).eraseDups, false, 0⟩)) s
  | .signal => (s.noteRel u).startAtoms u 18 4 false none (ps.filterMap (fun p => p.2.head?.map (fun k => (beatOf c.frag p.1.lane, partOf 18 p.1 k))))
  | .aeLd reg z =>
    match w.kind with
    | .ae banks _ _ _ =>
      match (if 56 ≤ reg.toNat && reg.toNat < 60 then banks.getD (reg.toNat - 56) none else none) with
      | some b => s.pushLoad u b ps
      | none => s.loadsGo u c ps (fun _ => sizeRegs reg z) (4 < z.toNat) none none
    | _ => s

/-! ### The end of the checks (R358) -/

/-- Registers that the instruction marked empty in a lane. -/
def Check.marked (c : Check) (l : Nat) : List (BitVec 6) :=
  match c.what with
  | .ld d z => sizeRegs d z
  | .ldo d z _ _ => sizeRegs d z
  | .aeLd d z => sizeRegs d z
  | .atom d aop true _ _ => oldRegs d aop
  | .ldl d pads => match c.acc.find? (fun a => a.lane == l) with
    | some a => regsFor d a.n
    | none => match pads.find? (fun p => p.1 == l) with
      | some p => regsFor d p.2.1
      | none => []
  | _ => []

/-- Watchpoint hit counts (R385). -/
def State.countHits (s : State) (core : Nat) (ns : List Nat) : State :=
  s.updCore core (fun c => { c with watches := ns.foldl (fun m n =>
    Map.upd m n (fun x => { x with ctl := if x.ctl &&& 0xFFFF == 0xFFFF then x.ctl else x.ctl + 1 })) c.watches })

/-- A slot charged useful becomes discarded: the instruction trapped after issue (R390). -/
def State.discardSlot (s : State) (w : Warp) : State :=
  if w.kind != .warp then s else
  let move (m : Map Nat) : Map Nat := Map.put (Map.put m 2 (Map.getD m 2 0 - 1)) 4 (Map.getD m 4 0 + 1)
  (s.updCore w.core (fun c => { c with slots := move c.slots })).updGrid (s.gridOf w) (fun g => { g with slots := move g.slots })

/-- The address engine's failed check: a translation fault waits for service, anything else ends the engine (R290, R301). -/
def State.aeCheckFails (s : State) (u : Nat) (t : Trap) : State :=
  if t.cause = 0x08 || (t.cause = 0x09 && causeRank t = 6) then
    s.updWarp u (fun w => { w with check := w.check.map (fun c => { c with fault := some t.cause }) })
  else (s.aeEnd u (0x100 + t.cause)).sweep

/-- The end of an agent's checks (R358). -/
def State.checkDone (s : State) (u : Nat) : State :=
  let w := s.warp u
  match w.check with
  | some c =>
    let h := w.lane ((c.lanes.find? (fun l => !(w.lane l).helper)).getD 0)
    let fails := c.acc.filterMap (fun a => (s.accessTrap w c a).map (fun t => (a, t)))
    let mine := fails.filter (fun f => !(w.lane f.1.lane).helper)
    match w.isAe, mine with
    | true, f :: _ => s.aeCheckFails u f.2
    | _, _ =>
      let failed := (fails.map (·.1.lane)).eraseDups
      let traps := mine.map (fun f => (⟨f.1.lane, causeRank f.2, false, f.2⟩ : LaneTrap))
      let ps := s.passing w c
      -- lanes of non-head tasks whose store finds no buffer entry park at the instruction (R272)
      let parks := s.waitingTasks w ((ps.filter (fun p => s.buffers w c.what p.1 p.2 && s.bufferFull w p.1 p.2)).map (·.1.lane))
      let ps := ps.filter (fun p => !parks.contains p.1.lane)
      let stay := fun l => failed.contains l || parks.contains l
      let act := c.lanes
      let i : Iss := ⟨u, h.pc, h.prio, c.len, c.frag, act, act.filter (fun l => !(w.lane l).helper), 0⟩
      let s : State := s.updWarp u (fun w => { w with check := none })
      let s : State := s.updLanes u act (fun l k =>
        let k : Lane := if stay l then (c.marked l).foldl (fun k r =>
          if k.helper then k.put r.toNat 0 else k.restore r.toNat (c.orphans.contains (l, r.toNat))) k else k
        let k : Lane := if parks.contains l then { k with place := .head } else k
        if k.helper || stay l then k else { k.advance c.len with noWatch := false })
      let s : State := s.countHits w.core
        ((fails.filter (fun f => f.2.cause == 0x14)).foldl (fun l f => l ++ s.watchHits w c.what f.1) [])
      let s : State := (s.effect u c ps).rest u
      let s : State := s.noteLate u h.pc h.prio c.len act
      if traps.isEmpty then
        let s : State := s.updWarp u (fun w => w.releaseHeld c.pops)
        s.compare w.core { i with frag := c.frag.filter (fun l => !stay l) }
      else (s.trapLanes i traps).discardSlot w
  | none => s

end Sys2Proof.Machine
end

