-- ==== Sys2Proof/Machine/Mem.lean ====
section
/-! DEFINITION. Class 3: loads, stores, ordered accesses, atomics, prefetches, invalidation and accumulator images (R113 to R116, R239 to
R248). A load, store or atomic issues here; its effect is that of the end of its checks (Checked.lean). -/

namespace Sys2Proof.Machine

/-- A may-fault memory instruction (R22): its own checks at issue, then translation. Lanes of a non-head task that address the window
park (R272). -/
def mayFault (s : State) (n : Need) (helpers : Bool) (own : Iss → State → Option Eff) (what : Warp → Pending)
    (mark : Warp → Nat → List (BitVec 6)) (long : Bool) (acc : State → Warp → Nat → Lane → Access) : Out :=
  issue s { n with mem := true } (fun i s =>
    match own i s with
    | some e => e
    | none =>
      let w := s.warp i.u
      let ls := if helpers then i.act else i.n
      let as := ls.map (fun l => acc s w l (w.lane l))
      let parks := s.windowParks w as
      if !parks.isEmpty then .blocked (s.parkHead i parks)
      else .ok (s.startCheck i (what w) ls as (mark w) long))

/-- EA (R87): the base pair and an offset in units of the size. -/
def effAddr (k : Lane) (a : BitVec 6) (off : Int) (n : Nat) : Dword := k.pairVal a + BitVec.ofInt 64 (off * n)

/-- The bank that an address engine's register pushes to (R303). -/
def Warp.pushBank (w : Warp) (d : BitVec 6) : Option Nat :=
  match w.kind with
  | .ae banks _ _ _ => if 56 ≤ d.toNat && d.toNat < 60 then banks.getD (d.toNat - 56) none else none
  | _ => none

/-- Whether the engine still pushes to a bank. -/
def Warp.pushes (w : Warp) (b : Nat) : Bool := match w.kind with | .ae banks _ _ _ => banks.contains (some b) | _ => false

/-- Whether a group of the engine waits for room in its FIFO, which stalls the engine (R303). -/
def State.pushBlocked (s : State) (u : Nat) : Bool :=
  s.reqs.any (fun p => match p.2 with
    | .load l => l.warp == u && l.serve == .done && l.push.any (fun b => (s.warp u).pushes b && 512 ≤ ((s.core l.core).bankOf b).fifo.length)
    | _ => false)

/-- Loads of an address engine outstanding: its pushes, and its loads to registers, each with destinations of its own (R300) (DEDUCED, log entry 24). -/
def State.aeLoads (s : State) (u : Nat) : Nat :=
  let ls := s.reqs.filterMap (fun p => match p.2 with | .load l => if l.warp == u then some l else none | _ => none)
  (ls.filter (·.push.isSome)).length + (((ls.filter (·.push.isNone)).filterMap (·.dst.head?)).eraseDups).length

/-- The acting agent. -/
def State.actor (s : State) : Warp := match s.cur with | some u => s.warp u | none => .absent

def execLd (d : BitVec 6) (a : RegE) (z : BitVec 3) (o : BitVec 9) (s : State) : Out :=
  let pushes := (s.actor.pushBank d).isSome
  mayFault s { srcs := [a.opd2], dsts := if pushes then [] else (sizeRegs d z).map (·.toNat) } true
    (fun i s => if pushes && z.toNat != 2 then some (trap1 0x01) else if (s.warp i.u).isAe && 16 ≤ s.aeLoads i.u then some (.wait none) else none)
    (fun w => if w.isAe then .aeLd d z else .ld d z)
    (fun _ _ => if pushes then [] else sizeRegs d z) false
    (fun _ _ l k => ⟨l, effAddr k a.r o.toInt (sizeBytes z), sizeBytes z, true, false, 0⟩)

/-- The data of a store, captured at issue (R115). -/
def storeData (k : Lane) (d : BitVec 6) (n : Nat) : BitVec 128 :=
  if n ≤ 4 then (k.val d.toNat).setWidth 128 else if n = 8 then (k.pairVal d).setWidth 128 else k.quadVal d

def execSt (d : BitVec 6) (a : RegE) (z : BitVec 3) (o : BitVec 9) (s : State) : Out :=
  mayFault s { srcs := [a.opd2, .regs ((sizeRegs d z).map (·.toNat)) false], ae := false } false
    (fun i s => if z = 4 && i.n.any (fun l => ((s.warp i.u).lane l).task.isSome) then some (trap1 0x01) else none)
    (fun _ => .st) (fun _ _ => []) false
    (fun _ _ l k => ⟨l, effAddr k a.r o.toInt (sizeBytes z), sizeBytes z, false, true, storeData k d (sizeBytes z)⟩)

/-- LDO (R240): order 0 is .nc, 1 is .acq. -/
def execLdo (d : BitVec 6) (a : RegE) (z : BitVec 3) (o : BitVec 2) (c : BitVec 3) (s : State) : Out :=
  mayFault s { srcs := [a.opd2], dsts := (sizeRegs d z).map (·.toNat), ae := false } true
    (fun _ _ => none) (fun _ => .ldo d z (o = 1) c.toNat) (fun _ _ => sizeRegs d z) true
    (fun _ _ l k => ⟨l, k.pairVal a.r, sizeBytes z, true, false, 0⟩)

/-- STO (R240): a release at its scope before the store. -/
def execSto (d : BitVec 6) (a : RegE) (z : BitVec 3) (c : BitVec 3) (s : State) : Out :=
  mayFault s { srcs := [a.opd2, .regs ((sizeRegs d z).map (·.toNat)) false], ae := false, atHead := true } false
    (fun i s => if s.released i.u c.toNat then none else some (.wait none))
    (fun _ => .sto c.toNat) (fun _ _ => []) false
    (fun _ _ l k => ⟨l, k.pairVal a.r, sizeBytes z, false, true, storeData k d (sizeBytes z)⟩)

/-- Registers of an atomic's data operand (R242). -/
def atomRegs (d : BitVec 6) (aop : Nat) : List Nat :=
  if aop = 19 then [d.toNat, d.toNat + 1, d.toNat + 2, d.toNat + 3]
  else if 17 ≤ aop || (10 ≤ aop && aop ≤ 12) then [d.toNat, d.toNat + 1] else [d.toNat]

/-- The aops that a DET block allows as ATOMN (R245). -/
def detAtomn (aop : Nat) : Bool := aop == 0 || (2 ≤ aop && aop ≤ 8) || aop == 18

/-- ATOM and ATOMN (R241 to R245): `r` is .ar, a release before the atomic and an acquire after it. -/
def atomic (s : State) (ret : Bool) (d : BitVec 6) (a : RegE) (c : BitVec 3) (r : Bool) (p : BitVec 5) : Out :=
  let aop := p.toNat
  let n := if atomWide aop then 8 else 4
  mayFault s { srcs := [a.opd2, .regs (atomRegs d aop) false], dsts := if ret then (oldRegs d aop).map (·.toNat) else [], ae := false, atHead := true } false
    (fun i s =>
      if (s.block (s.warp i.u).block).det && (s.warp i.u).kind == .warp && (ret || !detAtomn aop) then some (trap1 0x0C)
      else if r && !s.released i.u c.toNat then some (.wait none) else none)
    (fun _ => .atom d aop ret r c.toNat) (fun _ _ => if ret then oldRegs d aop else []) (0 < c.toNat)
    (fun _ _ l k => ⟨l, k.pairVal a.r, n, true, true,
      (atomRegs d aop).zipIdx.foldl (fun v x => v ||| ((k.val x.1).setWidth 128 <<< (32 * x.2))) 0⟩)

def execAtom (d : BitVec 6) (a : RegE) (_z c : BitVec 3) (r : Bool) (p : BitVec 5) (s : State) : Out := atomic s true d a c r p

def execAtomn (d : BitVec 6) (a : RegE) (_z c : BitVec 3) (r : Bool) (p : BitVec 5) (s : State) : Out := atomic s false d a c r p

/-! ### Prefetch and invalidation (R247) -/

/-- The place that a prefetch may bring into the L1: readable, local memory, cacheable; anything else is dropped. -/
def State.prefetchPa (s : State) (w : Warp) (va : Dword) : Option Nat :=
  if inWindow va || !canonical va then none
  else
    match s.xlat w.core w.ctx va with
    | .inr _ => none
    | .inl x =>
      let pa := s.localPa (x.paOf va.toNat)
      if x.r && !x.nc && !isRelay pa && !s.contained pa then some pa else none

/-- A prefetch's translations, as those of loads (R212). -/
def State.prefetchPages (s : State) (w : Warp) (ls : List Nat) (a : BitVec 6) : State :=
  ls.foldl (fun s l =>
    let va := (w.lane l).pairVal a
    if inWindow va || !canonical va then s else s.touchXlat w.core (s.gridOf w) w.ctx va.toNat true) s

/-- Requests every missing sector of a line, and counts its sector requests (R198, R393) (DEDUCED, log entry 86). -/
def State.prefetchLine (s : State) (core grid warp line : Nat) : State :=
  (List.range 4).foldl (fun s j =>
    let sector := line * 4 + j
    if (List.range 64).all (fun b => (s.core core).l1Has (sector * 64 + b)) then s.count grid 0x05 1
    else (s.fillFor s.nextId core grid warp sector).2.count grid 0x06 1) s

def execPrf (a : RegE) (s : State) : Out :=
  issue s { srcs := [a.opd2], ae := false, mem := true } (fun i s =>
    let w := s.warp i.u
    let s : State := s.prefetchPages w i.act a.r
    let lines := (i.act.filterMap (fun l => (s.prefetchPa w ((w.lane l).pairVal a.r)).map (fun k => (beatOf i.frag l, k / 256)))).eraseDups
    .ok ((if w.isScc then s else lines.foldl (fun s x => s.prefetchLine w.core (s.gridOf w) i.u x.2) s).adv i))

/-- PRFL brings each line into its home slice (R206, R247); it is dropped where PRF would be, for a page with nc set too (DESIGN CHOICE, log entry
110). -/
def execPrfl (a : RegE) (s : State) : Out :=
  issue s { srcs := [a.opd2], ae := false, mem := true } (fun i s =>
    let w := s.warp i.u
    let s : State := s.prefetchPages w i.act a.r
    let lines := (i.act.filterMap (fun l => (s.prefetchPa w ((w.lane l).pairVal a.r)).map (fun k => (beatOf i.frag l, k / 256)))).eraseDups
    .ok ((lines.foldl (fun s x => s.countServed (s.gridOf w) [x.2 * 256]) s).adv i))

def execInv (s : State) : Out :=
  issue s { ae := false, mem := true, perWarp := true } (fun i s =>
    .ok ((if (s.warp i.u).isScc then s else s.acquire i.u 1).adv i))

/-! ### Accumulator images (R248) -/

/-- XLD, XST and XADDM: one image address for the lanes of N; an image on its way into the accumulator is awaited. -/
def image (s : State) (op : Nat) (c : Bool) (a : RegE) (rd wr : Bool) : Out :=
  mayFault s { srcs := [a.opd2], scc := false, ae := false, exact := true, perWarp := true, atHead := op != 0 } false
    (fun i s =>
      let w := s.warp i.u
      let m := disagree (i.n.map (fun l => (l, (w.lane l).pairVal a.r)))
      if m != 0 then some (trap1 0x04 0 m) else if w.xaWait.contains c then some (.wait none) else none)
    (fun _ => .img op c) (fun _ _ => []) false
    (fun _ _ l k => ⟨l, k.pairVal a.r, 552, rd, wr, 0⟩)

def execXld (c : Bool) (a : RegE) (s : State) : Out := image s 0 c a true false

def execXst (c : Bool) (a : RegE) (s : State) : Out := image s 1 c a false true

def execXaddm (c : Bool) (a : RegE) (s : State) : Out := image s 2 c a true true

end Sys2Proof.Machine
end

