-- ==== Sys2Proof/Machine/Queues.lean ====
section
/-! DEFINITION. Records and descriptors that instructions read at issue; LAUNCH (R188); label records and their accesses (R213, R214, R255 to R258), FIFO banks and queue-mapped registers (R204, R205, R252 to R254), bank
modes (R195, R196, R251). -/

namespace Sys2Proof.Machine

/-! ### Records and descriptors (R17, R188, R198, R256, R285) -/

/-- A byte on a path that passes the L1: what the path's own stores on their way to the die point will leave there, or what a request takes at
the die point (R17, R218). -/
def State.pathByte (s : State) (core cls pa : Nat) : Byte :=
  match ((s.stores.filter (fun p => p.2.stage == .issued && p.2.core == core && p.2.cls == cls && Map.has p.2.cells pa)).getLast?).bind (fun p =>
      Map.get? p.2.cells pa) with
  | some b => b
  | none => s.dieByte core pa

/-- Whether the page of an address has nc set. -/
def State.pageNc (s : State) (core ctx : Nat) (va : Dword) : Bool := match s.xlat core ctx va with | .inl x => x.nc | .inr _ => false

/-- A sector that a record's read asks the L1 for: a hit, or a miss whose fill enters the L1 at once, but for a line whose bank has stopped (R196, R198, R231, R393). -/
def State.recordSector (s : State) (core grid : Nat) (ks : List Nat) (x : Nat) : State :=
  if (ks.filter (fun k => k / 64 == x)).all (s.core core).l1Has then
    match (s.core core).allocLine (x / 4) s.nextId with
    | some c => { (s.setCore core c).count grid 0x05 1 with nextId := s.nextId + 1 }
    | none => s.count grid 0x05 1
  else
    let pas := (List.range 64).map (fun j => x * 64 + j)
    let bs := pas.map (s.dieByte core)
    let served := pas.filter (fun k => (s.held (baseDieOfCore core) k).isNone)
    let s : State := (((s.markSeen core pas).staleFills core (some x)).count grid 0x06 1).countServed grid served
    match (s.core core).allocLine (x / 4) s.nextId with
    | some c =>
      let stops := (Map.get? c.l1 (x / 4)).any (fun l => (c.bankOf l.bank).stopping)
      { s.setCore core (if stops then c else c.l1Fill x bs) with nextId := s.nextId + 1 }
    | none => s

/-- A record's bytes as plain loads of a lane read them: in a task from its buffer or at home, with its signature (R271); on a scalar control
core, through a nc page or from a peer past the L1; else through it. The read is made in the step of the issue (DEDUCED, log entry 94). -/
def State.readRecord (s : State) (u lane : Nat) (va : Dword) (ks : List Nat) : List Byte × State :=
  let w := s.warp u
  let nc := s.pageNc w.core w.ctx va
  let s : State := if inWindow va then s else
    ([va, va + BitVec.ofNat 64 (ks.length - 1)]).foldl (fun s v => s.touchXlat w.core (s.gridOf w) w.ctx v.toNat true) s
  if ks.any isSp then (ks.map s.byte, s)
  else match s.taskOf w lane with
    | some (n, t) =>
      let bits := (ks.map sigBit).eraseDups
      (ks.map (fun k => (Map.get? t.cells k).getD (s.byte k)),
        s.updTask w.core n (fun t => { t with sig := bits.foldl (fun g b => g ||| (1#256 <<< b)) t.sig }))
    | none =>
      if w.kind != .warp || ks.any isRelay || nc then (ks.map (s.pathByte w.core (if w.isScc then 8 else 0)), s.markSeen w.core ks)
      else (ks.map (s.coreByte w.core), ((ks.map (· / 64)).eraseDups).foldl (fun s x => s.recordSector w.core (s.gridOf w) ks x)
        (s.shieldLoads s.nextId u lane w.core ks))

/-- The places that a record's read asks the die point or the home slices for: in a task, what its buffer does not hold; else the sectors that the
L1 does not serve. -/
def State.recordAsks (s : State) (w : Warp) (lane : Nat) (ks : List Nat) : List Nat :=
  let out := ks.filter (fun k => !isSp k)
  match s.taskOf w lane with
  | some (_, t) => out.filter (fun k => !Map.has t.cells k)
  | none =>
    if w.kind != .warp || out.any isRelay then out
    else ((out.filter (fun k => !(s.core w.core).l1Has k)).map (· / 64)).eraseDups.flatMap (fun x => (List.range 64).map (x * 64 + ·))

/-- Whether a record's read must wait: for an earlier access of the lane that takes effect where the read does not see it, and for what a load that
passes the die point now, or a task's at home, would wait for (R17, R218, R225, R271). -/
def State.recordWaits (s : State) (u lane : Nat) (ks : List Nat) : Bool :=
  let w := s.warp u
  let task := (s.taskOf w lane).isSome
  let asks := s.recordAsks w lane ks
  s.overtakes u lane ks || ks.any (s.atomAhead u lane) ||
    s.olderReq s.nextId (.load (.value w.core u lane [] 0)) asks (fun r => r.openAtom || (task && r.openStore)) ||
    (if task then s.ackDue w.core asks || s.meetsSeen w.core w.acqSeq asks else s.passedBefore w.core s.nextId asks Req.openAtom)

/-- What the read of a record or descriptor at issue finds: the trap of the fragment, a wait, or its bytes. -/
inductive Found where
  | trap (t : Trap)
  | wait
  | bytes (r : List Byte) (s : State)

/-- The record or descriptor at an address that an instruction reads at issue. -/
def State.descriptor (s : State) (u lane : Nat) (va : Dword) (n align : Nat) : Found :=
  if va.toNat % align ≠ 0 then .trap ⟨0x0A, va, 0⟩
  else match s.agentPlaces (s.warp u) va n true false with
    | .inr t => .trap t
    | .inl ks => if s.recordWaits u lane ks then .wait else let (r, s) := s.readRecord u lane va ks; .bytes r s

/-! ### Labels (R213, R214) -/

/-- Who owns what an agent allocates on a core: its block, or the scalar control core itself. -/
def Warp.owner (w : Warp) (u : Nat) : Nat := if w.isScc then u else w.block

/-- The live label that a handle names for an owner. -/
def Core.label (c : Core) (owner : Nat) (h : Word) : Option Label :=
  if h.toNat / 65536 ≠ 0 then none
  else match Map.get? c.labels (h.toNat % 64) with
    | some x => if x.gen == h.toNat / 64 && x.gen != 0 then x.val.bind (fun l => if l.live && l.owner == owner then some l else none) else none
    | none => none

/-- The lowest offset at which a label record breaks R213. -/
def badLabel (r : List Byte) : Option Nat :=
  let f := field r
  let ok := f 20 1 < 4
  let e := 2 ^ (f 20 1)
  firstBad [(0, !ok || f 0 8 % e == 0), (8, 1 ≤ f 8 4), (12, 1 ≤ f 12 4), (16, !ok || (f 16 4 % e == 0 && f 12 4 * e ≤ f 16 4)), (20, ok),
    (21, 1 ≤ f 21 1), (22, 1 ≤ f 22 2), (28, f 28 1 ≤ 1), (29, f 29 3 == 0)]

def labelOf (r : List Byte) (owner : Nat) : Label :=
  let f := field r
  ⟨owner, BitVec.ofNat 64 (f 0 8), f 8 4, f 12 4, f 16 4, 2 ^ (f 20 1), f 21 1, f 22 2, BitVec.ofNat 32 (f 24 4), f 28 1 % 2 == 1, true, 0⟩

/-- A free slot of a table of n slots, lowest first, with the generation its next use takes (R214, R292). -/
def freeSlot {α : Type} (m : Map (Slot α)) (n : Nat) : Option (Nat × Nat) :=
  ((List.range n).find? (fun k => match Map.get? m k with | some x => x.val.isNone | none => true)).map (fun k =>
    (k, nextGen (match Map.get? m k with | some x => x.gen | none => 0)))

/-- A trap value as the fragment's trap. -/
def Trap.all (t : Trap) : Eff := .trap t.cause (fun _ => t)

/-- An agreed pair operand and the descriptor at it, each with its trap (DESIGN CHOICE, log entry 25). -/
def withDescriptor (i : Iss) (s : State) (a : BitVec 6) (n align : Nat) (k : State → Dword → List Byte → Eff) : Eff :=
  let w := s.warp i.u
  agree i (fun l => (w.lane l).pairVal a) (fun va =>
    match s.descriptor i.u (i.n.headD 0) va n align with
    | .trap t => t.all
    | .wait => .wait none
    | .bytes r s => k s va r)

/-- LAUNCH's checks of one lane (R188), and its record (DEDUCED, log entry 38). -/
def State.launchCheck (s : State) (u : Nat) (w : Warp) (l : Nat) (va : Dword) : LaneTrap ⊕ List Byte × State :=
  if va.toNat % 64 ≠ 0 then .inl ⟨l, 1, false, ⟨0x0A, va, 0⟩⟩
  else match s.agentPlaces w va 64 true false with
    | .inr t => .inl ⟨l, causeRank t, false, t⟩
    | .inl ks =>
      let (r, t) := s.readRecord u l va ks
      match s.badRecord w.ctx r with
      | some off => .inl ⟨l, 9, true, ⟨0x01, va, BitVec.ofNat 32 (0x100 + off)⟩⟩
      | none => if (s.block w.block).det && !(gridRecOf r).det then .inl ⟨l, 10, true, ⟨0x0C, 0, 0⟩⟩ else .inr (r, t)

/-- LAUNCH (R188, R189, R237). -/
def execLaunch (d : BitVec 6) (a : RegE) (s : State) : Out :=
  issue s { srcs := [a.opd2], dsts := [d.toNat], lpb := 0, scc := false, ae := false, atHead := true, perWarp := true } (fun i s =>
    let w := s.warp i.u
    let va (l : Nat) : Dword := (w.lane l).pairVal a.r
    let bad := i.n.filterMap (fun l => match s.launchCheck i.u w l (va l) with | .inl t => some t | .inr _ => none)
    if !bad.isEmpty then .part (s.trapLanes i bad)
    else if !s.released i.u 3 || i.n.any (fun l => match s.agentPlaces w (va l) 64 true false with
        | .inl ks => s.recordWaits i.u l ks
        | .inr _ => false) then .wait none
    else
      let (rs, s) := i.n.foldl (fun (p : List (Nat × List Byte) × State) l => match p.2.launchCheck i.u w l (va l) with
        | .inl _ => p
        | .inr (r, t) => (p.1 ++ [(l, r)], t)) ([], s)
      .ok ((rs.foldl (fun s r =>
        let (h, s) := s.launch i.u (gridRecOf r.2)
        s.deliver i.u r.1 [d] h false) s).adv i))

def execLbdef (d : BitVec 6) (a : RegE) (s : State) : Out :=
  issue s { srcs := [a.opd2], dsts := [d.toNat], lpb := 0, ae := false, atHead := true, mem := true, perWarp := true } (fun i s =>
    withDescriptor i s a.r 32 32 (fun s va r =>
      match badLabel r with
      | some off => trap1 0x01 va (BitVec.ofNat 32 (0x100 + off))
      | none =>
        let w := s.warp i.u
        match freeSlot (s.core w.core).labels 64 with
        | none => .ok ((s.deliverAll i [d] 0 false).adv i)
        | some (k, g) =>
          let s : State := s.updCore w.core (fun c => { c with labels := Map.put c.labels k ⟨g, some (labelOf r (w.owner i.u))⟩ })
          .ok ((s.deliverAll i [d] (k + 64 * g) false).adv i)))

/-- Element (row, col) of a label: in bounds, and its address, computed exactly (R213). An address from 2^64 on is no canonical one (R15): its low
56 bits under the top byte 0x80 stand for it (DESIGN CHOICE, log entry 108). -/
def Label.inside (l : Label) (row col : Int) : Bool := 0 ≤ row && row < l.d0 && 0 ≤ col && col < l.d1
def Label.at (l : Label) (row col : Int) : Dword :=
  let a : Int := l.base.toNat + row * l.pitch + col * l.esize
  if a < 2 ^ 64 then BitVec.ofInt 64 a else 0x8000000000000000 ||| (BitVec.ofInt 64 a &&& 0x00FFFFFFFFFFFFFF)

/-- What LDL and STL find in a lane: its handle, its label, its coordinates. -/
structure LabelUse where
  lane : Nat
  helper : Bool
  h : Word
  label : Option Label
  row : Int
  col : Int

def State.labelUse (s : State) (w : Warp) (u l : Nat) (a b : BitVec 6) : LabelUse :=
  let k := w.lane l
  let h := k.val a.toNat
  ⟨l, k.helper, h, (s.core w.core).label (w.owner u) h, (k.val b.toNat).toInt, (k.val (b.toNat + 1)).toInt⟩

def LabelUse.inside (x : LabelUse) : Bool := match x.label with | some l => l.inside x.row x.col | none => false
def LabelUse.size (x : LabelUse) : Nat := match x.label with | some l => l.esize | none => 4
def LabelUse.out (x : LabelUse) : Bool := match x.label with | some l => l.trapOut && !x.inside | none => false

/-- The traps at issue of LDL and STL, for the whole fragment (R257): where lanes fail different checks, a dead handle comes first, then the register
of an 8-byte element, then the bounds (DESIGN CHOICE, log entry 111). -/
def labelTrap (xs : List LabelUse) (d : BitVec 6) (upper : Bool) : Option Eff :=
  let xs := xs.filter (fun x => !x.helper)
  match xs.find? (fun x => x.label.isNone) with
  | some x => some (trap1 0x09 0 x.h)
  | none =>
    if xs.any (fun x => x.size == 8) && (d.toNat % 2 == 1 || !upper) then some (trap1 0x01)
    else match xs.find? (·.out) with
      | some x => some (trap1 0x1A ((BitVec.ofInt 32 x.row).setWidth 64) (BitVec.ofInt 32 x.col))
      | none => none

/-- LDL (R257): in bounds a plain load, out of bounds the pad, or in a helper lane whose check fails 0 (R358). -/
def execLdl (d : BitVec 6) (a b : RegE) (s : State) : Out :=
  issue s { srcs := [a.opd, b.opd2], dsts := [d.toNat], mem := true } (fun i s =>
    let w := s.warp i.u
    let xs := i.act.map (fun l => s.labelUse w i.u l a.r b.r)
    let up := d.toNat + 1
    let wideLanes := (xs.filter (fun x => x.size == 8)).map (·.lane)
    match labelTrap xs d (nameable (s.nregs w) up && (w.mapOf up).isNone) with
    | some e => e
    | none =>
      if wideLanes.any (fun l => (w.lane l).isEmpty up) || (w.isAe && 16 ≤ s.aeLoads i.u) then .wait none
      else
        let ins := xs.filter (·.inside)
        let acc := ins.map (fun x => (⟨x.lane, (x.label.map (fun l => l.at x.row x.col)).getD 0, x.size, true, false, 0⟩ : Access))
        let pads := (xs.filter (fun x => !x.inside)).map (fun x => (x.lane, x.size, if x.helper && x.out then 0 else
          (x.label.map (fun l => (BitVec.ofNat 64 (l.pad.toNat % 2 ^ (8 * l.esize))))).getD 0))
        let parks := s.windowParks w acc
        if !parks.isEmpty then .blocked (s.parkHead i parks)
        else .ok (s.startCheck i (.ldl d pads) i.act acc (fun l =>
          regsFor d (((xs.find? (fun x => x.lane == l)).map (·.size)).getD 4)) false))

/-- STL (R257): in bounds a plain store; nothing is written out of bounds. The upper register of an 8-byte element is a source after the
others (R86); a mapped register's handle is that of the group that the read will take (R205). -/
def execStl (d : BitVec 6) (a b : RegE) (s : State) : Out :=
  let w0 := s.actor
  let n : Need := { srcs := [a.opd, b.opd2, wait1 d], mem := true, ae := false }
  let handle (l : Nat) (k : Lane) : Option Word := match w0.mapOf a.r.toNat with
    | some q => (s.groupFor w0 (n.mappedSrcs w0) q).map (fun g => g.getD (if w0.isScc then 0 else l) 0)
    | none => if (k.cell a.r.toNat).fe == .full then some (k.val a.r.toNat) else none
  let wide (l : Nat) (k : Lane) : Bool := (handle l k).any (fun h =>
    ((s.core w0.core).label (w0.owner (s.cur.getD 0)) h).any (fun x => x.esize == 8))
  issue s { n with also := (fun l k => if wide l k then [d.toNat + 1] else []) } (fun i s =>
    let w := s.warp i.u
    let xs := i.n.map (fun l => s.labelUse w i.u l a.r b.r)
    match labelTrap xs d (nameable (s.nregs w) (d.toNat + 1)) with
    | some e => e
    | none =>
        let acc := (xs.filter (·.inside)).map (fun x => (⟨x.lane, (x.label.map (fun l => l.at x.row x.col)).getD 0, x.size, false, true,
          storeData (w.lane x.lane) d x.size⟩ : Access))
        let parks := s.windowParks w acc
        if !parks.isEmpty then .blocked (s.parkHead i parks)
        else .ok (s.startCheck i .stl i.n acc (fun _ => []) false))

/-- Frees a label's handle; its slot returns once no engine command holds it (R258). -/
def Core.freeLabel (c : Core) (h : Word) : Core :=
  { c with labels := Map.upd c.labels (h.toNat % 64) (fun x => match x.val with
      | some l => if l.holds == 0 then x.free else { x with val := some { l with live := false } }
      | none => x) }

/-- LBFREE (R258): each lane's handle in ascending order; one that is not live, or freed by a lower lane, traps the whole fragment. -/
def execLbfree (a : RegE) (s : State) : Out :=
  issue s { srcs := [a.opd], lpb := 0, ae := false, atHead := true, perWarp := true } (fun i s =>
    let w := s.warp i.u
    let hs := i.n.map (fun l => (w.lane l).val a.r.toNat)
    let bad := hs.zipIdx.find? (fun p => ((s.core w.core).label (w.owner i.u) p.1).isNone || (hs.take p.2).contains p.1)
    match bad with
    | some p => trap1 0x09 0 p.1
    | none => .ok ((s.updCore w.core (fun c => hs.foldl (fun c h => c.freeLabel h) c)).adv i))

/-! ### FIFOs (R204, R252 to R254) -/

/-- Whether an agent holds the rights of a FIFO bank of its core (R204, R252). -/
def State.fifoRights (s : State) (w : Warp) (k : Nat) : Bool :=
  let x := (s.core w.core).bankOf k
  x.mode == 2 && (w.isScc || (!x.ownerScc && x.owner == some w.block && !(s.block w.block).migrated))

/-- A queue command checks its bank before any effect: not a FIFO, or no rights, traps PROTECTION (R252). -/
def onFifo (i : Iss) (s : State) (bank : BitVec 6) (k : Bank → Eff) : Eff :=
  let w := s.warp i.u
  if s.fifoRights w bank.toNat then k ((s.core w.core).bankOf bank.toNat) else trap1 0x09 0 (bank.setWidth 32)

/-- What a queue command needs. -/
def queueNeed (srcs : List Opd) : Need := { srcs := srcs, lpb := 0, ae := false, atHead := true, perWarp := true }

/-- QMAP (R253): acts for the whole warp; the register's values are kept for QUNMAP (DEDUCED, log entry 41). An orphan of a lane of N traps
ORPHANED, one of another lane does not keep it from mapping (DESIGN CHOICE, log entry 104). -/
def execQmap (d bank : BitVec 6) (s : State) : Out :=
  let mapped := (s.actor.mapOf d.toNat).isSome
  issue s (queueNeed (if mapped then [] else [wait1 d])) (fun i s =>
    let w := s.warp i.u
    onFifo i s bank (fun _ =>
      if mapped || 4 ≤ w.qmaps.length then trap1 0x01 0 (d.setWidth 32)
      else if w.lanes.any (fun p => p.2.place != .ended && p.2.isEmpty d.toNat) then .wait none
      else .ok ((s.updWarp i.u (fun w => { w with
        qmaps := w.qmaps ++ [⟨d.toNat, bank.toNat, w.lanes.map (fun p => (p.1, p.2.cell d.toNat)), none⟩] })).adv i)))

/-- QUNMAP (R253): the kept values return, full; a held group is discarded. -/
def execQunmap (d : BitVec 6) (s : State) : Out :=
  issue s (queueNeed []) (fun i s =>
    let w := s.warp i.u
    if !nameable (s.nregs w) d.toNat then trap1 0x01
    else match w.mapOf d.toNat with
      | none => .ok (s.adv i)
      | some q => .ok ((s.updWarp i.u (fun w => { w with
          qmaps := w.qmaps.filter (fun m => m.reg != d.toNat)
          lanes := Map.mapV w.lanes (fun l k => k.put d.toNat (Map.getD q.kept l .zero).v) })).adv i))

/-- QTST (R254): a group, held ones among them, or an open producer; a helper lane's predicate stays (R238) (DEDUCED, log entry 91). -/
def execQtst (p : BitVec 3) (bank : BitVec 6) (s : State) : Out :=
  issue s (queueNeed []) (fun i s =>
    onFifo i s bank (fun x =>
      let held := (s.warp i.u).qmaps.any (fun q => q.bank == bank.toNat && q.held.isSome)
      let t := !x.fifo.isEmpty || held || 0 < x.producers
      .ok ((s.updLanes i.u i.n (fun _ k => k.putP p t)).adv i)))

def State.setBankOf (s : State) (w : Warp) (k : Nat) (x : Bank) : State := s.updCore w.core (fun c => c.setBank k x)

/-- QPUSH (R254): one group; positions outside N are 0. -/
def execQpush (a : RegE) (bank : BitVec 6) (s : State) : Out :=
  issue s (queueNeed [a.opd]) (fun i s =>
    let w := s.warp i.u
    onFifo i s bank (fun x =>
      if x.producers = 0 then trap1 0x05
      else if 512 ≤ x.fifo.length then .wait none
      else
        let g := (List.range 32).map (fun l => if i.n.contains l then (w.lane l).val a.r.toNat else 0)
        .ok ((s.setBankOf w bank.toNat { x with fifo := x.fifo ++ [g] }).adv i)))

def execQclose (bank : BitVec 6) (s : State) : Out :=
  issue s (queueNeed []) (fun i s =>
    onFifo i s bank (fun x =>
      if x.producers = 0 then trap1 0x05
      else .ok ((s.setBankOf (s.warp i.u) bank.toNat { x with producers := x.producers - 1 }).adv i)))

def execQopen (bank : BitVec 6) (s : State) : Out :=
  issue s (queueNeed []) (fun i s =>
    onFifo i s bank (fun x =>
      if 255 ≤ x.producers then trap1 0x01 0 (bank.setWidth 32)
      else .ok ((s.setBankOf (s.warp i.u) bank.toNat { x with producers := x.producers + 1 }).adv i)))

/-! ### Bank modes (R195, R196, R251) -/

/-- Whether the change can succeed (R196); a FIFO must be empty, unmapped and without producers, a scratchpad bank unallocated. -/
def State.bankFree (s : State) (core k mode : Nat) : Bool :=
  let c := s.core core
  let x := c.bankOf k
  if x.mode = mode then true
  else if x.mode = 0 then (List.range 37).any (fun j => j != k && (c.bankOf j).mode == 0 && !(c.bankOf j).stopping)
  else if x.mode = 1 then x.alloc.isNone
  else x.fifo.isEmpty && x.producers == 0 &&
    !(s.warps.any (fun p => p.2.core == core && p.2.live && p.2.qmaps.any (fun q => q.bank == k)))

/-- BANKCFG (R251): starts the change; the fragment stays at the instruction until the change completes or fails. -/
def execBankcfg (p : BitVec 3) (a b : Src) (s : State) : Out :=
  issue s { srcs := [a.opd, b.opd], lpb := 0, ae := false, perWarp := true } (fun i s =>
    let w := s.warp i.u
    agree i (fun l => (s.get w l (w.lane l) a, s.get w l (w.lane l) b)) (fun v =>
      if 36 < v.1 then trap1 0x01 0 v.1
      else if 2 < v.2 then trap1 0x01 0 v.2
      else if (s.core w.core).cfg.isSome then trap1 0x1B
      else
        let k := v.1.toNat
        let m := v.2.toNat
        let stops := ((s.core w.core).bankOf k).mode == 0 && m != 0 && s.bankFree w.core k m
        let s : State := s.updCore w.core (fun c =>
          { (if stops then c.setBank k { c.bankOf k with stopping := true } else c) with cfg := some ⟨k, m, i.u, i.act, i.len, p⟩ })
        .ok ((s.updWarp i.u (fun w => { w with hold := some .bankcfg })).stall i.u (some .idle))))

end Sys2Proof.Machine
end

