-- ==== Sys2Proof/Machine/Copy.lean ====
section
/-! DEFINITION. The copy streamer, the gather engine, transaction barriers, the pigeonhole and the address engine: their instructions, and
what each of their commands does as it runs (15_engines_and_copies.md). -/

namespace Sys2Proof.Machine

/-! ### What an engine's instruction needs (R281 to R283, R295) -/

/-- What a class 6 instruction needs; a command to an engine waits for an acquire of the warp, what touches no memory does not (R224). -/
def engineNeed (srcs : List Opd) (dsts : List Nat := []) (command : Bool := true) : Need :=
  { srcs := srcs, dsts := dsts, lpb := 0, ae := false, atHead := true, mem := command, perWarp := true }

/-- The tag of a lane's command (R286, R322). -/
def Warp.tag (w : Warp) (l : Nat) : Word := if w.isScc then 0xFFFF else BitVec.ofNat 32 (w.wix * 32 + l)

/-- Issue rights of the copy streamer and the gather engine (R283); warps from bins or walks have indices above every producer's. -/
def State.copyRights (s : State) (w : Warp) : Bool := w.isScc || (s.block w.block).producer == some w.wix

/-! ### Transaction barriers (R292 to R295) -/

/-- The core and slot that a handle names, with its barrier, where the agent may use it: its block's, or, for a scalar control core, its own and
those of every block of its cluster. -/
def State.tbarOf (s : State) (u : Nat) (w : Warp) (h : Word) : Option (Nat × Nat × TBar) :=
  let core := if w.isScc then (s.tbarCore (clusterOf w.core) h).getD w.core else w.core
  if h.toNat / 2 ^ 18 ≠ 0 then none
  else (s.tbarOn core h).bind (fun b =>
    if b.owner == w.owner u || (w.isScc && Map.has s.blocks b.owner) then some (core, h.toNat % 64, b) else none)

/-- The barrier that a descriptor's handle names, as a command keeps it. -/
def State.barRef (s : State) (u : Nat) (h : Word) : Option BarRef :=
  (s.tbarOf u (s.warp u) h).map (fun x => ⟨x.2.2.owner, x.2.1, h.toNat / 256⟩)

/-- The handle of a slot. -/
def tbHandle (pos slot gen : Nat) : Word := BitVec.ofNat 32 (256 * gen + 64 * pos + slot)

def State.setTBar (s : State) (core k : Nat) (b : TBar) : State :=
  s.updCore core (fun c => { c with tbars := Map.upd c.tbars k (fun x => { x with val := some b }) })

/-- Whether an agent can wait on a barrier of a core (DEDUCED, log entry 33). -/
def Warp.near (w : Warp) (core : Nat) : Bool := w.core == core || (w.isScc && clusterOf w.core == clusterOf core)

/-- Changes references to a barrier; the slot of one that has none left returns to the pool (R294). -/
def refsIn (m : Map (Slot TBar)) (k : Nat) (f : Nat → Nat) : Map (Slot TBar) :=
  Map.upd m k (fun x => match x.val with
    | some b => if f b.refs = 0 then x.free else { x with val := some { b with refs := f b.refs } }
    | none => x)

/-- The phases that the counts complete, one after another; a completed phase has no waiting fragment left (R293, R294). -/
def TBar.settle : Nat → TBar → TBar
  | 0, b => b
  | n + 1, b =>
    if b.init && b.needA ≤ b.a && b.needY ≤ b.y then
      TBar.settle n { b with parity := !b.parity, a := b.a - b.needA, y := b.y - b.needY, refs := b.refs - b.waits, waits := 0 }
    else b

/-- Counts arrivals and bytes at a barrier of a pool; the pool after it, and the handle whose waiting lanes go on (R293). -/
def countIn (m : Map (Slot TBar)) (k arrivals bytes : Nat) : Map (Slot TBar) × Option Word :=
  match Map.get? m k with
  | none => (m, none)
  | some x => match x.val with
    | none => (m, none)
    | some b =>
      let b : TBar := { b with a := b.a + arrivals, y := b.y + bytes }
      let b' := TBar.settle (b.a + b.y + 1) b
      if b' = b then (Map.put m k { x with val := some b }, none)
      else (refsIn (Map.put m k { x with val := some b' }) k id, some (tbHandle b.pos k x.gen))

/-- The lanes that wait on a handle are back in their frontier. -/
def Warp.wake (w : Warp) (h : Word) : Warp :=
  { w with lanes := Map.mapV w.lanes (fun _ l => match l.place with | .tb g _ => if g == h then { l with place := .frontier } else l | _ => l) }

/-- The agents near a core, a saved scalar control core of its cluster among them, whose lanes wait on a handle go on. -/
def State.wakeNear (s : State) (core : Nat) : Option Word → State
  | none => s
  | some h =>
    { s with
      warps := Map.mapV s.warps (fun _ w => if w.near core then w.wake h else w)
      sccSaved := Map.mapV s.sccSaved (fun cl p => if cl == clusterOf core then (p.1, p.2.wake h) else p) }

/-- Counts arrivals and bytes at a barrier of a core. -/
def State.tbCount (s : State) (core k arrivals bytes : Nat) : State :=
  let r := countIn (s.core core).tbars k arrivals bytes
  (s.updCore core (fun c => { c with tbars := r.1 })).wakeNear core r.2

/-- Changes references to a barrier of a core. -/
def State.tbRefs (s : State) (core k : Nat) (f : Nat → Nat) : State := s.updCore core (fun c => { c with tbars := refsIn c.tbars k f })

/-- The credit of a command that ends, where it credits bytes, and the end of its reference, at the barrier wherever it stands: on a core, or in its
block's image (R294, R295, R371). -/
def State.creditBar (s : State) (r : BarRef) (bytes : Option Nat) : State :=
  match Map.find? s.cores (fun _ c => r.isIn c.tbars) with
  | some (core, _) =>
    (match bytes with | some n => s.tbCount core r.slot 0 n | none => s).tbRefs core r.slot (· - 1)
  | none => match Map.get? s.saved r.owner with
    | some m =>
      if !r.isIn m.tbars then s
      else
        let x := match bytes with | some n => countIn m.tbars r.slot 0 n | none => (m.tbars, none)
        let warps := match x.2 with | some h => Map.mapV m.warps (fun _ w => w.wake h) | none => m.warps
        ({ s with saved := Map.put s.saved r.owner { m with tbars := refsIn x.1 r.slot (· - 1), warps := warps } } : State).wakeNear m.block.core x.2
    | none => s

/-- A barrier instruction on one handle that the lanes of N agree on (R292, R295). -/
def onTBar (s : State) (a : RegE) (k : Iss → State → Nat → Nat → TBar → Eff) : Out :=
  issue s (engineNeed [a.opd] [] false) (fun i s =>
    let w := s.warp i.u
    agree i (fun l => (w.lane l).val a.r.toNat) (fun h =>
      match s.tbarOf i.u w h with
      | none => trap1 0x0E 0 h
      | some (core, slot, b) => k i s core slot b))

def execTballoc (d : BitVec 6) (q : BitVec 3) (s : State) : Out :=
  issue s (engineNeed [] [d.toNat] false) (fun i s =>
    let w := s.warp i.u
    let give (s : State) (v : Word) (t : Bool) : State := (s.updLanes i.u i.act (fun _ k => (k.put d.toNat v).putP q t)).adv i
    match freeSlot (s.core w.core).tbars 64 with
    | none => .ok (give s 0 false)
    | some (k, g) =>
      .ok (give (s.updCore w.core (fun c => { c with
        tbars := Map.put c.tbars k ⟨g, some ⟨w.owner i.u, positionOf w.core, false, 0, 0, 0, 0, 1, 0, false⟩⟩ })) (tbHandle (positionOf w.core) k g) true))

def execTbinit (d : BitVec 6) (a b : RegE) (s : State) : Out :=
  issue s (engineNeed [a.opd, b.opd, wait1 d] [] false) (fun i s =>
    let w := s.warp i.u
    agree i (fun l => ((w.lane l).val a.r.toNat, (w.lane l).val b.r.toNat, (w.lane l).val d.toNat)) (fun v =>
      match s.tbarOf i.u w v.1 with
      | none => trap1 0x0E 0 v.1
      | some (core, k, t) =>
        if 0 < t.waits || 1 < t.refs then trap1 0x0D
        else if 65535 < v.2.1.toNat || (v.2.1 == 0 && v.2.2 == 0) then trap1 0x01 0 v.2.1
        else .ok ((s.setTBar core k { t with needA := v.2.1.toNat, needY := v.2.2.toNat, a := 0, y := 0, init := true }).adv i)))

def execTbarr (a : RegE) (s : State) : Out := onTBar s a (fun i s core k _ => .ok ((s.tbCount core k 1 0).adv i))

def execTbwait (a : RegE) (q : Bool) (s : State) : Out :=
  onTBar s a (fun i s core k b =>
    let s : State := s.adv i
    if b.parity = q then
      let g := ((Map.get? (s.core core).tbars k).map (·.gen)).getD 0
      .ok ((s.setTBar core k { b with refs := b.refs + 1, waits := b.waits + 1 }).updLanes i.u i.n (fun _ l =>
        { l with place := .tb (tbHandle b.pos k g) q }))
    else .ok s)

def execTbref (a : RegE) (s : State) : Out := onTBar s a (fun i s core k _ => .ok ((s.tbRefs core k (· + 1)).adv i))

def execTbfree (a : RegE) (s : State) : Out := onTBar s a (fun i s core k _ => .ok ((s.tbRefs core k (· - 1)).adv i))

/-! ### Checks of a copy at issue (R285) -/

/-- A range of n bytes: canonical at both ends, or within the window. -/
def State.rangeTrap (s : State) (w : Warp) (va : Dword) (n : Nat) : Option Trap :=
  if inWindow va then match s.window w.ctx w.core (s.view w) va n with | .inr t => some t | .inl _ => none
  else if !canonical va || (0 < n && !canonical (va + BitVec.ofNat 64 (n - 1))) then some ⟨0x09, va, 0⟩ else none

/-- Steps 2 and 3: source and destination ranges, then their overlap (DEDUCED, log entry 29). -/
def State.copyTrap (s : State) (w : Warp) (src dst : Dword) (m n : Nat) : Option Trap :=
  match s.rangeTrap w src m, s.rangeTrap w dst n with
  | some t, _ => some t
  | none, some t => some t
  | none, none => if 0 < n && src.toNat < dst.toNat && dst.toNat < src.toNat + m then some ⟨0x01, 0, 1⟩ else none

/-- Step 4: the barrier handle of a descriptor. -/
def State.barrierTrap (s : State) (u : Nat) (w : Warp) (h : Word) : Option Trap :=
  if h = 0xFFFFFFFF then none else match s.tbarOf u w h with | some _ => none | none => some ⟨0x0E, 0, h⟩

/-- Whether a command stands in the queue of a core's engine; those of a saved block or scalar control core are in the context image (R284, R291). -/
def State.queued (s : State) (core cls : Nat) (c : Copy) : Bool :=
  c.core == core && c.cls == cls && !(Map.has s.saved c.block) && (s.awayWarp c.warp).isNone

/-- Room in the queue of 64 commands (R284) (DEDUCED, log entry 32). -/
def State.copyRoom (s : State) (core cls n : Nat) : Bool := (s.copies.filter (fun c => s.queued core cls c.2)).length + n ≤ 64

/-- A command enters its engine's queue: its token, its barrier's reference (R281, R294). -/
def State.addCopy (s : State) (c : Copy) : State :=
  let s : State := { s with copies := Map.put s.copies s.nextId c, nextId := s.nextId + 1 }
  let s : State := s.updWarp c.warp (fun w => w.tokAdd c.token 1)
  match c.bar with
  | some r => (match Map.find? s.cores (fun _ x => r.isIn x.tbars) with | some (core, _) => s.tbRefs core r.slot (· + 1) | none => s)
  | none => s

/-- The blocks that window addresses name for an agent, by their offsets (R202, R296). -/
def State.targets (s : State) (w : Warp) : List (Nat × Nat) :=
  ([0, 1, 15].flatMap (fun x => [0, 1, 15].map (fun y => 16 * x + y))).filterMap (fun z =>
    (s.windowBlock w.ctx w.core (s.view w) z).map (fun b => (z, b)))

/-- A command as it enters. -/
def State.newCopy (s : State) (i : Iss) (cls : Nat) (dst : Dword) (bytes : Nat) (shape : CopyShape) (bar : Option BarRef)
    (token : BitVec 3) (rec : Bool) (tag : Word) : Copy :=
  let w := s.warp i.u
  ⟨w.core, i.u, w.block, s.gridOf w, w.ctx, cls, dst, bytes, shape, bar, token.toNat, rec, tag, 0, none, none, [], s.targets w⟩

/-- Commands that no check stops enter the queue together, or wait for room (R284). -/
def enterCopies (i : Iss) (s : State) (cls : Nat) (cs : List Copy) : Eff :=
  if s.copyRoom (s.warp i.u).core cls cs.length then .ok ((cs.foldl State.addCopy s).adv i) else .wait none

/-- The trap of the lanes' commands: the cause of the first that fails; each lane's address and detail are its own check's, 0 where it passes
(R286, R359) (DESIGN CHOICE, log entry 88). -/
def laneTraps (traps : List (Nat × Trap)) : Option Eff :=
  traps.head?.map (fun p => .trap p.2.cause (fun l => match traps.find? (fun q => q.1 == l) with | some q => q.2 | none => ⟨p.2.cause, 0, 0⟩))

/-- Lanes with a trap each. -/
def trapsOf (ls : List Nat) (f : Nat → Option Trap) : List (Nat × Trap) := ls.filterMap (fun l => (f l).map (fun t => (l, t)))

/-- One command for the whole fragment: its first trap, or the command (R285). -/
def startCopy (i : Iss) (s : State) (cls : Nat) (traps : List (Option Trap)) (c : Copy) : Eff :=
  match traps.findSome? id with
  | some t => t.all
  | none => enterCopies i s cls [c]

def execCpy (d a b : BitVec 6) (k : BitVec 3) (rec : Bool) (s : State) : Out :=
  issue s (engineNeed [wait2 a, wait2 b, wait1 d]) (fun i s =>
    let w := s.warp i.u
    let len (l : Nat) : Nat := ((w.lane l).val d.toNat).toNat
    let dst (l : Nat) : Dword := (w.lane l).pairVal a
    let src (l : Nat) : Dword := (w.lane l).pairVal b
    if !s.copyRights w then trap1 0x07
    else match laneTraps (trapsOf i.n (fun l => s.copyTrap w (src l) (dst l) (len l) (len l))) with
      | some e => e
      | none => enterCopies i s 1 (i.n.map (fun l => s.newCopy i 1 (dst l) (len l) (.linear (src l)) none k rec (w.tag l))))

/-- The barrier that a descriptor's fields credit. -/
def State.creditOf (s : State) (u h flags : Nat) : Option BarRef := if flags % 2 = 0 then none else s.barRef u (BitVec.ofNat 32 h)

def execCpyd (a : BitVec 6) (k : BitVec 3) (rec : Bool) (s : State) : Out :=
  issue s (engineNeed [wait2 a]) (fun i s =>
    let w := s.warp i.u
    if !s.copyRights w then trap1 0x07
    else withDescriptor i s a 32 32 (fun s va r =>
      let f := field r
      let src := BitVec.ofNat 64 (f 8 8)
      let dst := BitVec.ofNat 64 (f 0 8)
      match firstBad [(20, f 24 4 % 2 == 0 || f 20 4 != 0xFFFFFFFF), (24, f 24 4 < 4)] with
      | some off => trap1 0x01 va (BitVec.ofNat 32 (0x100 + off))
      | none => startCopy i s 1 [s.copyTrap w src dst (f 16 4) (f 16 4), s.barrierTrap i.u w (BitVec.ofNat 32 (f 20 4))]
          (s.newCopy i 1 dst (f 16 4) (.linear src) (s.creditOf i.u (f 20 4) (f 24 4)) k (rec || f 24 4 / 2 % 2 == 1)
            (BitVec.ofNat 32 (f 28 4)))))

/-- The part of a tile that lies in bounds: first row, rows, first column, columns (R213) (DEDUCED, log entry 31). -/
def Label.rect (l : Label) (i j : Int) : Int × Nat × Int × Nat :=
  let cut (at_ n size : Int) : Int × Nat := (max 0 (at_ * n), (min size ((at_ + 1) * n) - max 0 (at_ * n)).toNat)
  let (r, nr) := cut i l.tileRows l.d0
  let (c, nc) := cut j l.tileCols l.d1
  (r, nr, c, nc)

/-- Whether the whole tile lies in bounds. -/
def Label.whole (l : Label) (i j : Int) : Bool := (l.rect i j).2.1 == l.tileRows && (l.rect i j).2.2.2 == l.tileCols

/-- Bytes of the tile in bounds, their first address, and the length of the range from the first to the last. -/
def Label.tileBytes (l : Label) (i j : Int) : Nat := (l.rect i j).2.1 * (l.rect i j).2.2.2 * l.esize
def Label.tileFirst (l : Label) (i j : Int) : Dword := l.at (l.rect i j).1 (l.rect i j).2.2.1
def Label.tileSpan (l : Label) (i j : Int) : Nat :=
  if l.tileBytes i j = 0 then 0 else ((l.rect i j).2.1 - 1) * l.pitch + (l.rect i j).2.2.2 * l.esize

/-- The range of a tile's bytes in bounds, where it has any. -/
def Label.tileRange (l : Label) (i j : Int) : Option (Dword × Nat) := if l.tileBytes i j = 0 then none else some (l.tileFirst i j, l.tileSpan i j)

/-- Steps 2 and 3 of R285 over the ranges of two tiles; a tile wholly out of bounds has none. -/
def State.tileTrap (s : State) (w : Warp) : Option (Dword × Nat) → Option (Dword × Nat) → Option Trap
  | some a, some b => s.copyTrap w a.1 b.1 a.2 b.2
  | some a, none => s.rangeTrap w a.1 a.2
  | none, some b => s.rangeTrap w b.1 b.2
  | none, none => none

/-- CPYT's checks of one lane, and its command (R288). -/
def State.tileCopy (s : State) (i : Iss) (w : Warp) (l : Nat) (d a b : BitVec 6) (k : BitVec 3) (rec : Bool) : Trap ⊕ Copy :=
  let x := w.lane l
  let hs := x.val a.toNat
  let hd := x.val b.toNat
  let c (j : Nat) : Int := (x.val (d.toNat + j)).toInt
  let core := s.core w.core
  match core.label (w.owner i.u) hs, core.label (w.owner i.u) hd with
  | none, _ => .inl ⟨0x09, 0, hs⟩
  | _, none => .inl ⟨0x09, 0, hd⟩
  | some ls, some ld =>
    if ls.esize ≠ ld.esize then .inl ⟨0x01, 0, 0x300⟩
    else if ls.tileRows ≠ ld.tileRows || ls.tileCols ≠ ld.tileCols then .inl ⟨0x01, 0, 0x301⟩
    else if (ls.trapOut && !ls.whole (c 0) (c 1)) || (ld.trapOut && !ld.whole (c 2) (c 3)) then .inl ⟨0x1A, 0, x.val (d.toNat + 1)⟩
    else
      let n := ld.tileBytes (c 2) (c 3)
      match s.tileTrap w (ls.tileRange (c 0) (c 1)) (ld.tileRange (c 2) (c 3)) with
      | some t => .inl t
      | none => .inr (s.newCopy i 1 (ld.tileFirst (c 2) (c 3)) n (.tile ls ld hs hd (c 0) (c 1) (c 2) (c 3)) none k rec (w.tag l))

/-- An engine command takes hold of the label of a handle, and lets it go where the slot still is that label's (R258). -/
def Core.holdLabel (c : Core) (h : Word) : Core :=
  { c with labels := Map.upd c.labels (h.toNat % 64) (fun x => { x with val := x.val.map (fun l => { l with holds := l.holds + 1 }) }) }

def Core.releaseLabel (c : Core) (h : Word) : Core :=
  { c with labels := Map.upd c.labels (h.toNat % 64) (fun x => match x.val with
      | some l => if x.gen != h.toNat / 64 then x else if l.holds ≤ 1 && !l.live then x.free else { x with val := some { l with holds := l.holds - 1 } }
      | none => x) }

def execCpyt (d a b : BitVec 6) (k : BitVec 3) (rec : Bool) (s : State) : Out :=
  issue s (engineNeed [wait1 a, wait1 b, wait4 d]) (fun i s =>
    let w := s.warp i.u
    if !s.copyRights w then trap1 0x07
    else
      let cs := i.n.map (fun l => (l, s.tileCopy i w l d a b k rec))
      let ok := cs.filterMap (fun c => match c.2 with | .inr c => some c | .inl _ => none)
      match laneTraps (cs.filterMap (fun c => match c.2 with | .inl t => some (c.1, t) | .inr _ => none)) with
      | some e => e
      | none => match enterCopies i s 1 ok with
        | .ok s => .ok (s.updCore w.core (fun c => ok.foldl (fun c x => match x.shape with
            | .tile _ _ hs hd _ _ _ _ => (c.holdLabel hs).holdLabel hd
            | _ => c) c))
        | e => e)

def execGathd (a : BitVec 6) (k : BitVec 3) (rec : Bool) (s : State) : Out :=
  issue s (engineNeed [wait2 a]) (fun i s =>
    let w := s.warp i.u
    if !s.copyRights w then trap1 0x07
    else withDescriptor i s a 48 16 (fun s va r =>
      let f := field r
      let dst := BitVec.ofNat 64 (f 0 8)
      let ix := BitVec.ofNat 64 (f 16 8)
      let n := f 24 4 * f 28 4
      match firstBad [(16, f 16 8 % 4 == 0), (24, 1 ≤ f 24 4 && f 24 4 ≤ 2 ^ 24), (28, 1 ≤ f 28 4 && f 28 4 ≤ 65536),
          (36, f 40 4 % 2 == 0 || f 36 4 != 0xFFFFFFFF), (40, f 40 4 < 4)] with
      | some off => trap1 0x01 va (BitVec.ofNat 32 (0x100 + off))
      | none => startCopy i s 2 [s.copyTrap w ix dst (4 * f 24 4) n, s.barrierTrap i.u w (BitVec.ofNat 32 (f 36 4))]
          (s.newCopy i 2 dst n (.gather (BitVec.ofNat 64 (f 8 8)) ix (f 28 4) (f 32 4)) (s.creditOf i.u (f 36 4) (f 40 4)) k
            (rec || f 40 4 / 2 % 2 == 1) (BitVec.ofNat 32 (f 44 4)))))

/-! ### Engine accesses (R232, R290) -/

/-- What an engine's access is made for: its context, its core, the block of its command (0: a scalar control core's), the blocks that window
addresses name for it. -/
structure Eng where
  ctx : Nat
  core : Nat
  block : Nat
  tgts : List (Nat × Nat)

def Copy.eng (c : Copy) : Eng := ⟨c.ctx, c.core, c.block, c.tgts⟩
def MCmd.eng (m : MCmd) : Eng := ⟨m.ctx, m.core, m.block, m.tgts⟩
def Coll.eng (c : Coll) : Eng := ⟨c.ctx, c.core, c.block, c.tgts⟩

/-- The block that a window address names for an engine's command. -/
def Eng.target (e : Eng) (va : Dword) : Option Nat := (e.tgts.find? (fun p => p.1 == windowId va)).map (·.2)

/-- An engine's translation: the base die's TLB, or a walk (R212, R290). -/
def State.engineXlat (s : State) (e : Eng) (va : Dword) : Xlat ⊕ Trap := s.sharedXlat e.core e.ctx va

/-- The place of a byte for an engine's command; a window's target is the block it named when the command issued, for as long as it has not ended
(R202, R290, R296). -/
def State.enginePlace (s : State) (e : Eng) (va : Dword) (rd wr : Bool) : Nat ⊕ Trap :=
  let found : Nat ⊕ Trap :=
    if inWindow va then match e.target va with
      | some t => if Map.has s.blocks t then s.windowByte t va 1 else .inr ⟨0x0B, va, 0⟩
      | none => .inr ⟨0x0B, va, 0⟩
    else if !canonical va then .inr ⟨0x09, va, 0⟩
    else match s.engineXlat e va with
      | .inl x => s.pageByte x va rd wr
      | .inr t => .inr t
  match found with
  | .inl k => if wr && s.inMap e.block k then .inr ⟨0x09, va, 0⟩ else .inl k
  | .inr t => .inr t

/-- Whether a trap is only that the window's target block is saved: the command waits for it to return (DEDUCED, log entry 26). -/
def State.engineWaits (s : State) (e : Eng) (t : Trap) : Bool := t.cause == 0x0B && (e.target t.addr).any (Map.has s.saved)

/-- The bytes at addresses, as an engine of a core takes them at the die point; an engine keeps no read buffers (DESIGN CHOICE, log entry 96). -/
def State.engineRead (s : State) (e : Eng) (vas : List Dword) : List Byte ⊕ Trap :=
  vas.foldr (fun va acc => match s.enginePlace e va true false, acc with
    | .inl k, .inl bs => .inl (s.dieByte e.core k :: bs)
    | .inr t, _ => .inr t
    | _, .inr t => .inr t) (.inl [])

/-- Whether an atomic that has passed the die point of an engine's base die is still to be performed on bytes that the engine reads: the engine's
read, which passes after it, is served after it (R218, R232) (DEDUCED, log entry 58). -/
def State.atomsDue (s : State) (e : Eng) (vas : List Dword) : Bool :=
  s.reqs.any (fun p => p.2.openAtom && p.2.passed != 0) &&
    s.passedBefore e.core s.nextId (vas.filterMap (fun va => match s.enginePlace e va true false with | .inl k => some k | .inr _ => none)) Req.openAtom

/-- What an engine's accesses leave in the TLBs, its own core's too for the walker's, and, for reads, in the LLC (R206, R212). -/
def State.engineTouch (s : State) (e : Eng) (own : Bool) (vas : List Dword) (rd : Bool) : State :=
  let out := vas.filter (fun va => !inWindow va && canonical va)
  let s : State := ((out.map (fun va => va.toNat / 65536)).eraseDups).foldl (fun s p => s.touchXlat e.core 0 e.ctx (p * 65536) own) s
  if !rd then s
  else s.llcUses (((out.map (fun va => va.toNat / 256)).eraseDups).filterMap (fun l =>
    match s.enginePlace e (BitVec.ofNat 64 (l * 256)) true false with | .inl k => some k | .inr _ => none)) false

/-- n addresses from one on. -/
def vaRange (va : Dword) (n : Nat) : List Dword := (List.range n).map (fun k => va + BitVec.ofNat 64 k)

/-- The status that ends a command at a trap; none where the fault is replayable (R290, R296, R322). -/
def engineStatus (t : Trap) : Option Nat :=
  if t.cause = 0x08 || causeRank t = 6 then none else if t.cause = 0x16 then some 3 else if t.cause = 0x0B then some 4 else some 2

/-- An engine's writes leave it: bytes of its own core's scratchpad at once, others as one request per line. The requests' names. -/
def State.engineWrite (s : State) (cls core block grid ctx : Nat) (cells : Map Byte) (warp : Nat := 0) : List Nat × State :=
  let own := cells.filter (fun c => isSp c.1 && (s.block (spBlock c.1)).core == core)
  let out := cells.filter (fun c => !(isSp c.1 && (s.block (spBlock c.1)).core == core))
  (linesOf out).foldl (fun (p : List Nat × State) x =>
    (p.1 ++ [p.2.nextId], p.2.addStore cls core warp block grid ctx (out.filter (fun c => c.1 / 256 == x)))) ([], s.setBytes own)

/-- The lines that a command's writes go to are lines that the head has written, where the warp that issued it runs a grid's head task: no other
task issues one (R270, R272) (DEDUCED, log entry 95). -/
def State.noteEngine (s : State) (core warp : Nat) (places : List Nat) : State :=
  let lines := ((places.filter (fun k => !isSp k)).map (· / 256)).eraseDups
  s.updCore core (fun c => { c with tasks := Map.mapV c.tasks (fun _ t =>
    let head := match (s.grid t.grid).range with | some r => r.next == t.stamp | none => false
    if t.warp == warp && head then { t with wrote := (t.wrote ++ lines).eraseDups } else t) })

/-- Whether the die point, or the owning core, has acknowledged every one of an engine's writes. -/
def State.writesAcked (s : State) (ks : List Nat) : Bool :=
  ks.all (fun k => match Map.get? s.reqs k with | some (.store t) => t.stage != .issued | _ => true)

/-- Whether the block of a command is saved in an image, or about to be: its commands go no further until it returns (R291, R369). -/
def State.resting (s : State) (block : Nat) : Bool :=
  block != 0 && (Map.has s.saved block || (Map.has s.blocks block && s.leaving (s.block block).core (s.ctxOfBlock block)))

/-- The same of a copy, whose agent may be a scalar control core that is saved, or about to be (R291, R299). -/
def State.copyRests (s : State) (c : Copy) : Bool :=
  s.resting c.block || (c.block == 0 && ((s.awayWarp c.warp).isSome || s.clusterLeaves (clusterOf c.core) c.ctx))

/-! ### A copy as it runs (R284, R288 to R290, R296) -/

/-- The address of destination byte k. -/
def Copy.dstVa (c : Copy) (k : Nat) : Dword :=
  match c.shape with
  | .tile _ ld _ _ _ _ di dj =>
    let (r, _, q, nc) := ld.rect di dj
    let e := k / ld.esize
    ld.at (r + (e / nc : Nat)) (q + (e % nc : Nat)) + BitVec.ofNat 64 (k % ld.esize)
  | _ => c.dst + BitVec.ofNat 64 k

/-- The addresses whose values give a gather's row address. -/
def gatherIndex (index : Dword) (k rowBytes : Nat) : List Dword := vaRange (index + BitVec.ofNat 64 (4 * (k / rowBytes))) 4

/-- Where destination byte k comes from: an address, or a source tile's pad. -/
def State.copySrc (s : State) (c : Copy) (k : Nat) : (Dword ⊕ Byte) ⊕ Trap :=
  match c.shape with
  | .linear src => .inl (.inl (src + BitVec.ofNat 64 k))
  | .tile ls ld _ _ si sj di dj =>
    let (r, _, q, nc) := ld.rect di dj
    let e := k / ld.esize
    let row := si * ls.tileRows + (r + (e / nc : Nat) - di * ld.tileRows)
    let col := sj * ls.tileCols + (q + (e % nc : Nat) - dj * ld.tileCols)
    .inl (if ls.inside row col then .inl (ls.at row col + BitVec.ofNat 64 (k % ls.esize))
      else .inr (BitVec.ofNat 8 (ls.pad.toNat / 256 ^ (k % ls.esize))))
  | .gather base index rowBytes pitch =>
    match s.engineRead c.eng (gatherIndex index k rowBytes) with
    | .inr t => .inr t
    | .inl ix =>
      let row := base.toNat + leNat ix * pitch
      if 2 ^ 64 ≤ row then .inr ⟨0x09, 0x0100000000000000, 0⟩ else .inl (.inl (BitVec.ofNat 64 (row + k % rowBytes)))

/-- The value of destination byte k. -/
def State.copyByte (s : State) (c : Copy) (k : Nat) : Byte ⊕ Trap :=
  match s.copySrc c k with
  | .inr t => .inr t
  | .inl (.inr b) => .inl b
  | .inl (.inl va) => match s.engineRead c.eng [va] with
    | .inl bs => .inl (bs.headD 0)
    | .inr t => .inr t

/-- The numbers of a chunk's bytes. -/
def Copy.chunk (c : Copy) : List Nat := (List.range (min 4096 (c.bytes - 4096 * c.checkpoint))).map (4096 * c.checkpoint + ·)

/-- The bytes of a chunk, with their places, or the first trap (DESIGN CHOICE, log entry 26). -/
def State.copyChunk (s : State) (c : Copy) : Map Byte ⊕ Trap :=
  c.chunk.foldl (fun (acc : Map Byte ⊕ Trap) k => match acc with
    | .inr t => .inr t
    | .inl m =>
      match s.copyByte c k, s.enginePlace c.eng (c.dstVa k) false true with
      | .inl b, .inl p => .inl (Map.put m p b)
      | .inr t, _ => .inr t
      | _, .inr t => .inr t) (.inl [])

/-- The addresses that a chunk reads: a gather's indices, then the sources. -/
def State.chunkVas (s : State) (c : Copy) : List Dword :=
  let srcs := c.chunk.foldl (fun l k => match s.copySrc c k with | .inl (.inl va) => va :: l | _ => l) []
  let index := match c.shape with
    | .gather _ index rowBytes _ => c.chunk.foldl (fun l k => if k % rowBytes == 0 || l.isEmpty then gatherIndex index k rowBytes ++ l else l) []
    | _ => []
  index ++ srcs

/-- What a chunk's accesses leave in the base die's TLB and the LLC. -/
def State.touchChunk (s : State) (c : Copy) : State :=
  (s.engineTouch c.eng false (s.chunkVas c) true).engineTouch c.eng false (c.chunk.map c.dstVa) false

def Copy.moved (c : Copy) : Bool := c.bytes ≤ 4096 * c.checkpoint

/-- Whether a command is among the 16 that its engine transfers. -/
def State.transferring (s : State) (k : Nat) (c : Copy) : Bool :=
  ((s.copies.filter (fun p => p.1 < k && s.queued c.core c.cls p.2 && p.2.status.isNone && p.2.fault.isNone &&
    !(p.2.moved && p.2.writes.isEmpty))).length) < 16

/-- Whether a chunk can leave, or one that left has been acknowledged. -/
def State.chunkReady (s : State) (k : Nat) : Bool :=
  match Map.get? s.copies k with
  | some c => c.status.isNone && c.fault.isNone &&
      (if c.writes.isEmpty then !s.copyRests c && !c.moved && s.transferring k c && !s.atomsDue c.eng (s.chunkVas c)
        else s.writesAcked c.writes)
  | none => false

def State.setCopy (s : State) (k : Nat) (c : Copy) : State := { s with copies := Map.put s.copies k c }

/-- COPY_CHUNK_ACKED (R284): a chunk leaves as requests; once they are acknowledged the checkpoint moves past it. -/
def execCopyChunkAcked (k : Nat) (s : State) : Out :=
  .next (match s.chunkReady k, Map.get? s.copies k with
    | true, some c =>
      if !c.writes.isEmpty then s.setCopy k { c with writes := [], checkpoint := c.checkpoint + 1 }
      else match s.copyChunk c with
        | .inl m =>
          let (ks, s) := ((s.touchChunk c).noteEngine c.core c.warp (m.map (·.1))).engineWrite c.cls c.core c.block c.grid c.ctx m
          if ks.isEmpty then s.setCopy k { c with checkpoint := c.checkpoint + 1 } else s.setCopy k { c with writes := ks }
        | .inr t => if s.engineWaits c.eng t then s else match engineStatus t with
          | none => s.setCopy k { c with fault := some (t.cause, t.addr) }
          | some x => s.setCopy k { c with status := some x }
    | _, _ => s)

/-- Whether an engine's record must be posted, and can be. -/
def State.recordRoom (s : State) (core : Nat) (rec : Bool) (status : Nat) : Bool := (!rec && status == 0) || s.pigeonFree (clusterOf core)

/-- Posts a record where one is due (R297). -/
def State.postIf (s : State) (core : Nat) (rec : Bool) (kind cls status : Nat) (tag : Word) (bytes : Nat) : State :=
  if !rec && status == 0 then s else s.post core (recordWords kind cls status tag bytes)

def State.copyReady (s : State) (k : Nat) : Bool :=
  match Map.get? s.copies k with
  | some c => (c.status.isSome || (c.moved && c.writes.isEmpty && c.fault.isNone)) && !s.copyRests c &&
      s.recordRoom c.core c.record (c.status.getD 0)
  | none => false

/-- COPY_COMPLETE (R296): the record, the barrier's credit, the token; then the barrier's and labels' references. A command of a saved block
completes once the block has returned (R291). -/
def execCopyComplete (k : Nat) (s : State) : Out :=
  .next (match s.copyReady k, Map.get? s.copies k with
    | true, some c =>
      let st := c.status.getD 0
      let s : State := s.postIf c.core c.record (if st = 0 then 1 else 2) c.cls st c.tag (if st = 0 then c.bytes else min c.bytes (4096 * c.checkpoint))
      let s : State := { s with copies := Map.del s.copies k }
      let s : State := (if st = 0 then s.count c.grid 0x14 c.bytes else s).countEngine c.grid [0x07, 0x08]
      let s : State := match c.bar with
        | some r => s.creditBar r (if st = 0 then some c.bytes else none)
        | none => s
      let s : State := match c.shape with
        | .tile _ _ hs hd _ _ _ _ => s.updCore c.core (fun x => (x.releaseLabel hs).releaseLabel hd)
        | _ => s
      (s.tokenDone c.warp c.token).sweep
    | _, _ => s)

/-! ### The pigeonhole (R298, R299) -/

/-- What a pigeonhole instruction needs: it runs on a scalar control core only. -/
def pigeonNeed (srcs : List Opd) (dsts : List Nat) : Need := { engineNeed srcs dsts false with lanes := false }

def execPgpop (d : BitVec 6) (s : State) : Out :=
  issue s (pigeonNeed [] [d.toNat, d.toNat + 1, d.toNat + 2, d.toNat + 3]) (fun i s =>
    let c := clusterOf (s.warp i.u).core
    match Map.getD s.pigeon c [] with
    | [] => .wait none
    | r :: rest =>
      let v := r.foldr (fun w n => w.toNat + 2 ^ 32 * n) 0
      let s : State := ({ s with pigeon := Map.setD s.pigeon c rest [] } : State).postHeld c
      .ok ((s.deliverAll i [d, d + 1, d + 2, d + 3] v).adv i))

def execPgpost (a : RegE) (s : State) : Out :=
  issue s (pigeonNeed [a.opd4] []) (fun i s =>
    let w := s.warp i.u
    let c := clusterOf w.core
    if !s.pigeonFree c then .wait none
    else
      let v := (w.lane (i.n.headD 0)).quadVals a.r
      .ok ((s.post w.core [(v.getD 0 0 &&& 0xFFFF0000) ||| 0x0806, v.getD 1 0, v.getD 2 0]).adv i))

def execPgcnt (d : BitVec 6) (s : State) : Out :=
  issue s (pigeonNeed [] [d.toNat]) (fun i s =>
    let n := (Map.getD s.pigeon (clusterOf (s.warp i.u).core) []).length
    .ok ((s.updLanes i.u i.act (fun _ k => k.put d.toNat (BitVec.ofNat 32 n))).adv i))

/-! ### The address engine (R300 to R303) -/

/-- The engine's lanes as AESTART leaves them: x0 to x11 from the argument block, x12 the lane index. -/
def aeLanes (entry : Word) (r : List Byte) : Map Lane :=
  (List.range 32).map (fun l => (l, (List.range 12).foldl (fun (k : Lane) j => k.put j (BitVec.ofNat 32 (field r (8 + 4 * j) 4)))
    ((Lane.start entry 0).put 12 (BitVec.ofNat 32 l))))

/-- AESTART (R302): Enter, then the engine must be free, then the argument block and its banks (DESIGN CHOICE, log entry 44). -/
def execAestart (a b : RegE) (s : State) : Out :=
  issue s (engineNeed [a.opd, b.opd2]) (fun i s =>
    let w := s.warp i.u
    agree i (fun l => ((w.lane l).val a.r.toNat, (w.lane l).pairVal b.r)) (fun v =>
      enterAll s i false (i.n.map (fun l => (l, v.1))) (fun _ => v.1) (fun s =>
        if (s.aeOf w.core).isSome then trap1 0x01 0 0x200
        else match s.descriptor i.u (i.n.headD 0) v.2 64 64 with
          | .trap t => t.all
          | .wait => .wait none
          | .bytes r s =>
            let bank (j : Nat) : Nat := field r j 1
            match (List.range 4).find? (fun j => bank j != 255 && (36 < bank j || !s.fifoRights w (bank j))) with
            | some j => trap1 0x09 0 (BitVec.ofNat 32 (bank j))
            | none =>
              let banks := (List.range 4).map (fun j => if bank j = 255 then none else some (bank j))
              let s : State := s.updCore w.core (fun c => banks.foldl (fun c x => match x with
                | some k => c.setBank k { c.bankOf k with producers := (c.bankOf k).producers + 1 }
                | none => c) c)
              let e : Warp := .start (.ae banks (v.2 + 4) none (s.gridOf w)) w.core w.ctx w.block (v.1.toNat / 65536) s.nextId (aeLanes v.1 r)
              .ok (({ s with warps := Map.put s.warps s.nextId e, nextId := s.nextId + 1 } : State).adv i))))

/-- AESTOP (R303): nothing happens where the block runs no engine. -/
def execAestop (s : State) : Out :=
  issue s (engineNeed []) (fun i s =>
    let w := s.warp i.u
    match s.aeOf w.core with
    | some u => .ok ((if (s.warp u).block == w.block then s.aeEnd u 2 else s).adv i)
    | none => .ok (s.adv i))

end Sys2Proof.Machine
end

