-- ==== Sys2Proof/Machine/Integer.lean ====
section
/-! DEFINITION. Class 0, the integer instructions (R91 to R98, R138, R139). -/

namespace Sys2Proof.Machine

/-! ### Values -/

/-- The bits above 32 of a signed product (R92). -/
def mulhs (a b : Word) : Word := BitVec.ofInt 32 (a.toInt * b.toInt / 2 ^ 32)

def mulhz (a b : Word) : Word := BitVec.ofNat 32 (a.toNat * b.toNat / 2 ^ 32)

/-- DIV.s and REM.s truncate toward zero; division by 0 and the overflowing case have their own results (R93). -/
def divS (a b : Word) : Word := if b = 0 then 0xFFFFFFFF else BitVec.ofInt 32 (a.toInt.tdiv b.toInt)

def remS (a b : Word) : Word := if b = 0 then a else BitVec.ofInt 32 (a.toInt.tmod b.toInt)

def divZ (a b : Word) : Word := if b = 0 then 0xFFFFFFFF else BitVec.ofNat 32 (a.toNat / b.toNat)

def remZ (a b : Word) : Word := if b = 0 then a else BitVec.ofNat 32 (a.toNat % b.toNat)

/-- A shift uses only B[4:0] (R94). -/
def shiftBy (b : Word) : Nat := b.toNat % 32

def popcount (a : Word) : Word := BitVec.ofNat 32 ((List.range 32).filter (fun i => a.getLsbD i)).length

/-- Zeros above the highest 1 bit; 32 for 0 (R95). -/
def clz (a : Word) : Word := BitVec.ofNat 32 (if a = 0 then 32 else 31 - a.toNat.log2)

/-- v[i] ← A[31 − i] (R95). -/
def brev (a : Word) : Word := a.reverse

/-- Field position and clipped length (R95). -/
def fieldOf (b : Word) : Nat × Nat := (b.toNat % 32, min (b.toNat / 32 % 64) (32 - b.toNat % 32))

def bfxZ (a b : Word) : Word := BitVec.ofNat 32 (a.toNat / 2 ^ (fieldOf b).1 % 2 ^ (fieldOf b).2)

def bfxS (a b : Word) : Word := if (fieldOf b).2 = 0 then 0 else sext32 (a.toNat / 2 ^ (fieldOf b).1) (fieldOf b).2

def bfi (a b c : Word) : Word :=
  let m : Word := BitVec.ofNat 32 ((2 ^ (fieldOf b).2 - 1) * 2 ^ (fieldOf b).1)
  (c &&& ~~~ m) ||| ((a <<< (fieldOf b).1) &&& m)

/-- The condition codes of CMP and CMPW (R74, R97). -/
def cmpS {n : Nat} (c : BitVec 3) (a b : BitVec n) : Bool :=
  match c.toNat with
  | 0 => a == b
  | 1 => a != b
  | 2 => a.slt b
  | 3 => a.sle b
  | 4 => b.slt a
  | _ => b.sle a

def cmpZ {n : Nat} (c : BitVec 3) (a b : BitVec n) : Bool :=
  match c.toNat with
  | 0 => a == b
  | 1 => a != b
  | 2 => a < b
  | 3 => a ≤ b
  | 4 => b < a
  | _ => b ≤ a

/-- The PLOG operations (R74, R98). -/
def plogOp (o : BitVec 3) (a b : Bool) : Bool :=
  match o.toNat with
  | 0 => a && b
  | 1 => a || b
  | 2 => a != b
  | 3 => a && !b
  | 4 => !(a && b)
  | 5 => !(a || b)
  | _ => a == b

/-- One step of the generator, and its output (R50, R138). -/
def rngStep (s : Dword) : Dword := s * 0x9E3D7A51C4F82B65 + 0x14E6B
def rngOut (s : Dword) : Word := hi32 (s ^^^ (s >>> 29))

/-- The generator advanced by a count: the affine step composed by squaring (R51). -/
def rngJump : Nat → Nat → Dword → Dword → Dword → Dword
  | 0, _, _, _, s => s
  | fuel + 1, n, a, c, s => rngJump fuel (n / 2) (a * a) (a * c + c) (if n % 2 = 1 then a * s + c else s)

/-! ### Meanings -/

def execAdd (d : BitVec 6) (a b : Src) (s : State) : Out := op2 s d a b (fun x y => x + y)

def execSub (d : BitVec 6) (a b : Src) (s : State) : Out := op2 s d a b (fun x y => x - y)

def execMul (d : BitVec 6) (a b : Src) (s : State) : Out := op2 s d a b (fun x y => x * y)

def execMulhS (d : BitVec 6) (a b : Src) (s : State) : Out := op2 s d a b mulhs

def execMulhZ (d : BitVec 6) (a b : Src) (s : State) : Out := op2 s d a b mulhz

def execMad (d : BitVec 6) (a b : Src) (s : State) : Out := op3 s d a b (fun x y c => x * y + c)

def execDivS (d : BitVec 6) (a b : Src) (s : State) : Out := op2 s d a b divS

def execDivZ (d : BitVec 6) (a b : Src) (s : State) : Out := op2 s d a b divZ

def execRemS (d : BitVec 6) (a b : Src) (s : State) : Out := op2 s d a b remS

def execRemZ (d : BitVec 6) (a b : Src) (s : State) : Out := op2 s d a b remZ

def execAnd (d : BitVec 6) (a b : Src) (s : State) : Out := op2 s d a b (fun x y => x &&& y)

def execOr (d : BitVec 6) (a b : Src) (s : State) : Out := op2 s d a b (fun x y => x ||| y)

def execXor (d : BitVec 6) (a b : Src) (s : State) : Out := op2 s d a b (fun x y => x ^^^ y)

def execAndn (d : BitVec 6) (a b : Src) (s : State) : Out := op2 s d a b (fun x y => x &&& ~~~ y)

def execShl (d : BitVec 6) (a b : Src) (s : State) : Out := op2 s d a b (fun x y => x <<< shiftBy y)

def execShr (d : BitVec 6) (a b : Src) (s : State) : Out := op2 s d a b (fun x y => x >>> shiftBy y)

def execSra (d : BitVec 6) (a b : Src) (s : State) : Out := op2 s d a b (fun x y => x.sshiftRight (shiftBy y))

def execRol (d : BitVec 6) (a b : Src) (s : State) : Out := op2 s d a b (fun x y => x.rotateLeft (shiftBy y))

def execMinS (d : BitVec 6) (a b : Src) (s : State) : Out := op2 s d a b (scopeOp 4)

def execMinZ (d : BitVec 6) (a b : Src) (s : State) : Out := op2 s d a b (scopeOp 6)

def execMaxS (d : BitVec 6) (a b : Src) (s : State) : Out := op2 s d a b (scopeOp 5)

def execMaxZ (d : BitVec 6) (a b : Src) (s : State) : Out := op2 s d a b (scopeOp 7)

def execAbsS (d : BitVec 6) (a : Src) (s : State) : Out := op1 s d a (fun x => if x.slt 0 then -x else x)

def execPopc (d : BitVec 6) (a : Src) (s : State) : Out := op1 s d a popcount

def execClz (d : BitVec 6) (a : Src) (s : State) : Out := op1 s d a clz

def execBrev (d : BitVec 6) (a : Src) (s : State) : Out := op1 s d a brev

def execBfxZ (d : BitVec 6) (a b : Src) (s : State) : Out := op2 s d a b bfxZ

def execBfxS (d : BitVec 6) (a b : Src) (s : State) : Out := op2 s d a b bfxS

def execBfi (d : BitVec 6) (a b : Src) (s : State) : Out := op3 s d a b bfi

def execAddw (d : BitVec 6) (a b : RegE) (s : State) : Out := opPair2 s d a b (fun x y => x + y)

def execSubw (d : BitVec 6) (a b : RegE) (s : State) : Out := opPair2 s d a b (fun x y => x - y)

/-- MULW.s and MULW.z: 32-bit sources, a pair destination (R96). -/
def execMulwS (d : BitVec 6) (a b : Src) (s : State) : Out :=
  lanewise s { srcs := [a.opd, b.opd], dsts := pairRegs d } (fun k g => k.putPair d.toNat ((g a).signExtend 64 * (g b).signExtend 64))

def execMulwZ (d : BitVec 6) (a b : Src) (s : State) : Out :=
  lanewise s { srcs := [a.opd, b.opd], dsts := pairRegs d } (fun k g => k.putPair d.toNat ((g a).setWidth 64 * (g b).setWidth 64))

def execShlw (d : BitVec 6) (a : RegE) (b : Src) (s : State) : Out := opPairShift s d a b (fun x n => x <<< n)

def execShrw (d : BitVec 6) (a : RegE) (b : Src) (s : State) : Out := opPairShift s d a b (fun x n => x >>> n)

def execSraw (d : BitVec 6) (a : RegE) (b : Src) (s : State) : Out := opPairShift s d a b (fun x n => x.sshiftRight n)

def execCmpS (c p : BitVec 3) (a b : Src) (s : State) : Out :=
  lanewise s { srcs := [a.opd, b.opd] } (fun k g => k.putP p (cmpS c (g a) (g b)))

def execCmpZ (c p : BitVec 3) (a b : Src) (s : State) : Out :=
  lanewise s { srcs := [a.opd, b.opd] } (fun k g => k.putP p (cmpZ c (g a) (g b)))

def execCmpwS (c p : BitVec 3) (a b : RegE) (s : State) : Out :=
  lanewise s { srcs := [a.opd2, b.opd2] } (fun k _ => k.putP p (cmpS c (k.pairVal a.r) (k.pairVal b.r)))

def execCmpwZ (c p : BitVec 3) (a b : RegE) (s : State) : Out :=
  lanewise s { srcs := [a.opd2, b.opd2] } (fun k _ => k.putP p (cmpZ c (k.pairVal a.r) (k.pairVal b.r)))

def execPlog (o p r q : BitVec 3) (s : State) : Out := lanewise s {} (fun k _ => k.putP p (plogOp o (k.pred r) (k.pred q)))

def execPtox (d : BitVec 6) (r : BitVec 3) (s : State) : Out :=
  lanewise s { dsts := [d.toNat] } (fun k _ => k.put d.toNat (if k.pred r then 1 else 0))

def execXtop (p : BitVec 3) (a : Src) (s : State) : Out := lanewise s { srcs := [a.opd] } (fun k g => k.putP p (g a != 0))

/-- RNG: the state pair is written first and d second (R138). -/
def execRng (d : BitVec 6) (a : RegE) (s : State) : Out :=
  lanewise s { srcs := [a.opd2], dsts := pairRegs a.r ++ [d.toNat] } (fun k _ =>
    (k.putPair a.r.toNat (rngStep (k.pairVal a.r))).put d.toNat (rngOut (rngStep (k.pairVal a.r))))

def execRngj (a b : RegE) (s : State) : Out :=
  lanewise s { srcs := [a.opd2, b.opd2], dsts := pairRegs a.r } (fun k _ =>
    k.putPair a.r.toNat (rngJump 64 (k.pairVal b.r).toNat 0x9E3D7A51C4F82B65 0x14E6B (k.pairVal a.r)))

end Sys2Proof.Machine
end

