-- ==== Sys2Proof/Machine/Immediate.lean ====
section
/-! DEFINITION. Class 2: immediates, selection, SCALE, LDCA and the system registers (R99 to R105, R131). -/

namespace Sys2Proof.Machine

def execAddi (d : BitVec 6) (a : RegE) (i : BitVec 11) (s : State) : Out := opImm s d a (fun x => x + i.signExtend 32)

def execAndi (d : BitVec 6) (a : RegE) (i : BitVec 11) (s : State) : Out := opImm s d a (fun x => x &&& i.signExtend 32)

def execOri (d : BitVec 6) (a : RegE) (i : BitVec 11) (s : State) : Out := opImm s d a (fun x => x ||| i.signExtend 32)

def execXori (d : BitVec 6) (a : RegE) (i : BitVec 11) (s : State) : Out := opImm s d a (fun x => x ^^^ i.signExtend 32)

def execMuli (d : BitVec 6) (a : RegE) (i : BitVec 11) (s : State) : Out := opImm s d a (fun x => x * i.signExtend 32)

/-- SHI's shift by kind (R99). -/
def shiOp (k : BitVec 2) (n : Nat) (x : Word) : Word :=
  if k = 0 then x <<< n else if k = 1 then x >>> n else if k = 2 then x.sshiftRight n else x.rotateLeft n

def execShi (d : BitVec 6) (a : RegE) (k : BitVec 2) (n : BitVec 5) (s : State) : Out := opImm s d a (shiOp k n.toNat)

def execMovlo (d : BitVec 6) (i : BitVec 16) (s : State) : Out :=
  lanewise s { dsts := [d.toNat] } (fun k _ => k.put d.toNat (i.setWidth 32))

def execMovhi (d : BitVec 6) (i : BitVec 16) (s : State) : Out :=
  lanewise s { srcs := [wait1 d], dsts := [d.toNat] } (fun k _ =>
    k.put d.toNat ((i.setWidth 32 <<< 16) ||| (k.val d.toNat &&& 0xFFFF)))

/-- CMPI's conditions (R77, R101). -/
def cmpiOp (c : BitVec 3) (a b : Word) : Bool :=
  match c.toNat with
  | 0 => a == b
  | 1 => a != b
  | 2 => a.slt b
  | 3 => b.sle a
  | 4 => a < b
  | 5 => b ≤ a
  | 6 => a.sle b
  | _ => b.slt a

def execCmpi (c p : BitVec 3) (a : RegE) (i : BitVec 11) (s : State) : Out :=
  lanewise s { srcs := [a.opd] } (fun k _ => k.putP p (cmpiOp c (k.val a.r.toNat) (i.signExtend 32)))

/-- SEL reads both sources, whichever it selects (R102). -/
def execSel (d : BitVec 6) (a b : RegE) (p : BitVec 3) (neg : Bool) (s : State) : Out :=
  lanewise s { srcs := [a.opd, b.opd], dsts := [d.toNat] } (fun k _ =>
    k.put d.toNat (if k.pred p != neg then k.val a.r.toNat else k.val b.r.toNat))

def execScale (d : BitVec 6) (a b : RegE) (q : BitVec 2) (s : State) : Out :=
  fpwise s { srcs := [a.opd, b.opd], dsts := [d.toNat] } (fun k _ =>
    put32 d k (fscale k.env (k.val a.r.toNat).toNat ((k.val b.r.toNat).toNat / 256 ^ q.toNat % 256)))

/-- LDCA: a code address of the current parcel (R103). -/
def execLdca (d : BitVec 6) (off : BitVec 16) (s : State) : Out :=
  issue s { dsts := [d.toNat] } (fun i s =>
    match s.target i 2 off.toInt with
    | none => trap1 0x01
    | some t => .ok ((s.updLanes i.u i.act (fun _ k => k.put d.toNat t)).adv i))

/-! ### System registers (R104, R105) -/

/-- Block coordinates from the linear index: x runs fastest (PRESUMED, log entry 20). -/
def blockX (k : GridRec) (bix : Nat) : Nat := bix % k.dimx
def blockY (k : GridRec) (bix : Nat) : Nat := bix / k.dimx % k.dimy
def blockZ (k : GridRec) (bix : Nat) : Nat := bix / (k.dimx * k.dimy)

/-- The control word of a watchpoint, and a breakpoint comparator, of a core (R384, R385). -/
def Core.watch (c : Core) (n : Nat) : Watch := Map.getD c.watches n ⟨0, 0, 0⟩
def Core.bpAt (c : Core) (n : Nat) : Word := Map.getD c.bps n 0

/-- SysReg: the value a lane of an agent reads (R105) (DEDUCED, log entry 19). -/
def State.sysReg (s : State) (w : Warp) (act : List Nat) (l : Nat) (k : Lane) (sr : Nat) : Word :=
  let n (v : Nat) : Word := BitVec.ofNat 32 v
  let b := s.block w.block
  let g := s.grid b.grid
  let c := s.core w.core
  let scc := w.isScc
  let own (v : Nat) : Word := if scc then 0 else n v
  if 0x20 ≤ sr && sr < 0x30 then (c.watch (sr - 0x20)).ctl
  else if 0x30 ≤ sr && sr < 0x38 then c.bpAt (sr - 0x30)
  else match sr with
  | 0x00 => own l
  | 0x01 => own (l / 4)
  | 0x02 => own w.wix
  | 0x03 => if scc then 1 else n b.wcnt
  | 0x04 => own (blockX g.info b.bix)
  | 0x05 => own (blockY g.info b.bix)
  | 0x06 => own (blockZ g.info b.bix)
  | 0x07 => own g.info.dimx
  | 0x08 => own g.info.dimy
  | 0x09 => own g.info.dimz
  | 0x0A => own (positionOf w.core)
  | 0x0B => n (w.core % 8)
  | 0x0C => n (w.core % 32 / 8)
  | 0x0D => n (w.core / 32)
  | 0x0E => n w.ctx
  | 0x0F => match w.kind with
    | .scc cl => n (Map.getD s.sccGrid cl 0)
    | _ => n b.grid
  | 0x10 => k.fpctl.setWidth 32
  | 0x11 => k.lprio.setWidth 32
  | 0x12 => if scc then 1 else maskOf act
  | 0x13 => if k.helper && !scc then 1 else 0
  | 0x14 => if b.det && !scc then 1 else 0
  | 0x15 => if scc then n w.bintmr else n b.bintmr
  | 0x18 => k.tcause
  | 0x19 => lo32 k.taddr
  | 0x1A => hi32 k.taddr
  | 0x1B => k.tlanes
  | 0x1C => k.tpc
  | _ => k.tinfo

def execSrd (d : BitVec 6) (sr : BitVec 8) (s : State) : Out :=
  issue s { dsts := [d.toNat], lpb := 0, ae := false } (fun i s =>
    .ok ((s.updLanes i.u i.act (fun l k => k.put d.toNat (s.sysReg (s.warp i.u) i.act l k sr.toNat))).adv i))

/-- A register that each lane holds, written with the lane's own value (R104, R105) (DEDUCED, log entry 12). -/
def Lane.setSys (k : Lane) (sr : Nat) (v : Word) : Lane :=
  match sr with
  | 0x10 => { k with fpctl := v.setWidth 14 }
  | 0x11 => { k with lprio := v.setWidth 6 }
  | 0x18 => { k with tcause := v }
  | 0x19 => { k with taddr := pair v (hi32 k.taddr) }
  | 0x1A => { k with taddr := pair (lo32 k.taddr) v }
  | 0x1B => { k with tlanes := v }
  | 0x1C => { k with tpc := v }
  | 0x1D => { k with tinfo := v }
  | _ => k

/-- A register held once per block or core (R104, R105, R266, R384, R385). -/
def State.setSys (s : State) (u sr : Nat) (v : Word) : State :=
  let w := s.warp u
  if sr = 0x15 then
    let t := max 8 (min 4096 v.toNat)
    if w.isScc then s.updWarp u (fun w => { w with bintmr := t })
    else if (s.block w.block).det then s
    else s.updBlock w.block (fun b => { b with bintmr := t })
  else if sr < 0x30 then
    s.updCore w.core (fun c => { c with
      watches := Map.put c.watches (sr - 0x20) { c.watch (sr - 0x20) with ctl := v &&& 0xE000FFFF } })
  else s.updCore w.core (fun c => { c with bps := Map.setD c.bps (sr - 0x30) v 0 })

/-- SRW (R104, R105): lane registers take each lane's own value; a block's or core's register one value of the lanes of N. -/
def execSrw (a : RegE) (sr : BitVec 8) (s : State) : Out :=
  let rh := 0x18 ≤ sr.toNat
  issue s { srcs := [a.opd], lpb := 0, ae := false, handler := rh } (fun i s =>
    let w := s.warp i.u
    if sr.toNat = 0x15 || 0x20 ≤ sr.toNat then
      if i.n.isEmpty then .ok (s.adv i)
      else agree i (fun l => (w.lane l).val a.r.toNat) (fun v => .ok ((s.setSys i.u sr.toNat v).adv i))
    else if sr.toNat = 0x11 && !i.handler && i.n.any (fun l => (w.lane l).val a.r.toNat &&& 0x3F == 63) then trap1 0x01
    else .ok ((s.updLanes i.u i.act (fun _ k => k.setSys sr.toNat (k.val a.r.toNat))).adv i))

end Sys2Proof.Machine
end

