-- ==== Sys2Proof/Machine/Matrix.lean ====
section
/-! DEFINITION. The matrix unit: its instructions, and its commands as they run (16_matrix_unit.md). -/

namespace Sys2Proof.Machine

/-! ### Formats (R43, R304, R309) -/

/-- Bits of an element by format: 0 E4M3, 1 E5M2, 2 E2M1, 3 S8, 4 S4, 5 BF16, 6 F16, 7 F64. -/
def mBits (fmt : Nat) : Nat := match fmt with | 0 | 1 | 3 => 8 | 2 | 4 => 4 | 5 | 6 => 16 | _ => 64

/-- The K-step (R43). -/
def mStep (fmt : Nat) : Nat := match fmt with | 0 | 1 | 3 => 32 | 2 | 4 => 64 | 5 | 6 => 16 | _ => 8

/-- The kind of tile that a format makes: 1 F32, 2 S32, 3 F64. -/
def mKind (fmt : Nat) : Nat := match fmt with | 3 | 4 => 2 | 7 => 3 | _ => 1

/-- Whether the format is scaled by E8M0 codes. -/
def mScaled (fmt : Nat) : Bool := fmt < 3

/-- Bytes of n elements. -/
def mBytes (fmt n : Nat) : Nat := n * mBits fmt / 8

/-- Whether n elements fit a stride, counted exactly (R309, R318). -/
def mFits (fmt n stride : Nat) : Bool := n * mBits fmt ≤ 8 * stride

/-- Element i of a row of bytes (R38). -/
def mElem (fmt : Nat) (row : List Byte) (i : Nat) : Nat :=
  match mBits fmt with
  | 4 => (row.getD (i / 2) 0).toNat / 16 ^ (i % 2) % 16
  | 8 => (row.getD i 0).toNat
  | 16 => leNat ((row.drop (2 * i)).take 2)
  | _ => leNat ((row.drop (8 * i)).take 8)

/-- The exact value of a floating element. -/
def mVal (fmt v : Nat) : FVal :=
  match fmt with
  | 0 => Narrow.e4m3.unpack v
  | 1 => Narrow.e5m2.unpack v
  | 2 => Narrow.e2m1.unpack v
  | 5 => bf16.unpack false v
  | 6 => f16.unpack false v
  | _ => f64.unpack false v

/-- A value times 2^(e − 127); code 0xFF makes it a NaN (R311). -/
def FVal.e8m0 (v : FVal) (e : Nat) : FVal :=
  if e = 255 then .nan false
  else match v with
    | .fin n m x => .fin n m (x + (e : Int) - 127)
    | v => v

/-- The exact product of two values; a NaN, or 0 × ∞, is a NaN. -/
def FVal.times (a b : FVal) : FVal := if a.isNan || b.isNan then .nan false else a.mul b

/-- An accumulator element plus exact terms, rounded once (R43) (DEDUCED, log entry 35). -/
def fsum (k : Fmt) (old : Nat) (ts : List FVal) : Nat := ((ts.foldl ExactSum.push {}).push (k.unpack false old)).round k

/-- A signed integer element. -/
def mInt (fmt v : Nat) : Int := if fmt = 3 then (BitVec.ofNat 8 v).toInt else (BitVec.ofNat 4 v).toInt

/-- One element's K-step (R311): the old element, the pairs of elements with their scale codes. -/
def kStep (fmt : Nat) (old : BitVec 64) (ps : List (Nat × Nat × Nat × Nat)) : BitVec 64 :=
  match mKind fmt with
  | 2 => ((ps.foldl (fun (acc : Word) p => acc + BitVec.ofInt 32 (mInt fmt p.1 * mInt fmt p.2.1)) (lo32 old))).setWidth 64
  | 3 => BitVec.ofNat 64 (fsum f64 old.toNat (ps.map (fun p => (mVal 7 p.1).times (mVal 7 p.2.1))))
  | _ => BitVec.ofNat 64 (fsum f32 old.toNat (ps.map (fun p => ((((mVal fmt p.1).times (mVal fmt p.2.1)).e8m0 p.2.2.1).e8m0 p.2.2.2))))

/-! ### Tiles (R304, R305) -/

/-- A tile's projected kind and shape after one more command. -/
def MOp.project (t : Nat) (st : Nat × Nat × Nat) : MOp → Nat × Nat × Nat
  | .mma fmt _ _ _ _ m n _ tile clear _ _ _ => if tile = t && (clear || st.1 == 0) then (mKind fmt, m, n) else st
  | .mmv _ _ _ _ _ rows cols vt yt v load clear =>
    if vt = t then (if load then (4, v, cols) else st) else if yt = t && (clear || st.1 == 0) then (1, v, rows) else st
  | .drain _ _ _ _ _ _ _ _ _ _ => st
  | .maclr tile => if tile = t then (0, 0, 0) else st

/-- The projected state of a tile (R305). -/
def Core.projected (c : Core) (t : Nat) : Nat × Nat × Nat :=
  let x := c.tile t
  c.mq.foldl (fun st m => m.op.project t st) (x.kind, x.rows, x.cols)

/-- A tile that another block owns (R304). -/
def Core.foreign (c : Core) (block t : Nat) : Bool := match (c.tile t).owner with | some b => b != block | none => false

/-- A block claims a free tile (R304). -/
def Core.claim (c : Core) (block t : Nat) : Core := if (c.tile t).owner.isSome then c else c.setTile t { Tile.free with owner := some block }

/-! ### Issue (R306 to R310, R315, R318, R320) -/

/-- What a matrix command needs. -/
def matrixNeed (srcs : List Opd) : Need := { engineNeed srcs with scc := false }

/-- The block of operands of a matrix command: its trap, or its bytes. -/
def offTrap (va : Dword) (off : Nat) : Trap := ⟨0x01, va, BitVec.ofNat 32 (0x100 + off)⟩

/-- The first trap of checks in order. -/
def firstTrap (cs : List (Option Trap)) : Option Trap := cs.findSome? id

/-- A command enters the unit's queue of 16, claiming free tiles; token forms add to their token (R281, R306). -/
def enqueue (i : Iss) (s : State) (op : MOp) (claims : List Nat) (token : Option (BitVec 3)) (rec : Bool) (shape : Nat × Nat := (0, 0)) : Eff :=
  let w := s.warp i.u
  if 16 ≤ (s.core w.core).mq.length then .wait none
  else
    let m : MCmd := ⟨op, w.core, w.block, s.gridOf w, i.u, w.ctx, match token with | some k => k.toNat | none => 8, rec, w.tag (i.n.headD 0), 0,
      false, none, none, none, [], 0, s.nextId, shape, s.targets w⟩
    let s : State := ({ s with nextId := s.nextId + 1 } : State).updCore w.core (fun c => { claims.foldl (fun c t => c.claim w.block t) c with mq := c.mq ++ [m] })
    let s : State := match token with | some k => s.updWarp i.u (fun w => w.tokAdd k.toNat 1) | none => s
    .ok (s.adv i)

/-- Tiles that another block owns: PROTECTION with the tile's number. -/
def tileTraps (c : Core) (block : Nat) (ts : List Nat) : List (Option Trap) :=
  ts.map (fun t => if c.foreign block t then some ⟨0x09, 0, BitVec.ofNat 32 t⟩ else none)

/-- The projected state that R305 asks of a tile. -/
def stateTrap (c : Core) (t : Nat) (clear : Bool) (want : Nat × Nat × Nat) : Option Trap :=
  let st := c.projected t
  if clear || st.1 == 0 || st == want then none else some ⟨0x01, 0, BitVec.ofNat 32 (0x500 + t)⟩

/-- Bytes from the first row of a strided operand to the end of its last. -/
def span (rows stride bytes : Nat) : Nat := if rows = 0 then 0 else (rows - 1) * stride + bytes

/-- The lowest offset at which an MMA block breaks R309. -/
def badMma (fmt : Nat) (r : List Byte) : Option Nat :=
  let f := field r
  let top := if fmt = 7 then 32 else 64
  let step := mStep fmt
  let tr := f 33 1 / 2 % 2 == 1
  firstBad [(0, f 0 8 % 16 == 0), (8, f 8 8 % 16 == 0), (16, f 16 4 % 16 == 0 && mFits fmt (f 28 4) (f 16 4)),
    (20, f 20 4 % 16 == 0 && mFits fmt (if tr then f 28 4 else f 26 2) (f 20 4)),
    (24, f 24 2 % 8 == 0 && 8 ≤ f 24 2 && f 24 2 ≤ top), (26, f 26 2 % 8 == 0 && 8 ≤ f 26 2 && f 26 2 ≤ top),
    (28, f 28 4 % step == 0 && step ≤ f 28 4 && f 28 4 ≤ 65536), (32, f 32 1 < 8), (33, f 33 1 < 4),
    (34, f 34 2 % step == 0 && f 34 2 < f 28 4), (36, f 36 28 == 0)]

/-- The scale registers of a command: each named, read in all 32 lane positions, absent ones at 2^0 (R310). -/
def scaleOf (w : Warp) (b : Nat) (k0 k1 : Nat) : Map Word :=
  (List.range (k1 - k0)).foldl (fun m j => (List.range 32).foldl (fun m l =>
    Map.put m ((k0 + j) * 32 + l) (if Map.has w.lanes l then (w.lane l).val (b + k0 + j) else 0x7F7F7F7F)) m) []

/-- MMA (R309, R310). -/
def mma (s : State) (fmt : Nat) (a b : BitVec 6) (token : BitVec 3) (rec : Bool) : Out :=
  issue s { matrixNeed [wait2 a] with named := if mScaled fmt then [b.toNat] else [] } (fun i s => withDescriptor i s a 64 64 (fun s va r =>
    let w := s.warp i.u
    let c := s.core w.core
    let f := field r
    let t := f 32 1
    let (m, n, k, start) := (f 24 2, f 26 2, f 28 4, f 34 2)
    let clear := f 33 1 % 2 == 1
    let tr := f 33 1 / 2 % 2 == 1
    match badMma fmt r with
    | some off => (offTrap va off).all
    | none =>
      let (k0, k1) := if mScaled fmt then (start / 32, k / 32) else (0, 0)
      let regs := (List.range (k1 - k0)).map (fun j => b.toNat + k0 + j)
      let rows := if tr then span n (f 20 4) (mBytes fmt k) else span k (f 20 4) (mBytes fmt n)
      match firstTrap (tileTraps c w.block [t] ++ [stateTrap c t clear (mKind fmt, m, n),
          if regs.any (fun x => !nameable (s.nregs w) x) then some ⟨0x01, 0, BitVec.ofNat 32 (0x200 + b.toNat)⟩ else none,
          if w.lanes.any (fun p => regs.any (fun x => p.2.isOrphan x)) then some ⟨0x03, 0, 0⟩ else none]) with
      | some x => x.all
      | none =>
        if w.lanes.any (fun p => regs.any (fun x => p.2.isEmpty x)) then .wait none
        else match firstTrap [s.rangeTrap w (BitVec.ofNat 64 (f 0 8)) (span m (f 16 4) (mBytes fmt k)),
            s.rangeTrap w (BitVec.ofNat 64 (f 8 8)) rows] with
          | some x => x.all
          | none => enqueue i s (.mma fmt (BitVec.ofNat 64 (f 0 8)) (BitVec.ofNat 64 (f 8 8)) (f 16 4) (f 20 4) m n k t clear tr start
              (scaleOf w b.toNat k0 k1)) [t] (some token) rec))

def execMmaE4m3 (a b : BitVec 6) (k : BitVec 3) (rec : Bool) (s : State) : Out := mma s 0 a b k rec

def execMmaE5m2 (a b : BitVec 6) (k : BitVec 3) (rec : Bool) (s : State) : Out := mma s 1 a b k rec

def execMmaE2m1 (a b : BitVec 6) (k : BitVec 3) (rec : Bool) (s : State) : Out := mma s 2 a b k rec

def execMmaS8 (a : BitVec 6) (k : BitVec 3) (rec : Bool) (s : State) : Out := mma s 3 a 0 k rec

def execMmaS4 (a : BitVec 6) (k : BitVec 3) (rec : Bool) (s : State) : Out := mma s 4 a 0 k rec

def execMmaBf16 (a : BitVec 6) (k : BitVec 3) (rec : Bool) (s : State) : Out := mma s 5 a 0 k rec

def execMmaF16 (a : BitVec 6) (k : BitVec 3) (rec : Bool) (s : State) : Out := mma s 6 a 0 k rec

def execMmaF64 (a : BitVec 6) (k : BitVec 3) (rec : Bool) (s : State) : Out := mma s 7 a 0 k rec

/-- The lowest offset at which an MMV block breaks R318 (DEDUCED, log entry 43). -/
def badMmv (r : List Byte) : Option Nat :=
  let f := field r
  let fmt := f 35 1
  let ok := fmt < 3 || fmt == 5 || fmt == 6
  let load := f 36 1 % 2 == 1
  firstBad [(0, f 0 8 % 16 == 0), (8, if load then f 8 8 % 16 == 0 else f 8 8 == 0), (16, fmt < 3 || f 16 8 == 0),
    (24, f 24 4 % 16 == 0 && (!ok || mFits fmt (f 30 2) (f 24 4))), (28, 1 ≤ f 28 2 && f 28 2 ≤ 512),
    (30, 1 ≤ f 30 2 && f 30 2 ≤ 512 && (!ok || f 30 2 % mStep fmt == 0)), (32, f 32 1 < 8), (33, f 33 1 < 8 && f 33 1 != f 32 1),
    (34, 1 ≤ f 34 1 && f 34 1 ≤ 8), (35, ok), (36, f 36 1 < 4), (37, f 37 27 == 0)]

/-- MMV (R318). -/
def execMmv (a : BitVec 6) (k : BitVec 3) (rec : Bool) (s : State) : Out :=
  issue s (matrixNeed [wait2 a]) (fun i s => withDescriptor i s a 64 64 (fun s va r =>
    let w := s.warp i.u
    let c := s.core w.core
    let f := field r
    let (fmt, rows, cols, vt, yt, v) := (f 35 1, f 28 2, f 30 2, f 32 1, f 33 1, f 34 1)
    let load := f 36 1 % 2 == 1
    let clear := f 36 1 / 2 % 2 == 1
    let p (off : Nat) : Dword := BitVec.ofNat 64 (f off 8)
    match badMmv r with
    | some off => (offTrap va off).all
    | none =>
      match firstTrap (tileTraps c w.block [vt, yt] ++ [
          if load || c.projected vt == (4, v, cols) then none else some ⟨0x01, 0, BitVec.ofNat 32 (0x500 + vt)⟩,
          stateTrap c yt clear (1, v, rows), s.rangeTrap w (p 0) (span rows (f 24 4) (mBytes fmt cols)),
          if load then s.rangeTrap w (p 8) (4 * v * cols) else none,
          if mScaled fmt then s.rangeTrap w (p 16) (rows * (cols / 32)) else none]) with
      | some x => x.all
      | none => enqueue i s (.mmv fmt (p 0) (p 8) (p 16) (f 24 4) rows cols vt yt v load clear) [vt, yt] (some k) rec))

/-- Bytes of an output element, in half bytes (R316). -/
def outNibbles (fmt : Nat) : Nat := match fmt with | 0 | 6 => 8 | 1 | 2 => 4 | 3 | 4 | 7 => 2 | 5 => 1 | _ => 16

/-- Whether a tile's kind allows an output format (R316). -/
def drainAllowed (kind fmt : Nat) : Bool :=
  match kind with
  | 1 | 4 => fmt < 6
  | 2 => fmt == 6 || fmt == 7
  | 3 => fmt == 8
  | _ => false

/-- The lowest offset at which a drain block breaks R315, its tile's projected kind and columns given; what a wrong format leaves unsaid, and the
columns of a tile that is none, break nothing (DEDUCED, log entry 43). -/
def badDrain (r : List Byte) (kind n : Nat) : Option Nat :=
  let f := field r
  let fmt := f 13 1
  let size := max 1 (outNibbles fmt / 2)
  let mode := f 14 1
  let bit (k : Nat) : Bool := mode / 2 ^ k % 2 == 1
  firstBad [(0, 9 ≤ fmt || f 0 8 % size == 0), (8, 9 ≤ fmt || (f 8 4 % size == 0 && (8 ≤ f 12 1 || n * outNibbles fmt ≤ 2 * f 8 4))),
    (12, f 12 1 < 8 && kind != 0), (13, fmt < 9 && (8 ≤ f 12 1 || kind == 0 || (drainAllowed kind fmt && (fmt != 5 || n % 2 == 0)))),
    (14, mode < 8 && (!bit 0 || fmt == 0 || fmt == 6 || fmt == 8) && (!(bit 1 || bit 2) || fmt < 6)),
    (15, if bit 1 then 1 ≤ f 15 1 && f 15 1 ≤ 4 else f 15 1 == 0), (16, if bit 1 then f 16 8 % 4 == 0 else f 16 8 == 0),
    (24, !bit 2 || f 24 1 != 255), (25, f 25 7 == 0)]

/-- DRAIN (R315). -/
def execDrain (a : BitVec 6) (k : BitVec 3) (rec : Bool) (s : State) : Out :=
  issue s (matrixNeed [wait2 a]) (fun i s => withDescriptor i s a 32 32 (fun s va r =>
    let w := s.warp i.u
    let c := s.core w.core
    let f := field r
    let (t, fmt, mode) := (f 12 1, f 13 1, f 14 1)
    let (kind, m, n) := c.projected t
    match badDrain r kind n with
    | some off => (offTrap va off).all
    | none =>
      match firstTrap (tileTraps c w.block [t] ++ [s.rangeTrap w (BitVec.ofNat 64 (f 0 8)) (span m (f 8 4) (n * outNibbles fmt / 2)),
          if mode / 2 % 2 = 1 then s.rangeTrap w (BitVec.ofNat 64 (f 16 8)) 4 else none]) with
      | some x => x.all
      | none => enqueue i s (.drain (BitVec.ofNat 64 (f 0 8)) (f 8 4) t fmt (mode % 2 == 1) (mode / 2 % 2 == 1) (mode / 4 % 2 == 1) (f 15 1)
          (BitVec.ofNat 64 (f 16 8)) (f 24 1)) [] (some k) rec (m, n)))

/-- MACLR (R320): no token. -/
def execMaclr (t : BitVec 6) (s : State) : Out :=
  issue s (matrixNeed []) (fun i s =>
    let w := s.warp i.u
    match firstTrap (tileTraps (s.core w.core) w.block [t.toNat]) with
    | some x => x.all
    | none => enqueue i s (.maclr t.toNat) [t.toNat] none false)

/-- Whether a command of the tile's owner names the tile: 2 one queued or running, 3 the running one awaits fault service (R321). -/
def State.tileState (s : State) (core t : Nat) : Nat :=
  let cs := ((s.core core).mq ++ (s.drains.filter (fun d => d.2.core == core)).map (·.2)).filter (fun m =>
    m.op.tiles.contains t && ((s.core core).tile t).owner == some m.block)
  if cs.isEmpty then 1 else if cs.any (fun m => m.fault.isSome) then 3 else 2

/-- The MSTAT word (R321) (DEDUCED, log entry 34). -/
def State.mstat (s : State) (core t : Nat) : Word :=
  let x := (s.core core).tile t
  if x.owner.isNone then 0
  else BitVec.ofNat 32 (s.tileState core t * 2 ^ 28 + ((s.core core).projected t).1 * 2 ^ 24 + x.status * 2 ^ 20 + x.progress % 2 ^ 17)

def execMstat (d t : BitVec 6) (s : State) : Out :=
  issue s { engineNeed [] [d.toNat] false with scc := false, perWarp := false } (fun i s =>
    let w := s.warp i.u
    match firstTrap (tileTraps (s.core w.core) w.block [t.toNat]) with
    | some x => x.all
    | none => .ok ((s.deliverAll i [d] (s.mstat w.core t.toNat).toNat).adv i))

/-! ### Commands as they run (R307, R311, R313, R317, R319, R322) -/

/-- Rows of an operand: `n` rows of `len` bytes, `stride` apart. -/
def State.operand (s : State) (m : MCmd) (base : Dword) (stride n len : Nat) : List (List Byte) ⊕ Trap :=
  (List.range n).foldr (fun j acc => match s.engineRead m.eng (vaRange (base + BitVec.ofNat 64 (j * stride)) len), acc with
    | .inl r, .inl rs => .inl (r :: rs)
    | .inr t, _ => .inr t
    | _, .inr t => .inr t) (.inl [])

/-- Joins two reads. -/
def bothRead {α β : Type} (a : α ⊕ Trap) (b : β ⊕ Trap) : (α × β) ⊕ Trap :=
  match a, b with
  | .inl x, .inl y => .inl (x, y)
  | .inr t, _ => .inr t
  | _, .inr t => .inr t

/-- A row of a list of rows. -/
def rowAt (rs : List (List Byte)) (i : Nat) : List Byte := rs.getD i []

/-- A scale code of an MMA: byte x & 3 of lane base + (x >> 2) of the register of the K-block (R311). -/
def scaleCode (fmt : Nat) (scales : Map Word) (base x k : Nat) : Nat :=
  if mScaled fmt then (Map.getD scales (k / 32 * 32 + base + x / 4) 0).toNat / 256 ^ (x % 4) % 256 else 127

/-- A tile with an element changed. -/
def Tile.putElem (t : Tile) (i j : Nat) (v : BitVec 64) : Tile := { t with elems := Map.setD t.elems (i * t.cols + j) v 0 }
def Tile.elem (t : Tile) (i j : Nat) : BitVec 64 := Map.getD t.elems (i * t.cols + j) 0

/-- Changes every element of the first m × n. -/
def Tile.mapElems (t : Tile) (m n : Nat) (f : Nat → Nat → BitVec 64 → BitVec 64) : Tile :=
  (List.range m).foldl (fun x i => (List.range n).foldl (fun x j => x.putElem i j (f i j (t.elem i j))) x) t

/-- A tile as a command finds it when it starts (R305). -/
def Tile.begin (t : Tile) (clear : Bool) (kind rows cols : Nat) : Tile :=
  if clear || t.kind = 0 then { t with kind := kind, rows := rows, cols := cols, elems := [] } else t

/-- One K-step or weight row of the running command: the core's tiles after it and the bytes read, or the trap. -/
def State.matrixStep (s : State) (c : Core) (m : MCmd) : (Core × Nat) ⊕ Trap :=
  match m.op with
  | .mma fmt a b sa sb mm n _ t _ tr start scales =>
    let step := mStep fmt
    let k0 := if m.started then m.row else start
    let off (n : Nat) : Dword := BitVec.ofNat 64 (mBytes fmt n)
    let as := s.operand m (a + off k0) sa mm (mBytes fmt step)
    let bs := if tr then s.operand m (b + off k0) sb n (mBytes fmt step)
      else s.operand m (b + BitVec.ofNat 64 (k0 * sb)) sb step (mBytes fmt n)
    match bothRead as bs with
    | .inr x => .inr x
    | .inl (ra, rb) =>
      let tile := (c.tile t).mapElems mm n (fun i j old => kStep fmt old ((List.range step).map (fun k =>
        (mElem fmt (rowAt ra i) k, if tr then mElem fmt (rowAt rb j) k else mElem fmt (rowAt rb k) j,
          scaleCode fmt scales 0 i (k0 + k), scaleCode fmt scales 16 j (k0 + k)))))
      .inl (c.setTile t { tile with progress := k0 + step }, (mm + n) * mBytes fmt step)
  | .mmv fmt w _ sc stride _ cols vt yt v _ _ =>
    let r := m.row
    let ws := s.operand m (w + BitVec.ofNat 64 (r * stride)) stride 1 (mBytes fmt cols)
    let ss := if mScaled fmt then s.operand m (sc + BitVec.ofNat 64 (r * (cols / 32))) 0 1 (cols / 32) else .inl []
    match bothRead ws ss with
    | .inr x => .inr x
    | .inl (rw, rs) =>
      let x := c.tile vt
      let step := mStep fmt
      let code (j : Nat) : Nat := if mScaled fmt then ((rowAt rs 0).getD (j / 32) 0).toNat else 127
      let y := (List.range v).foldl (fun (y : Tile) i => y.putElem i r ((List.range (cols / step)).foldl (fun (acc : BitVec 64) q =>
        BitVec.ofNat 64 (fsum f32 acc.toNat ((List.range step).map (fun e =>
          let j := q * step + e
          ((mVal fmt (mElem fmt (rowAt rw 0) j)).times (f32.unpack false (x.elem i j).toNat)).e8m0 (code j))))) (y.elem i r))) (c.tile yt)
      .inl ((c.setTile yt { y with progress := r + 1 }).setTile vt { x with progress := r + 1 },
        mBytes fmt cols + (if mScaled fmt then cols / 32 else 0))
  | _ => .inl (c, 0)

/-- The tiles as a command that starts makes them, before MMV's vectors arrive: kind, shape and row progress (R305, R321). -/
def Core.matrixMark (c : Core) (m : MCmd) : Core :=
  match m.op with
  | .mma fmt _ _ _ _ mm n _ t clear _ start _ => c.setTile t { (c.tile t).begin clear (mKind fmt) mm n with progress := start }
  | .mmv _ _ _ _ _ rows cols vt yt v load clear =>
    (c.setTile yt { (c.tile yt).begin clear 1 v rows with progress := 0 }).setTile vt
      (if load then { c.tile vt with kind := 4, rows := v, cols := cols, elems := [], progress := 0 } else { c.tile vt with progress := 0 })
  | _ => c

/-- A command's start: its tiles take their kind; MMV loads its vectors (R305, R319). -/
def State.matrixBegin (s : State) (c : Core) (m : MCmd) : (Core × Nat) ⊕ Trap :=
  let c := c.matrixMark m
  match m.op with
  | .mmv _ _ vec _ _ _ cols vt _ v true _ =>
    (match s.operand m vec (4 * cols) v (4 * cols) with
    | .inr t => .inr t
    | .inl rs =>
      .inl (c.setTile vt ((c.tile vt).mapElems v cols (fun i j _ => BitVec.ofNat 64 (leNat (((rowAt rs i).drop (4 * j)).take 4)))), 4 * v * cols))
  | _ => .inl (c, 0)

/-- A command that ends before it has started still gives its tiles their kind and shape, as R305 has them projected; vectors that were not
loaded are free values (DESIGN CHOICE, log entry 97). -/
def State.matrixFailed (s : State) (m : MCmd) : State :=
  let s : State := s.updCore m.core (fun c => if m.op.tiles.all (fun t => (c.tile t).owner == some m.block) then c.matrixMark m else c)
  match m.op with
  | .mmv _ _ _ _ _ _ cols vt _ v true _ =>
    { s.updCore m.core (fun c => if (c.tile vt).owner == some m.block then
        c.setTile vt ((c.tile vt).mapElems v cols (fun i j _ => (lo32 (Config.freeValue (s.free + i * cols + j))).setWidth 64)) else c) with
      free := s.free + v * cols }
  | _ => s

/-- The last row number of a command. -/
def MOp.rowsEnd : MOp → Nat
  | .mma _ _ _ _ _ _ _ k _ _ _ _ _ => k
  | .mmv _ _ _ _ _ rows _ _ _ _ _ _ => rows
  | _ => 0

/-- The row that a command starts at, and the rows of one step. -/
def MOp.first : MOp → Nat
  | .mma _ _ _ _ _ _ _ _ _ _ _ start _ => start
  | _ => 0

def MOp.step : MOp → Nat
  | .mma fmt _ _ _ _ _ _ _ _ _ _ _ _ => mStep fmt
  | _ => 1

def MOp.isMul : MOp → Bool
  | .mma _ _ _ _ _ _ _ _ _ _ _ _ _ => true
  | .mmv _ _ _ _ _ _ _ _ _ _ _ _ => true
  | _ => false

/-- Bytes of a row that a DRAIN writes. -/
def MCmd.rowBytes (m : MCmd) : Nat :=
  match m.op with
  | .drain _ _ _ fmt _ _ _ _ _ _ => m.shape.2 * outNibbles fmt / 2
  | _ => 0

/-- Addresses of row j of a DRAIN's destination. -/
def MCmd.rowVas (m : MCmd) (j : Nat) : List Dword :=
  match m.op with
  | .drain dst stride _ _ _ _ _ _ _ _ => vaRange (dst + BitVec.ofNat 64 (j * stride)) m.rowBytes
  | _ => []

/-- Whether a DRAIN of the core has rows of the tile still to read (R306). -/
def State.beingRead (s : State) (core t : Nat) : Bool :=
  s.drains.any (fun d => d.2.core == core && d.2.op.tiles.contains t && d.2.status.isNone && d.2.row < d.2.shape.1)

/-- Lines of the addresses, as a command finds them, whatever the rights. -/
def State.linesAt (s : State) (m : MCmd) (vas : List Dword) : List Nat :=
  (vas.filterMap (fun va => match s.enginePlace m.eng va false false with | .inl k => some (k / 256) | .inr _ => none)).eraseDups

/-- Lines that a DRAIN has still to write, unless it has ended, or has written without an acknowledgement. -/
def State.drainLines (s : State) (d : MCmd) : List Nat :=
  (if d.status.isSome then [] else s.linesAt d ((List.range (d.shape.1 - d.row)).foldl (fun l j => l ++ d.rowVas (d.row + j)) [])) ++
    d.writes.foldl (fun l k => match Map.get? s.reqs k with
      | some (.store t) => if t.stage == .issued then l ++ linesOf t.cells else l
      | _ => l) []

/-- Addresses that the next step of a command reads. -/
def MCmd.reads (m : MCmd) : List Dword :=
  let rows (base : Dword) (stride n len : Nat) : List Dword :=
    (List.range n).foldl (fun l j => l ++ vaRange (base + BitVec.ofNat 64 (j * stride)) len) []
  match m.op with
  | .mma fmt a b sa sb mm n _ _ _ tr start _ =>
    let k0 := if m.started then m.row else start
    rows (a + BitVec.ofNat 64 (mBytes fmt k0)) sa mm (mBytes fmt (mStep fmt)) ++
      (if tr then rows (b + BitVec.ofNat 64 (mBytes fmt k0)) sb n (mBytes fmt (mStep fmt))
        else rows (b + BitVec.ofNat 64 (k0 * sb)) sb (mStep fmt) (mBytes fmt n))
  | .mmv fmt w vec sc stride _ cols _ _ v load _ =>
    vaRange (w + BitVec.ofNat 64 (m.row * stride)) (mBytes fmt cols) ++
      (if mScaled fmt then vaRange (sc + BitVec.ofNat 64 (m.row * (cols / 32))) (cols / 32) else []) ++
      (if load && !m.started then vaRange vec (4 * v * cols) else [])
  | _ => []

/-- Whether a command's reads meet a line that an earlier, incomplete DRAIN of the unit writes, be it one that has not started (R307). -/
def State.heldByDrain (s : State) (m : MCmd) (vas : List Dword) : Bool :=
  let all := (s.drains.map (·.2)).filter (fun d => d.core == m.core) ++ (s.core m.core).mq.filter (fun d => !d.op.isMul)
  let ds := all.filter (fun d => d.seq < m.seq)
  if ds.isEmpty then false
  else
    let mine := s.linesAt m vas
    ds.any (fun d => (s.drainLines d).any (fun x => mine.contains x))

/-- The MMA or MMV that runs: the first of the queue, past DRAINs of other tiles that wait to start (R306); what stands before it, it, and what
stands after it. -/
def mulHead : List MCmd → List MCmd → Option (List MCmd × MCmd × List MCmd)
  | _, [] => none
  | pre, m :: rest =>
    match m.op with
    | .drain _ _ _ _ _ _ _ _ _ _ => mulHead (pre ++ [m]) rest
    | .maclr _ => none
    | _ => if pre.any (fun d => d.op.tiles.any m.op.tiles.contains) then none else some (pre, m, rest)

/-- Whether a command has nothing left but to complete. -/
def MCmd.over (m : MCmd) : Bool := m.status.isSome || (m.started && m.fault.isNone && m.op.rowsEnd ≤ m.row)

/-- Whether the MMA or MMV that runs can go on, or complete. -/
def State.kstepReady (s : State) (core : Nat) : Bool :=
  match mulHead [] (s.core core).mq with
  | some (_, m, _) => if m.over then s.recordRoom core m.record (m.status.getD 0)
      else m.fault.isNone && !s.resting m.block && !(m.op.tiles.any (s.beingRead core)) && !s.heldByDrain m m.reads &&
        !s.atomsDue m.eng m.reads
  | none => false

/-- What a matrix command's completion leaves: its record, the status of its tiles, its token (R322). -/
def State.matrixDone (s : State) (m : MCmd) : State :=
  let st := m.status.getD 0
  let s : State := s.postIf m.core m.record 3 3 st m.tag m.bytes
  let s : State := s.updCore m.core (fun c => m.op.tiles.foldl (fun c t =>
    if (c.tile t).owner == some m.block then c.setTile t { c.tile t with status := st } else c) c)
  (((s.countEngine m.grid [0x05, 0x06, 0x07, 0x08]).tokenDone m.warp m.token).freeTiles m.core).sweep

/-- The command after a trap of its reads or writes: it stops for service, or ends (R313); one whose window's block is saved waits. -/
def State.mStop (s : State) (m : MCmd) (t : Trap) : MCmd :=
  if s.engineWaits m.eng t then m
  else match engineStatus t with
    | none => { m with fault := some (t.cause, t.addr) }
    | some x => { m with status := some x }

/-- MMA_KSTEP_END (R311, R319, R322): the next K-step or row of the command that runs; past its last, its completion. -/
def execMmaKstepEnd (core : Nat) (s : State) : Out :=
  .next (match s.kstepReady core, mulHead [] (s.core core).mq with
    | true, some (pre, m, rest) =>
      if m.over then ((if m.started then s else s.matrixFailed m).updCore core (fun c => { c with mq := pre ++ rest })).matrixDone m
      else
        let put (s : State) (c : Core) (m : MCmd) : State := s.setCore core { c with mq := pre ++ m :: rest }
        match (if m.started then .inl (s.core core, 0) else s.matrixBegin (s.core core) m) with
        | .inr t => put s ((s.core core).matrixMark m) (s.mStop m t)
        | .inl (c, n) =>
          let row := if m.started then m.row else m.op.first
          match s.matrixStep c m with
          | .inr t =>
            -- the tiles stand as the command started; a later try starts from its own row
            put s c (s.mStop { m with started := true, row := row, bytes := m.bytes + n } t)
          | .inl (c, n') =>
            let t : State := put s c { m with started := true, row := row + m.op.step, bytes := m.bytes + n + n' }
            (t.engineTouch m.eng false m.reads true).count m.grid 0x15 m.op.step
    | _, _ => s)

/-- MACLR_AT_HEAD (R320). -/
def execMaclrAtHead (core : Nat) (s : State) : Out :=
  .next (match (s.core core).mq with
    | m :: rest => match m.op with
      | .maclr t =>
        if s.beingRead core t then s
        else ((s.updCore core (fun c => { c.setTile t { c.tile t with kind := 0, rows := 0, cols := 0, elems := [] } with mq := rest })).freeTiles
          core).sweep
      | _ => s
    | [] => s)

/-- The first DRAIN of the queue with no earlier command on its tile, queued or still reading it: the commands before it, it, those after it
(R306). -/
def startable (busy : Nat → Bool) : List MCmd → List MCmd → Option (List MCmd × MCmd × List MCmd)
  | _, [] => none
  | pre, m :: rest =>
    match m.op with
    | .drain _ _ t _ _ _ _ _ _ _ =>
      if busy t || pre.any (fun p => p.op.tiles.contains t) then startable busy (pre ++ [m]) rest else some (pre, m, rest)
    | _ => startable busy (pre ++ [m]) rest

def State.drainHead (s : State) (core : Nat) : Option (List MCmd × MCmd × List MCmd) := startable (s.beingRead core) [] (s.core core).mq

/-- DRAIN_START (R306): the command leaves the queue for the drain pipe. -/
def execDrainStart (core : Nat) (s : State) : Out :=
  .next (match s.drainHead core with
    | some (pre, m, rest) =>
      { s.updCore core (fun c => { c with mq := pre ++ rest }) with drains := Map.put s.drains s.nextId { m with started := true }, nextId := s.nextId + 1 }
    | none => s)

/-- An F32 element converted for output (R35, R316). -/
def drainBits (fmt : Nat) (v : Nat) : Nat :=
  let e : FEnv := .plain
  match fmt with
  | 0 => if (f32.unpack false v).isNan then f32.nanBits else v
  | 1 => (toFloat f32 bf16 e false v).bits
  | 2 => (toFloat f32 f16 e false v).bits
  | 3 => Narrow.e4m3.ofF32 v
  | 4 => Narrow.e5m2.ofF32 v
  | 5 => Narrow.e2m1.ofF32 v
  | 7 =>
    let x := (BitVec.ofNat 32 v).toInt
    ((if x < -128 then -128 else if 127 < x then 127 else x) % 256).toNat
  | _ => v

/-- v × 2^(127 − e) (R317). -/
def unscale (v e : Nat) : Nat :=
  match f32.unpack false v with
  | .fin n m x => (f32.round .rne false n m (x + 127 - (e : Int))).bits
  | .inf n => f32.signBit n + f32.infBits
  | .nan _ => f32.nanBits

/-- One row of a DRAIN (R317): the bytes written and the running absolute maximum. -/
def drainRow (op : MOp) (t : Tile) (m : Nat) (old : List Byte) (amx : Option Word) : List Byte × Option Word :=
  match op with
  | .drain _ _ _ fmt accum absmax scale _ _ e =>
    let size := outNibbles fmt / 2
    let step (acc : List Nat × Option Word) (n : Nat) : List Nat × Option Word :=
      let v := (t.elem m n).toNat
      let v := if scale then unscale v e else v
      let amx := if absmax then some (match acc.2 with
        | some a => scopeOp 13 a (BitVec.ofNat 32 v)
        | none => BitVec.ofNat 32 v) else acc.2
      let o := leNat ((old.drop (n * size)).take size)
      let v := if !accum then v else if fmt = 6 then (o + v) % 2 ^ 32 else if fmt = 8 then (f64.add .plain o v).bits else (f32.add .plain o v).bits
      (acc.1 ++ [drainBits fmt v], amx)
    let (vs, amx) := (List.range t.cols).foldl step ([], amx)
    (if fmt = 5 then (List.range (t.cols / 2)).map (fun i => BitVec.ofNat 8 (vs.getD (2 * i) 0 + 16 * vs.getD (2 * i + 1) 0))
      else vs.foldl (fun bs v => bs ++ leBytes size v) [], amx)
  | _ => ([], amx)

/-- What a DRAIN under way does next: a row, its AMAX, or its completion. -/
inductive DrainNext where
  | row
  | amax
  | done
  deriving DecidableEq, Repr

def MCmd.drainNext (d : MCmd) : DrainNext :=
  if d.status.isSome then .done
  else if d.row < d.shape.1 then .row
  else match d.op with
    | .drain _ _ _ _ _ absmax _ _ _ _ => if absmax && d.amx.isSome then .amax else .done
    | _ => .done

/-- Whether a DRAIN reads its destination, to add to it (R315). -/
def MCmd.accumulates (d : MCmd) : Bool := match d.op with | .drain _ _ _ _ accum _ _ _ _ _ => accum | _ => false

/-- Whether a DRAIN under way can go on: it completes once every write is acknowledged and its AMAX is performed. -/
def State.drainReady (s : State) (k : Nat) : Bool :=
  match Map.get? s.drains k with
  | some d => match d.drainNext with
    | .done => (d.status.isSome || (s.writesAcked d.writes && d.writes.all (fun x => match Map.get? s.reqs x with | some (.atom _) => false | _ => true))) &&
        s.recordRoom d.core d.record (d.status.getD 0)
    | .row => d.fault.isNone && !s.resting d.block && !(d.accumulates && (s.heldByDrain d (d.rowVas d.row) || s.atomsDue d.eng (d.rowVas d.row)))
    | .amax => d.fault.isNone && !s.resting d.block
  | none => false

def State.setDrain (s : State) (k : Nat) (d : MCmd) : State := { s with drains := Map.put s.drains k d }

/-- The places of a row, readable too where the DRAIN accumulates. -/
def State.rowPlaces (s : State) (d : MCmd) (vas : List Dword) (rd : Bool) : List Nat ⊕ Trap :=
  vas.foldr (fun va acc => match s.enginePlace d.eng va rd true, acc with
    | .inl k, .inl ks => .inl (k :: ks)
    | .inr t, _ => .inr t
    | _, .inr t => .inr t) (.inl [])

/-- DRAIN_COMPLETE (R313, R317, R322): one row, the AMAX after the last, then completion. -/
def execDrainComplete (k : Nat) (s : State) : Out :=
  .next (match s.drainReady k, Map.get? s.drains k with
    | true, some d =>
      match d.drainNext, d.op with
      | .done, _ => ({ s with drains := Map.del s.drains k } : State).matrixDone d
      | .row, .drain _ _ t _ accum _ _ _ _ _ =>
        (match s.rowPlaces d (d.rowVas d.row) accum with
        | .inr x => s.setDrain k (s.mStop d x)
        | .inl ks =>
          let old := if accum then ks.map (s.dieByte d.core) else []
          let (bs, amx) := drainRow d.op ((s.core d.core).tile t) d.row old d.amx
          let (ws, s) := ((s.engineTouch d.eng false (d.rowVas d.row) accum).noteEngine d.core d.warp ks).engineWrite 3 d.core d.block d.grid d.ctx
            ((ks.zip bs).foldl (fun m p => Map.put m p.1 p.2) [])
          s.setDrain k { d with row := d.row + 1, amx := amx, writes := d.writes ++ ws, bytes := d.bytes + d.rowBytes })
      | .amax, .drain _ _ _ _ _ _ _ scope amax _ =>
        (match s.rowPlaces d (vaRange amax 4) true with
        | .inr x => s.setDrain k (s.mStop d x)
        | .inl ks =>
          let a : Atom := ⟨3, d.core, 0, 0, d.block, d.grid, d.ctx, 16, scope, none, [⟨0, ks.headD 0, (d.amx.getD 0).setWidth 64, 0, 0⟩], 1, [], [], [], 0, 0, 0, false, 0⟩
          let t : State := (s.engineTouch d.eng false [amax] false).noteEngine d.core d.warp ks
          (t.addReq (.atom a)).setDrain k { d with amx := none, writes := d.writes ++ [t.nextId] })
      | _, _ => s
    | _, _ => s)

end Sys2Proof.Machine
end

