-- ==== Sys2Proof/Machine/Keccak.lean ====
section
/-! DEFINITION. SHAKE256, the digest of a parcel's body and the hash of the signature scheme (R323, R422). The spec names the function; its
definition is that of FIPS 202 (PRESUMED, log entry 98). The sponge's state is one number of 1,600 bits, whose lane (x, y) starts at bit
64(x + 5y), so that a block of bytes is laid into it as the little-endian number that it is. -/

namespace Sys2Proof.Machine

abbrev Sponge := BitVec 1600

/-- Lane (x, y), coordinates taken mod 5, and the state with given lanes. -/
def Sponge.lane (a : Sponge) (x y : Nat) : Dword := a.extractLsb' (64 * (x % 5 + 5 * (y % 5))) 64
def Sponge.ofLanes (f : Nat → Nat → Dword) : Sponge :=
  (List.range 25).foldl (fun a i => a ||| ((f (i % 5) (i / 5)).setWidth 1600 <<< (64 * i))) 0

/-- How far rho turns each lane: the walk (x, y) → (y, 2x + 3y) from (1, 0) meets every lane but (0, 0), the step t with a turn by
(t + 1)(t + 2) / 2. -/
def rhoWalk : Nat → Nat → Nat → Nat → List ((Nat × Nat) × Nat)
  | 0, _, _, _ => []
  | n + 1, t, x, y => ((x, y), (t + 1) * (t + 2) / 2 % 64) :: rhoWalk n (t + 1) y ((2 * x + 3 * y) % 5)

def rhoTurns : List ((Nat × Nat) × Nat) := rhoWalk 24 0 1 0
def rho (x y : Nat) : Nat := ((rhoTurns.find? (fun p => p.1 == (x % 5, y % 5))).map (·.2)).getD 0

/-- Output bits of iota's shift register of 8 bits. -/
def iotaBits : Nat → Nat → List Bool
  | 0, _ => []
  | n + 1, r => (r % 2 == 1) :: iotaBits n (if 128 ≤ r then (2 * r % 256) ^^^ 0x71 else 2 * r)

/-- The constant of each round: seven bits of the register, at the places 2^j - 1. -/
def iotas : List Dword :=
  (List.range 24).map (fun i => (((iotaBits 168 1).drop (7 * i)).take 7).zipIdx.foldl (fun (c : Dword) p =>
    if p.1 then c ||| (1 <<< (2 ^ p.2 - 1)) else c) 0)

/-- Theta: each lane with the parities of the column before it and of the column after it, turned by 1. -/
def Sponge.theta (a : Sponge) : Sponge :=
  let parity (x : Nat) : Dword := a.lane x 0 ^^^ a.lane x 1 ^^^ a.lane x 2 ^^^ a.lane x 3 ^^^ a.lane x 4
  let mix := (List.range 5).map (fun x => parity (x + 4) ^^^ (parity (x + 1)).rotateLeft 1)
  .ofLanes (fun x y => a.lane x y ^^^ mix.getD x 0)

/-- Rho and pi: lane (x, y) is lane (x + 3y, x), turned. -/
def Sponge.turn (a : Sponge) : Sponge := .ofLanes (fun x y => (a.lane (x + 3 * y) x).rotateLeft (rho (x + 3 * y) x))

/-- Chi. -/
def Sponge.chi (a : Sponge) : Sponge := .ofLanes (fun x y => a.lane x y ^^^ (a.lane (x + 2) y &&& ~~~ a.lane (x + 1) y))

/-- The permutation of 24 rounds, each with its iota. -/
def Sponge.permute (a : Sponge) : Sponge := iotas.foldl (fun a c => a.theta.turn.chi ^^^ c.setWidth 1600) a

/-- The state after a message of bytes in blocks of 136, the last with the padding: 0x1F after the message, 0x80 in the block's last byte. -/
def Sponge.absorb : Nat → Sponge → List Byte → Sponge
  | 0, a, bs => (a ^^^ BitVec.ofNat 1600 (leNat bs + 0x1F * 256 ^ bs.length) ^^^ (0x80 <<< 1080)).permute
  | n + 1, a, bs => Sponge.absorb n (a ^^^ BitVec.ofNat 1600 (leNat (bs.take 136))).permute (bs.drop 136)

/-- The first n bytes, at most 136, that SHAKE256 gives for a message. -/
def shakeBytes (n : Nat) (bs : List Byte) : List Byte := leBytes n (Sponge.absorb (bs.length / 136) 0 bs).toNat

/-- The first 32 bytes as a number, the first byte lowest. -/
def shake256 (bs : List Byte) : BitVec 256 := BitVec.ofNat 256 (leNat (shakeBytes 32 bs))

end Sys2Proof.Machine
end

