-- ==== Sys2Proof/Machine/Signature.lean ====
section
/-! DEFINITION. The signature check of a code image: SLH-DSA-SHAKE-256s (R323, R422). The spec names the scheme; its definition is that of FIPS
205, over the message itself with an empty context string (PRESUMED, log entry 98). Sizes: n = 32 bytes, 8 layers of Merkle trees of height 8,
Winternitz chains of 16 values, 67 to a key, and 22 trees of height 14 for the message. -/

namespace Sys2Proof.Machine

/-- The n low bytes of a number, the first byte highest. -/
def beBytes (n v : Nat) : List Byte := (leBytes n v).reverse
def beNat (bs : List Byte) : Nat := leNat bs.reverse

/-- Piece i of a list of pieces of 32 bytes. -/
def piece (bs : List Byte) (i : Nat) : List Byte := (bs.drop (32 * i)).take 32

/-- What a hash of the scheme is for: layer, tree, type of the address, and its three words. -/
structure SlhAdrs where
  layer : Nat
  tree : Nat
  kind : Nat
  key : Nat
  a : Nat
  b : Nat
  deriving DecidableEq, Repr

def SlhAdrs.bytes (x : SlhAdrs) : List Byte :=
  beBytes 4 x.layer ++ beBytes 12 x.tree ++ beBytes 4 x.kind ++ beBytes 4 x.key ++ beBytes 4 x.a ++ beBytes 4 x.b

/-- The tweaked hash of a list of pieces. -/
def slhHash (seed : List Byte) (x : SlhAdrs) (m : List Byte) : List Byte := shakeBytes 32 (seed ++ x.bytes ++ m)

/-- Digits of w bits of a string of bytes, the first highest. -/
def slhDigits (w n : Nat) (bs : List Byte) : List Nat :=
  let v := beNat bs
  (List.range n).map (fun i => v / 2 ^ (8 * bs.length - w * (i + 1)) % 2 ^ w)

/-- The root that a leaf and the siblings above it give; `ix` counts the leaves of the tree's level. -/
def slhClimb (seed : List Byte) (x : SlhAdrs) (ix : Nat) (leaf : List Byte) (siblings : List (List Byte)) : List Byte :=
  siblings.zipIdx.foldl (fun v p =>
    slhHash seed { x with a := p.2 + 1, b := ix / 2 ^ (p.2 + 1) } (if ix / 2 ^ p.2 % 2 = 0 then v ++ p.1 else p.1 ++ v)) leaf

/-- A Winternitz key from its signature of 32 bytes: each chain goes on from its digit to 15. -/
def slhChains (seed : List Byte) (x : SlhAdrs) (sig m : List Byte) : List Byte :=
  let ds := slhDigits 4 64 m
  let sum := ds.foldl (fun n d => n + (15 - d)) 0
  let ds := ds ++ [sum / 256, sum / 16 % 16, sum % 16]
  let tops := ds.zipIdx.map (fun p => (List.range (15 - p.1)).foldl (fun v j =>
    slhHash seed { x with kind := 0, a := p.2, b := p.1 + j } v) (piece sig p.2))
  slhHash seed { x with kind := 1, a := 0, b := 0 } tops.flatten

/-- The root of a tree of one layer from a signature in it. -/
def slhTree (seed : List Byte) (layer tree leaf : Nat) (sig m : List Byte) : List Byte :=
  slhClimb seed ⟨layer, tree, 2, 0, 0, 0⟩ leaf (slhChains seed ⟨layer, tree, 0, leaf, 0, 0⟩ sig m)
    ((List.range 8).map (fun j => piece sig (67 + j)))

/-- The key of the message's 22 trees from their part of the signature. -/
def slhForest (seed : List Byte) (tree leaf : Nat) (sig md : List Byte) : List Byte :=
  let x : SlhAdrs := ⟨0, tree, 3, leaf, 0, 0⟩
  let roots := (slhDigits 14 22 md).zipIdx.map (fun p =>
    let ix := p.2 * 2 ^ 14 + p.1
    let part := sig.drop (32 * 15 * p.2)
    slhClimb seed x ix (slhHash seed { x with b := ix } (piece part 0)) ((List.range 14).map (fun j => piece part (1 + j))))
  slhHash seed { x with kind := 4 } roots.flatten

/-- Whether a signature of a message verifies under a public key: its seed, then its root, the first byte lowest. -/
def slhVerifies (key : BitVec 512) (msg sig : List Byte) : Bool :=
  let pk := leBytes 64 key.toNat
  let seed := pk.take 32
  let digest := shakeBytes 47 (sig.take 32 ++ pk ++ [0, 0] ++ msg)
  let tree := beNat ((digest.drop 39).take 7)
  let leaf := beNat (digest.drop 46)
  let forest := slhForest seed tree leaf (sig.drop 32) (digest.take 39)
  let layers := sig.drop (32 * 331)
  sig.length == 29792 &&
    (List.range 8).foldl (fun v j =>
      slhTree seed j (tree / 2 ^ (8 * j)) (if j = 0 then leaf else tree / 2 ^ (8 * (j - 1)) % 256) (layers.drop (32 * 75 * j)) v) forest == pk.drop 32

/-! ### The keys of the fuses (R422) -/

/-- The hash that the fuses hold of a public key (R422). -/
def keyHash (key : BitVec 512) : BitVec 256 := shake256 (leBytes 64 key.toNat)

/-- The four key slots that are not revoked (R422). -/
def keySlots : List Nat := (List.range 4).filter (fun k => !Config.keyRevoked k)

/-- The vendor's public keys: those whose hash a slot holds. -/
def vendorKeys : List (BitVec 512) := (keySlots.filter (fun k => keyHash (Config.vendorKey k) == Config.keyFuse k)).map Config.vendorKey

/-- Whether the boot ROM lets firmware run: it verifies under its key, whose hash a slot holds (R422). -/
def firmwareOk (code : List Byte) (cert : Cert) : Bool :=
  keySlots.any (fun k => keyHash cert.key == Config.keyFuse k) && slhVerifies cert.key code cert.sig

end Sys2Proof.Machine
end

