-- ==== Sys2Proof/Machine/Parcels.lean ====
section
/-! DEFINITION. Parcels on a core: PLOAD, PEVICT, PRES and PSTAT, loads and evictions (17_code_parcels.md). -/

namespace Sys2Proof.Machine

/-! ### The store (R325 to R327, R334) -/

/-- Pages of a parcel of L halfwords. -/
def pagesOf (l : Nat) : Nat := (256 + 2 * l + 4095) / 4096

def State.parcelInfo (s : State) (key : Nat) : Option ParcelInfo := Map.get? (s.ctx (key / 65536)).parcels (key % 65536)

def State.setParcel (s : State) (core key : Nat) (p : Parcel) : State :=
  s.updCore core (fun c => { c with parcels := Map.put c.parcels key p })

/-- Other contexts' library parcels of the same digest on the core, in a state other than ABSENT (R334) (DEDUCED, log entry 37). -/
def State.sharers (s : State) (core key : Nat) : List (Nat × Parcel) :=
  match s.parcelInfo key with
  | some i => if i.library then (s.core core).parcels.filter (fun p => p.1 / 65536 != key / 65536 && p.2.state != 0 && (match s.parcelInfo p.1 with
      | some j => j.library && j.digest == i.digest
      | none => false)) else []
  | none => []

def State.sharer (s : State) (core key : Nat) : Option (Nat × Parcel) := (s.sharers core key).head?

/-- Whether a parcel's copy is in the store: it may be fetched, or a load that shares it keeps it although every other sharer is gone (R334). -/
def Parcel.hasCopy (p : Parcel) : Bool := p.fetchable || (p.state == 1 && p.shared && !p.code.isEmpty)

/-- The resident copy that a load shares. -/
def State.copyOf (s : State) (core key : Nat) : Option Parcel :=
  (((key, Map.getD (s.core core).parcels key .absent) :: s.sharers core key).find? (fun p => p.2.hasCopy)).map (·.2)

/-- Whether another context's load, one that reads, is to bring the copy. -/
def State.awaitsCopy (s : State) (core key : Nat) (p : Parcel) : Bool :=
  p.shared && (s.sharers core key).any (fun q => q.2.state == 1 && !q.2.shared)

/-- Quota pages in use: a context's own parcels, or the pool's library parcels, each copy once (R325, R334). -/
def State.pagesUsed (s : State) (core key : Nat) : Nat :=
  let lib (k : Nat) : Bool := match s.parcelInfo k with | some i => i.library | none => false
  let mine := (s.core core).parcels.filter (fun p => p.2.state != 0 && lib p.1 == lib key && (lib key || p.1 / 65536 == key / 65536))
  (mine.zipIdx.filter (fun p => !(lib key) || !((mine.take p.2).any (fun q => q.1 / 65536 != p.1.1 / 65536 &&
    (s.parcelInfo q.1).map (·.digest) == (s.parcelInfo p.1.1).map (·.digest))))).foldl (fun n p => n + p.1.2.pages) 0

/-- Whether a load of the parcel fits its quota, or the pool, or shares a copy. -/
def State.parcelFits (s : State) (core key : Nat) : Bool :=
  match s.parcelInfo key with
  | none => false
  | some i => (s.sharer core key).isSome ||
      s.pagesUsed core key + pagesOf i.halfwords ≤ (if i.library then s.fw.library else (s.ctx (key / 65536)).quota)

/-- The next generation: modulo 65,536, skipping 0 (R326). -/
def parcelGen (g : Nat) : Nat := if g = 65535 then 1 else g + 1

/-- A load starts from ABSENT (R327). -/
def State.startParcel (s : State) (core key : Nat) : State :=
  let p := Map.getD (s.core core).parcels key .absent
  let pages := match s.parcelInfo key with | some i => pagesOf i.halfwords | none => 0
  let p : Parcel := { p with state := 1, gen := parcelGen p.gen, pages := pages, evict := false, fault := none, got := [] }
  (s.setParcel core key { p with shared := (s.sharer core key).isSome }).updCore core (fun c => { c with loads := c.loads ++ [key] })

/-- The report of a load's end: context, core, parcel, generation and status (R331) (DESIGN CHOICE, log entry 77). -/
def State.reportLoad (s : State) (core key gen status : Nat) : State := s.report 2 ((core * 2 ^ 24 + key) * 65536 + gen) status

/-- A load that finds too few free quota pages: it ends with QUOTA, nothing read (R331); no generation is its own (DEDUCED, log entry 61). -/
def State.refuseLoad (s : State) (core key : Nat) : State :=
  (s.setParcel core key { Map.getD (s.core core).parcels key .absent with last := 6 }).reportLoad core key 0 6

/-- A pre-load by the dispatcher: a load that no token waits for, limited by its quota, or a reopening (R325, R327, R336). -/
def State.preload (s : State) (core key : Nat) : State :=
  if key % 65536 = 0 then s
  else match (Map.getD (s.core core).parcels key .absent).state with
    | 0 => if !(Map.has (s.ctx (key / 65536)).parcels (key % 65536)) then s
      else if s.parcelFits core key then s.startParcel core key else s.refuseLoad core key
    | 3 => s.reopen core (key / 65536) (key % 65536)
    | _ => s

/-! ### The instructions (R332, R333) -/

/-- The agreed parcel id, which must be in the context's map. -/
def onParcel (i : Iss) (s : State) (r : BitVec 6) (k : Word → Nat → Parcel → Eff) : Eff :=
  let w := s.warp i.u
  agree i (fun l => (w.lane l).val r.toNat) (fun v =>
    let q := v.toNat / 65536
    if !s.mapped w.ctx q then trap1 0x01 0 (BitVec.ofNat 32 q) else k v q (s.parcel w.core w.ctx q))

def receiptOf (q gen : Nat) : Word := BitVec.ofNat 32 (q * 65536 + gen)

def execPload (d a : BitVec 6) (token : BitVec 3) (rec : Bool) (s : State) : Out :=
  issue s (engineNeed [wait1 a] [d.toNat]) (fun i s => onParcel i s a (fun _ q p =>
    let w := s.warp i.u
    let key := parcelKey w.ctx q
    let fail := p.state == 0 && !s.parcelFits w.core key
    let s : State := if fail then s.refuseLoad w.core key else if p.state = 0 then s.startParcel w.core key else if p.state = 3 then s.reopen w.core w.ctx q else s
    let receipt := receiptOf q (if fail then 0 else (s.parcel w.core w.ctx q).gen)
    let wait : PWait := ⟨w.core, key, i.u, token.toNat, rec, receipt, if p.state = 0 && !fail then 1 else 0,
      if fail then some 6 else if p.state < 2 then none else some 0⟩
    let s : State := { s.updWarp i.u (fun w => w.tokAdd token.toNat 1) with pwaits := s.pwaits ++ [wait] }
    let s : State := if i.handler then s.updLanes i.u i.n (fun _ k => { k with asked := some receipt }) else s
    .ok ((s.deliverAll i [d] receipt.toNat false).adv i)))

def execPevict (a : RegE) (s : State) : Out :=
  issue s (engineNeed [a.opd]) (fun i s => onParcel i s a.r (fun _ q p =>
    let w := s.warp i.u
    let key := parcelKey w.ctx q
    if q = 0 then trap1 0x09
    else .ok ((if p.state = 2 then s.setParcel w.core key { p with state := 3 }
      else if p.state = 1 then s.setParcel w.core key { p with evict := true } else s).adv i)))

def execPres (q : BitVec 3) (a : RegE) (s : State) : Out :=
  issue s (engineNeed [a.opd] [] false) (fun i s => onParcel i s a.r (fun v _ p =>
    let t := (p.state == 2 || p.state == 3) && v.toNat % 65536 != 0 && p.gen == v.toNat % 65536
    .ok ((s.updLanes i.u i.n (fun _ k => k.putP q t)).adv i)))

/-- The PSTAT word (R333). -/
def State.parcelStatus (s : State) (core ctx q : Nat) (p : Parcel) : Word :=
  BitVec.ofNat 32 (p.state * 2 ^ 30 + (if p.state != 0 && (s.sharer core (parcelKey ctx q)).isSome && (s.copyOf core (parcelKey ctx q)).isSome then 2 ^ 29 else 0) +
    (if q = 0 then 2 ^ 28 else 0) + min 4095 (s.occupancy core ctx q) * 2 ^ 16 + p.gen % 65536)

def execPstat (d : BitVec 6) (a : RegE) (s : State) : Out :=
  issue s (engineNeed [a.opd] [d.toNat] false) (fun i s => onParcel i s a.r (fun _ q p =>
    let w := s.warp i.u
    .ok ((s.updLanes i.u i.n (fun _ k => k.put d.toNat (s.parcelStatus w.core w.ctx q p))).adv i)))

/-! ### Loads and evictions as they complete (R327, R330, R331, R333, R334) -/

/-- Addresses of the next 64 bytes of a body, or what is left of it, from an offset on (R330). -/
def parcelVas (i : ParcelInfo) (off : Nat) : List Dword := vaRange (i.body + BitVec.ofNat 64 off) (min 64 (256 + 2 * i.halfwords - off))

/-- Bytes of a body as the engine reads them at the die point, with their places, or the trap of the first that cannot be read. -/
def State.parcelBytes (s : State) (core key : Nat) (vas : List Dword) : List (Nat × Byte) ⊕ Trap :=
  vas.foldr (fun va acc => match s.place (key / 65536) core .none va 1 true false, acc with
    | .inl k, .inl bs => .inl ((k, s.dieByte core k) :: bs)
    | .inr t, _ => .inr t
    | _, .inr t => .inr t) (.inl [])

/-- The filled slots of an entry table (R323). -/
def entriesOf (body : List Byte) : Map (Nat × Nat) :=
  (List.range 64).foldl (fun m j =>
    let e := field body (4 * j) 4
    if e / 2 ^ 31 = 1 then Map.put m j (e % 65536, e / 65536 % 64) else m) []

/-- The halfwords of a body. -/
def codeOf (body : List Byte) (n : Nat) : List (BitVec 16) := (List.range n).map (fun j => BitVec.ofNat 16 (field body (256 + 2 * j) 2))

/-- A parcel that is ABSENT: its pages are free, its generation stays (R327). -/
def Parcel.gone (p : Parcel) : Parcel := { p with state := 0, code := [], entries := [], pages := 0, fault := none, got := [] }

/-- The end of a load: the parcel's new state, its waiters' status and, for the PLOAD whose load it is, the bytes read; the firmware's report. -/
def State.endParcel (s : State) (core key status : Nat) (p : Parcel) : State :=
  let n := p.got.length
  let p : Parcel := { p with last := status, got := [] }
  let s : State := (s.setParcel core key (if status = 0 then { p with state := if p.evict then 3 else 2, fault := none }
    else p.gone)).updCore core (fun c => { c with
      loads := c.loads.filter (· != key) })
  let s : State := { s with pwaits := s.pwaits.map (fun w =>
    if w.core == core && w.key == key && w.status.isNone then { w with status := some status, bytes := w.bytes * n } else w) }
  s.reportLoad core key p.gen status

/-- A load ends; what shares its copy ends with it (R334). -/
def State.endLoad (s : State) (core key status : Nat) (p : Parcel) : State :=
  let shares (k : Nat) : Bool := k / 65536 != key / 65536 && (Map.getD (s.core core).parcels k .absent).shared &&
    (s.parcelInfo k).map (·.digest) == (s.parcelInfo key).map (·.digest)
  let others := if status = 0 then [] else (s.core core).loads.filter shares
  others.foldl (fun s k => s.endParcel core k status (Map.getD (s.core core).parcels k .absent)) (s.endParcel core key status p)

/-- The status of a load that a trap of its body's read ends; none where the fault is replayable: a translation fault (R331). -/
def parcelFault (t : Trap) : Option Nat := if t.cause = 0x08 then none else some (if t.cause = 0x16 then 3 else 2)

/-- The next step of a load: a copy shared, or the next 64 bytes read, or, with the whole body read, checked and laid out (R330) (DEDUCED, log
entry 61). -/
def State.loadParcel (s : State) (core key : Nat) : State :=
  let p := Map.getD (s.core core).parcels key .absent
  match s.parcelInfo key, (if p.shared then s.copyOf core key else none) with
  | none, _ => s.endLoad core key 1 p
  | some _, some q => s.endLoad core key 0 { p with code := q.code, entries := q.entries }
  | some i, none =>
    if p.got.length < 256 + 2 * i.halfwords then
      match s.parcelBytes core key (parcelVas i p.got.length) with
      | .inl bs => (s.llcUses (bs.map (·.1)) false).setParcel core key { p with got := p.got ++ bs.map (·.2) }
      | .inr t => match parcelFault t with
        | none => s.setParcel core key { p with fault := some t.cause }
        | some x => s.endLoad core key x p
    else if shake256 p.got ≠ i.digest then s.endLoad core key 5 p
    else s.endLoad core key 0 { p with code := codeOf p.got i.halfwords, entries := entriesOf p.got }

/-- The parcels that a block waits for: a new block's entry and pre-load parcels, or what a moved one's saved addresses name (R146, R336). -/
def State.blockParcels (s : State) (b : Nat) : List Nat :=
  let k := s.block b
  let id (v : Word) : Nat := v.toNat / 65536
  let ids := if k.loading == some true then (s.grid k.grid).info.parcel :: (s.grid k.grid).info.preload
    else
      s.warps.foldl (fun acc p => if p.2.block != b then acc else p.2.lanes.foldl (fun acc q =>
        if q.2.alive then acc ++ [id q.2.pc] ++ (if q.2.prio == 63 then [id q.2.resumePc] else []) else acc) acc) [] ++
      (s.core k.core).bins.filterMap (fun p => if p.2.block == b then some (id p.2.entry) else none) ++
      (s.core k.core).walks.filterMap (fun p => p.2.val.bind (fun w => if w.block == b && w.spawn && w.state < 2 then some (id w.entry) else none))
  (ids.filter (· != 0)).eraseDups

/-- Whether no parcel that a block waits for is loading. -/
def State.blockLoaded (s : State) (b : Nat) : Bool :=
  !((s.blockParcels b).any (fun q => (s.parcel (s.block b).core (s.ctxOfBlock b) q).state == 1))

/-- A new block starts at its entry; an entry parcel that could not be loaded, or an empty entry slot, ends the grid (R189, R335, R403). -/
def State.startNew (s : State) (b : Nat) : State :=
  let k := s.block b
  let ctx := s.ctxOfBlock b
  let info := (s.grid k.grid).info
  match s.entrySlot k.core ctx info.parcel info.entry with
  | some (off, prio) =>
    let s : State := s.updBlock b (fun k => { k with loading := none })
    { s with warps := Map.mapV s.warps (fun _ w =>
        if w.kind == .warp && w.block == b then
          { w with lanes := Map.mapV w.lanes (fun _ l => { l with pc := BitVec.ofNat 32 (info.parcel * 65536 + off), prio := BitVec.ofNat 6 prio }) }
        else w) }
  | none =>
    let p := s.parcel k.core ctx info.parcel
    if p.fetchable || !s.mapped ctx info.parcel then s.kill k.grid 6 0 else s.kill k.grid 9 p.last

/-- A block whose parcels are no longer loading goes on; new blocks of a group start together, once all of them can (R147, R336). -/
def State.startBlock (s : State) (b : Nat) : State :=
  match (s.block b).loading with
  | none => s
  | some false => if s.blockLoaded b then s.updBlock b (fun k => { k with loading := none }) else s
  | some true =>
    let bs := (s.groupBlocks (s.block b).group).filter (fun x => (s.block x).loading == some true)
    if bs.all s.blockLoaded then bs.foldl (fun s x => if Map.has s.blocks x then s.startNew x else s) s else s

/-- Blocks of a core that wait for parcels. -/
def State.startBlocks (s : State) (core : Nat) : State :=
  (Map.keysWhere s.blocks (fun _ b => b.core == core && b.loading.isSome)).foldl (fun s b => if Map.has s.blocks b then s.startBlock b else s) s

/-- The PLOAD of a core that can complete: its load has ended and its record finds room. -/
def State.pwaitReady (s : State) (core : Nat) : Option PWait :=
  s.pwaits.find? (fun w => w.core == core && (s.awayWarp w.warp).isNone && (match w.status with | some x => s.recordRoom core w.record x | none => false))

/-- The load that a core's parcel engine can go on with: one whose shared copy is resident, or else the first that reads (R330, R334). -/
def State.loadReady (s : State) (core : Nat) : Option Nat :=
  let c := s.core core
  let at_ (k : Nat) : Parcel := Map.getD c.parcels k .absent
  match c.loads.find? (fun k => (at_ k).shared && (s.copyOf core k).isSome) with
  | some k => some k
  | none => (c.loads.find? (fun k => !(s.awaitsCopy core k (at_ k)))).filter (fun k => (at_ k).fault.isNone)

/-- PARCEL_LOAD_COMPLETE (R330, R331, R333): a PLOAD completes, or else the load in progress reads on or ends, and blocks that waited for it
start. -/
def execParcelLoadComplete (core : Nat) (s : State) : Out :=
  .next (match s.pwaitReady core with
    | some w =>
      let st := w.status.getD 0
      let s : State := s.postIf core w.record 5 6 st w.receipt w.bytes
      (({ s with pwaits := s.pwaits.erase w } : State).countEngine (s.gridOf (s.warp w.warp)) [0x07, 0x08]).tokenDone w.warp w.token
    | none => match s.loadReady core with
      | some k => (s.loadParcel core k).startBlocks core
      | none => s)

/-- Whether a CLOSING parcel has no occupant. -/
def State.absentReady (s : State) (core key : Nat) : Bool :=
  (Map.getD (s.core core).parcels key .absent).state == 3 && s.occupancy core (key / 65536) (key % 65536) == 0

/-- A copy stays for the loads that share it (R334). -/
def State.keepCopy (s : State) (core key : Nat) : State :=
  let p := Map.getD (s.core core).parcels key .absent
  (s.sharers core key).foldl (fun s q =>
    if q.2.state == 1 && q.2.shared then s.setParcel core q.1 { q.2 with code := p.code, entries := p.entries } else s) s

/-- PARCEL_BECOMES_ABSENT (R327, R334). -/
def execParcelBecomesAbsent (core key : Nat) (s : State) : Out :=
  .next (if s.absentReady core key then (s.keepCopy core key).setParcel core key (Map.getD (s.core core).parcels key .absent).gone else s)

end Sys2Proof.Machine
end

