-- ==== Sys2Proof/Machine/Walker.lean ====
section
/-! DEFINITION. Warps formed on a core (R140, R146, R149, R345), and the round walker: its instructions and its rounds
(18_round_walker.md). -/

namespace Sys2Proof.Machine

/-! ### Forming warps (R140, R146, R149) -/

/-- Ordinary warps of a core, and the register units of 1 KiB that they hold. -/
def State.ordinary (s : State) (core : Nat) : List (Nat × Warp) :=
  s.warps.filter (fun p => p.2.core == core && p.2.kind == .warp && p.2.live && !(s.block p.2.block).migrated)

def State.unitsUsed (s : State) (core : Nat) : Nat := (s.ordinary core).foldl (fun n p => n + (s.block p.2.block).nregs / 8) 0

/-- The lowest free index for a formed warp of a block, 32 to 63. -/
def State.freeWix (s : State) (b : Nat) : Option Nat :=
  (List.range 32).findSome? (fun k => if (s.liveWarps b).any (fun u => (s.warp u).wix == 32 + k) then none else some (32 + k))

/-- The lowest warp slots of a core that no warp takes. -/
def State.freeSlots (s : State) (core n : Nat) : List Nat :=
  let used := (s.warps.filter (fun p => p.2.core == core && p.2.kind == .warp && p.2.live)).map (fun p => p.2.slot)
  ((List.range 60).filter (fun k => !used.contains k)).take n

/-- Whether a warp of the block can form: a slot, register units, an index (it waits for one as for a slot: DESIGN CHOICE, log entry 42), and in an
EXACT block a slot of its bank (R49, R149, R345). -/
def State.canForm (s : State) (b : Nat) : Bool :=
  let k := s.block b
  (s.ordinary k.core).length < 60 && s.unitsUsed k.core + k.nregs / 8 ≤ 512 && (s.freeWix b).isSome &&
    (!k.exact || (s.liveWarps b).length < 58)

/-- Forms a warp of a block at a code address: one lane per list of initial registers, helpers to the end of the last quad. -/
def State.formWarp (s : State) (b : Nat) (entry : Word) (args : List (List Word)) (walked : Bool) : State :=
  let k := s.block b
  let ctx := s.ctxOfBlock b
  let prio := s.entryPrio k.core ctx entry
  let n := args.length
  let own := args.zipIdx.map (fun p => (p.2, p.1.zipIdx.foldl (fun (l : Lane) x => l.put x.2 x.1) (Lane.start entry prio)))
  let help := (List.range ((n + 3) / 4 * 4 - n)).map (fun j => (n + j, { Lane.start entry prio with helper := true }))
  let w : Warp := { Warp.start .warp k.core ctx b ((s.freeWix b).getD 32) s.nextId (own ++ help) with
    walked := walked, slot := (s.freeSlots k.core 1).headD 0 }
  ({ s with warps := Map.put s.warps s.nextId w, nextId := s.nextId + 1 }).count k.grid 0x13 1

/-! ### Residency (R343) -/

/-- Whether a byte counts as present: in the L1, in the window, uncached, of the host or of a peer; one at no canonical address has no page (R15). -/
def State.present (s : State) (core ctx : Nat) (va : Dword) : Bool :=
  if inWindow va then true
  else if !canonical va then false
  else match (s.core core).tlb.find? (fun x => x.covers ctx va.toNat) with
    | none => false
    | some x =>
      let pa := s.localPa (x.paOf va.toNat)
      x.nc || isHost pa || isRelay pa || (s.core core).l1Has pa

/-- The addresses of a tile's elements in bounds, byte by byte. -/
def Label.tileVas (l : Label) (i j : Int) : List Dword :=
  let (r, nr, c, nc) := l.rect i j
  (List.range nr).foldl (fun acc k => acc ++ vaRange (l.at (r + (k : Nat)) c) (nc * l.esize)) []

/-- The operand tiles of a point (R339). -/
def Walk.tileVas (w : Walk) (p : Nat) : List Dword :=
  (w.labels.zip w.maps).foldl (fun acc x => acc ++ x.1.2.tileVas ((p * x.2.1 / 2 ^ x.2.2 : Nat) : Int) 0) []

def State.resident (s : State) (core : Nat) (w : Walk) (p : Nat) : Bool := (w.tileVas p).all (s.present core w.ctx)

/-! ### WALK (R337 to R341) -/

/-- The handle of a slot's walk. -/
def walkHandle (slot gen : Nat) : Word := BitVec.ofNat 32 (256 * gen + slot)

/-- The lowest offset at which a walk descriptor breaks R338. -/
def badWalk (r : List Byte) : Option Nat :=
  let f := field r
  let n := f 17 1
  let spawn := f 19 1 % 2 == 1
  firstBad [(0, 1 ≤ f 0 4 && f 0 4 ≤ 524288), (4, spawn || f 4 4 == 0), (8, f 8 8 % 4 == 0), (17, n ≤ 4), (18, 1 ≤ f 18 1 && f 18 1 ≤ 64),
    (19, f 19 1 < 4), (22, if spawn then f 22 1 == 0 else f 22 1 ≤ 36), (23, f 23 1 == 0),
    (24, (List.range 4).all (fun j => j < n || f (24 + 4 * j) 4 == 0)),
    (40, (List.range 4).all (fun j => if j < n then f (42 + 4 * j) 1 < 32 && f (43 + 4 * j) 1 == 0 else f (40 + 4 * j) 4 == 0)),
    (60, f 60 4 == 0)]

/-- The slot a new walk takes: one without a walk, or that of the walk that completed first (R337). -/
def Core.walkSlot (c : Core) : Option Nat :=
  match (List.range 4).find? (fun k => match Map.get? c.walks k with | some x => x.val.isNone | none => true) with
  | some k => some k
  | none =>
    let done := c.walks.filterMap (fun p => p.2.val.bind (fun w => if w.state = 2 then some (p.1, w.seq) else none))
    (done.foldl (fun (acc : Option (Nat × Nat)) p => match acc with
      | none => some p
      | some a => if p.2 < a.2 then some p else acc) none).map (·.1)

def execWalk (d a : BitVec 6) (token : BitVec 3) (s : State) : Out :=
  issue s { engineNeed [wait2 a] [d.toNat] with scc := false } (fun i s => withDescriptor i s a 64 64 (fun s va r =>
    let w := s.warp i.u
    let c := s.core w.core
    let f := field r
    let spawn := f 19 1 % 2 == 1
    let entry : Word := BitVec.ofNat 32 (f 4 4)
    let hs := (List.range (f 17 1)).map (fun j => (BitVec.ofNat 32 (f (24 + 4 * j) 4) : Word))
    let set : Dword := BitVec.ofNat 64 (f 8 8)
    let more : Option Trap := firstTrap ([
      if !spawn && (s.block w.block).det then some ⟨0x0C, 0, 0⟩ else none,
      if (s.block w.block).banks.length ≤ f 16 1 then some ⟨0x09, 0, BitVec.ofNat 32 (f 16 1)⟩ else none] ++
      hs.map (fun h => if (c.label (w.owner i.u) h).isNone then some ⟨0x09, 0, h⟩ else none) ++
      [if !spawn && !s.fifoRights w (f 22 1) then some ⟨0x09, 0, BitVec.ofNat 32 (f 22 1)⟩ else none])
    match badWalk r with
    | some off => (offTrap va off).all
    | none => match more with
      | some t => t.all
      | none =>
        let go (s : State) : Eff :=
          if set ≠ 0 && !inWindow set && !canonical set then trap1 0x09 set
          else if !s.loadsDone i.u then .wait none
          else match c.walkSlot with
            | none => .wait none
            | some k =>
              let g := nextGen (match Map.get? c.walks k with | some x => x.gen | none => 0)
              let x : Walk := ⟨w.block, i.u, w.ctx, token.toNat, f 0 4, entry, set, f 16 1, f 18 1, spawn, f 19 1 / 2 % 2 == 1, f 20 2, f 22 1,
                hs.map (fun h => (h, (c.label (w.owner i.u) h).getD ⟨0, 0, 0, 0, 0, 1, 1, 1, 0, false, false, 0⟩)),
                (List.range (f 17 1)).map (fun j => (f (40 + 4 * j) 2, f (42 + 4 * j) 1)), f 56 4, s.nextId, 0, 0, 0, [], 0, 0, [], none⟩
              let s : State := ({ s with nextId := s.nextId + 1 } : State).updCore w.core (fun c =>
                { hs.foldl Core.holdLabel c with walks := Map.put c.walks k ⟨g, some x⟩ })
              let s : State := s.updWarp i.u (fun w => w.tokAdd token.toNat 1)
              .ok ((s.deliverAll i [d] (walkHandle k g).toNat false).adv i)
        if spawn then enterAll s i true (i.n.map (fun l => (l, entry))) (fun _ => entry) go else go s))

/-! ### WSTAT, WCANCEL and WQRY (R352 to R354) -/

/-- The current walk that a handle names for the block, with its slot. -/
def Core.walkOf (c : Core) (block : Nat) (h : Word) : Option (Nat × Walk) :=
  match Map.get? c.walks (h.toNat % 4) with
  | some x => if x.gen == h.toNat / 256 && x.gen != 0 then x.val.bind (fun w => if w.block == block then some (h.toNat % 4, w) else none) else none
  | none => none

/-- Whether a bit of a handle that must be 0 is 1. -/
def badWalkHandle (h : Word) : Bool := h.toNat / 2 ^ 18 != 0 || h.toNat / 4 % 64 != 0

/-- An agreed walk handle. -/
def onWalk (i : Iss) (s : State) (a : RegE) (k : Option (Nat × Walk) → Eff) : Eff :=
  let w := s.warp i.u
  agree i (fun l => (w.lane l).val a.r.toNat) (fun h =>
    if badWalkHandle h then trap1 0x09 0 h else k ((s.core w.core).walkOf w.block h))

/-- The WSTAT word (R353). -/
def walkStatus (x : Option (Nat × Walk)) : Word :=
  match x with
  | none => BitVec.ofNat 32 (3 * 2 ^ 30)
  | some (_, w) => BitVec.ofNat 32 (w.state * 2 ^ 30 + (if w.state = 2 then w.status else 0) * 2 ^ 27 + w.win.length * 2 ^ 20 + w.issued)

def execWstat (d : BitVec 6) (a : RegE) (s : State) : Out :=
  issue s (engineNeed [a.opd] [d.toNat] false) (fun i s => onWalk i s a (fun x =>
    .ok ((s.updLanes i.u i.act (fun _ k => k.put d.toNat (walkStatus x))).adv i)))

def State.setWalk (s : State) (core k : Nat) (w : Walk) : State :=
  s.updCore core (fun c => { c with walks := Map.upd c.walks k (fun x => { x with val := some w }) })

/-- A walk's completion (R347): record, token, counts; its labels are let go. -/
def State.walkDone (s : State) (core k status : Nat) (w : Walk) : State :=
  let gen := match Map.get? (s.core core).walks k with | some x => x.gen | none => 0
  let s : State := s.postIf core w.record 4 5 status (walkHandle k gen) w.issued
  let s : State := s.setWalk core k { w with state := 2, status := status, seq := s.nextId, win := [], out := [] }
  let s : State := ({ s with nextId := s.nextId + 1 } : State).updCore core (fun c => (w.labels.map (·.1)).foldl Core.releaseLabel c)
  let x := (s.core core).bankOf w.fifo
  let s : State := if !w.spawn && w.state == 1 && x.mode == 2 && x.owner == some w.block then
      s.updCore core (fun c => c.setBank w.fifo { x with producers := x.producers - 1 }) else s
  ((s.countEngine (s.block w.block).grid [0x05, 0x06, 0x07, 0x08]).tokenDone w.warp w.token).sweep

/-- A queued walk that is cancelled completes at once, where its record finds room (R347, R351). -/
def State.cancelQueued (s : State) (core k : Nat) (w : Walk) : State :=
  let w := w.cancelled 5
  if s.recordRoom core w.record w.cancel then s.walkDone core k w.cancel w else s.setWalk core k w

/-- WCANCEL (R351): a running walk ends with its current round; what that round, or an earlier one, issued is delivered. -/
def execWcancel (a : RegE) (s : State) : Out :=
  issue s (engineNeed [a.opd]) (fun i s => onWalk i s a (fun x =>
    let core := (s.warp i.u).core
    match x with
    | none => .ok (s.adv i)
    | some (k, w) =>
      if w.state = 0 then .fin ((s.cancelQueued core k w).adv i)
      else if w.state = 1 then .ok ((s.setWalk core k (w.cancelled 5)).adv i)
      else .ok (s.adv i)))

/-- WQRY (R354): each lane's own point. -/
def execWqry (q : BitVec 3) (a b : RegE) (s : State) : Out :=
  issue s (engineNeed [a.opd, b.opd] [] false) (fun i s => onWalk i s a (fun x =>
    let core := (s.warp i.u).core
    .ok ((s.updLanes i.u i.act (fun _ k => k.putP q (match x with
      | none => false
      | some (_, w) => s.resident core w (k.val b.r.toNat).toNat))).adv i)))

/-! ### Rounds (R342 to R348) -/

/-- What the walker's own reads are made for; a window address in the set names what it names for the walk's block. -/
def State.walkEng (s : State) (core : Nat) (w : Walk) : Eng := ⟨w.ctx, core, w.block, s.targets (Warp.start .warp core w.ctx w.block 0 0 [])⟩

/-- The addresses of a position's entry in the set. -/
def Walk.setVas (w : Walk) (i : Nat) : List Dword := vaRange (w.set + BitVec.ofNat 64 (4 * i)) 4

/-- The point of a position, or the trap of reading the set. -/
def State.pointOf (s : State) (core : Nat) (w : Walk) (i : Nat) : Nat ⊕ Trap :=
  if w.set = 0 then .inl i
  else match s.engineRead (s.walkEng core w) (w.setVas i) with
    | .inl bs => .inl (leNat bs)
    | .inr t => .inr t

/-- Whether positions that may enter the window next are read from bytes of which an atomic is due (R218, R232). -/
def State.setDue (s : State) (core : Nat) (w : Walk) : Bool :=
  w.set != 0 && s.atomsDue (s.walkEng core w)
    ((List.range (min w.window (w.n - w.nextPos))).foldl (fun l j => l ++ w.setVas (w.nextPos + j)) [])

/-- The window refilled with the lowest positions not yet in it (R342); a fault on the set stops it (R350). -/
def State.fillWindow (s : State) (core : Nat) : Nat → Walk → Walk
  | 0, w => w
  | n + 1, w =>
    if w.window ≤ w.win.length || w.n ≤ w.nextPos then w
    else match s.pointOf core w w.nextPos with
      | .inl p => s.fillWindow core n { w with win := w.win ++ [(w.nextPos, p, 0, s.tick.toNat)], nextPos := w.nextPos + 1 }
      | .inr t => match engineStatus t with
        | none => { w with fault := some (t.cause, t.addr) }
        | some x => { w with status := x }

/-- What the reads of the positions that have entered the window since leave in the TLBs and the LLC (R206, R212). -/
def State.touchSet (s : State) (core : Nat) (before after : Walk) : State :=
  if after.set = 0 then s
  else s.engineTouch (s.walkEng core after) true
    ((List.range (after.nextPos - before.nextPos)).foldl (fun l j => l ++ after.setVas (before.nextPos + j)) []) true

/-- The window filled, with what its reads leave behind. -/
def State.refill (s : State) (core k : Nat) (w : Walk) : State :=
  let w' := s.fillWindow core w.window w
  (s.touchSet core w w').setWalk core k w'

/-- The places of the visited map's bytes, and the map's bits changed (R339). -/
def State.mapBit (s : State) (w : Walk) (i : Nat) (v : Bool) : State :=
  let k := spKey w.block (w.mapBank * 65536 + i / 8)
  let m : Byte := 1#8 <<< (i % 8)
  s.setByte k (if v then s.byte k ||| m else s.byte k &&& ~~~ m)

/-- The walk of a core that runs. -/
def Core.running (c : Core) : Option (Nat × Walk) :=
  c.walks.findSome? (fun p => p.2.val.bind (fun w => if w.state = 1 then some (p.1, w) else none))

/-- Whether the walk in a slot starts next: none runs, and no queued one is older (R337, R342). -/
def State.walkStartable (s : State) (core k : Nat) : Bool :=
  match (Map.get? (s.core core).walks k).bind (·.val) with
  | some w => w.state == 0 && !s.resting w.block && (if w.cancel != 0 then s.recordRoom core w.record w.cancel
      else !s.setDue core w && (s.core core).running.isNone && (s.core core).walks.all (fun p => match p.2.val with | some x => x.state != 0 || w.seq ≤ x.seq | none => true))
  | none => false

/-- WALK_START (R342): the map's bits are cleared, a FIFO walk becomes a producer, and the window is filled. -/
def execWalkStart (core k : Nat) (s : State) : Out :=
  .next (match s.walkStartable core k, (Map.get? (s.core core).walks k).bind (·.val) with
    | true, some w =>
      if w.cancel != 0 then s.walkDone core k w.cancel w
      else
        let s : State := ((List.range w.n).foldl (fun s i => s.mapBit w i false) s).observeTick
        let x := (s.core core).bankOf w.fifo
        let s : State := if w.spawn then s else s.updCore core (fun c => c.setBank w.fifo { x with producers := x.producers + 1 })
        s.refill core k { w with state := 1 }
    | _, _ => s)

/-- Whether the block of a walk can still take what it delivers. -/
def State.walkAlive (s : State) (w : Walk) : Bool := Map.has s.blocks w.block && (s.grid (s.block w.block).grid).status.isNone

/-- Whether the walk's FIFO is still its block's. -/
def State.walkFifo (s : State) (core : Nat) (w : Walk) : Bool :=
  let x := (s.core core).bankOf w.fifo
  x.mode == 2 && x.owner == some w.block

/-- Whether the refill that ends a round has still to be made: a fault of the set has stopped it (R342, R350). -/
def Walk.short (w : Walk) : Bool := w.win.length < w.window && w.nextPos < w.n

/-- The status with which a walk is to complete, 0 while nothing has ended it; one cancelled while its window waits for a set read runs no round more
(R351). -/
def Walk.ends (w : Walk) : Nat := if w.status = 0 && w.cancel != 0 && w.short then w.cancel else w.status

/-- Whether a walk has no position left to issue, or has been ended. -/
def Walk.over (w : Walk) : Bool := w.ends != 0 || w.n ≤ w.issued

/-- Whether the running walk can go on: deliver, complete, or run a round. -/
def State.roundReady (s : State) (core : Nat) : Bool :=
  match (s.core core).running with
  | none => false
  | some (_, w) =>
    if !w.out.isEmpty then !s.walkAlive w || (if w.spawn then s.canForm w.block
      else !s.walkFifo core w || ((s.core core).bankOf w.fifo).fifo.length < 512)
    else if w.over then s.recordRoom core w.record w.ends
    else w.fault.isNone && !s.resting w.block && !s.setDue core w

/-- One warp, or one group, of what a round has issued (R345, R346). -/
def State.walkDeliver (s : State) (core k : Nat) (w : Walk) : State :=
  let now := w.out.take 32
  let gen := match Map.get? (s.core core).walks k with | some x => x.gen | none => 0
  let s : State := s.setWalk core k { w with out := w.out.drop 32 }
  if !s.walkAlive w then s.setWalk core k { w with out := [] }
  else if w.spawn then
    s.formWarp w.block w.entry (now.map (fun p => [BitVec.ofNat 32 p.2.1, walkHandle k gen, BitVec.ofNat 32 p.1, BitVec.ofNat 32 p.2.2])) true
  else if s.walkFifo core w then
    let x := (s.core core).bankOf w.fifo
    let g : List Word := (List.range 32).map (fun j => match now[j]? with | some p => BitVec.ofNat 32 p.2.1 | none => 0xFFFFFFFF)
    s.updCore core (fun c => c.setBank w.fifo { x with fifo := x.fifo ++ [g] })
  else s

/-- Prefetches of a core's walker still outstanding, whichever of its walks asked for them (R344). -/
def State.walkPrefetches (s : State) (core : Nat) : Nat :=
  (s.reqs.filter (fun p => match p.2 with | .fill f => f.core == core && f.walker | _ => false)).length

/-- The prefetch of an absent sector for the walker, as PRF's; one that would fault has no effect (R247, R344). -/
def State.walkPrefetch (s : State) (core : Nat) (w : Walk) (va : Dword) : State :=
  if 32 ≤ s.walkPrefetches core || s.present core w.ctx va || inWindow va || !canonical va then s
  else
    let t : State := s.touchXlat core 0 w.ctx va.toNat true
    match s.xlat core w.ctx va with
    | .inr _ => t
    | .inl x =>
      let pa := s.localPa (x.paOf va.toNat)
      let asked := t.reqs.any (fun p => match p.2 with | .fill f => f.core == core && f.sector == pa / 64 && !f.stale | _ => false)
      if !x.r || s.contained pa || x.nc || isRelay pa || isHost pa || (t.core core).l1Has pa || asked then t
      else (t.fillFor t.nextId core (t.block w.block).grid w.warp (pa / 64) true).2

/-- A round (R343, R344): probes, issues, defers, prefetches, refills (DEDUCED, log entry 36). -/
def State.walkRound (s : State) (core k : Nat) (w : Walk) : State :=
  let s : State := s.observeTick
  let goes (p : Nat × Nat × Nat × Nat) : Bool :=
    s.resident core w p.2.1 || w.bound ≤ p.2.2.1 || (w.limit != 0 && w.limit ≤ s.tick.toNat - p.2.2.2)
  let out := w.win.filter goes
  let stay := (w.win.filter (fun p => !goes p)).map (fun p => (p.1, p.2.1, p.2.2.1 + 1, p.2.2.2))
  let grid := (s.block w.block).grid
  let s : State := (out.foldl (fun s p => s.mapBit w p.1 true) s).count grid 0x1C stay.length
  let w : Walk := { w with win := stay, issued := w.issued + out.length, out := out.map (fun p => (p.1, p.2.1, p.2.2.1)), status := if w.cancel != 0 then w.cancel else w.status }
  let s : State := stay.foldl (fun s p => (w.tileVas p.2.1).foldl (fun s va => s.walkPrefetch core w va) s) s
  if w.status = 0 then s.refill core k w else s.setWalk core k w

/-- WALK_ROUND_END (R344 to R347, R350, R351): what earlier rounds issued is delivered first; then the walk completes, or a refill that a fault of
the set has stopped goes on, or a round ends. -/
def execWalkRoundEnd (core : Nat) (s : State) : Out :=
  .next (match s.roundReady core, (s.core core).running with
    | true, some (k, w) =>
      if !w.out.isEmpty then s.walkDeliver core k w
      else if w.over then s.walkDone core k w.ends w
      else if !s.walkAlive w then s.setWalk core k { w with status := if w.cancel != 0 then w.cancel else 5 }
      else if w.short then s.refill core k w
      else s.walkRound core k w
    | _, _ => s)

end Sys2Proof.Machine
end

