-- ==== Sys2Proof/Machine/System.lean ====
section
/-! DEFINITION. Class 7: fences, ticks, counters, ordered tasks, migration, replay sessions, write-set capture, collectives and signals
(R229 to R236, R249, R250, R269 to R280, R381 to R398, R409, R414, R417). -/

namespace Sys2Proof.Machine

/-- What a class 7 instruction needs. -/
def sysNeed (srcs : List Opd) (dsts : List Nat := []) : Need := { srcs := srcs, dsts := dsts, lpb := 0, ae := false }

/-! ### Fences (R223, R224, R229, R230, R233, R234, R249, R250) -/

/-- Stores at the die point over a core's base die. -/
def State.diePointStores (s : State) (core : Nat) : List Nat :=
  (s.stores.filter (fun p => p.2.heldAt (baseDieOfCore core))).map (·.1)

/-- Whether a store of the list is acknowledged at its home slice. -/
def State.homeAcked (s : State) (k : Nat) : Bool :=
  match Map.get? s.reqs k with | some (.store t) => t.stage == .acked | _ => true

/-- A store or atomic of the warps of a core; a scalar control core's own (R229). -/
def Req.ofCore (r : Req) (u : Nat) (w : Warp) : Bool :=
  match r with
  | .store t => if w.isScc then t.own && t.warp == u else t.cls == 0 && t.core == w.core
  | .atom a => if w.isScc then a.warp == u else a.cls == 0 && a.core == w.core
  | .xaddm x => !w.isScc && x.core == w.core
  | _ => false

/-- Whether a store or atomic is unacknowledged at a scope's visibility point. -/
def Req.unacked (r : Req) (scope : Nat) : Bool :=
  match r with
  | .store t => if scope ≤ 2 then t.stage == .issued else t.stage != .acked
  | .atom a => 2 < scope || a.pass == 0
  | .xaddm x => 2 < scope || x.pass == 0
  | _ => false

/-- The name under which a request's instruction issued. -/
def Req.since (r : Req) (k : Nat) : Nat := match r with | .store t => t.since | _ => k

/-- The further wait of a cumulative fence that began with name `before` and the stores `ks` at its die point (R229). -/
def State.cumDone (s : State) (u scope before : Nat) (ks : List Nat) : Bool :=
  scope == 0 || (!(s.reqs.any (fun p => p.2.since p.1 < before && p.2.ofCore u (s.warp u) && p.2.unacked scope)) &&
    (scope ≤ 2 || ks.all s.homeAcked))

/-- A fragment's own name among those of its warp: address, priority, handler fragment. -/
def Warp.fragId (w : Warp) (i : Iss) : Word × BitVec 6 × Nat := (i.pc, i.prio, (w.lane (i.n.headD 0)).frag)

/-- What the fragment's waiting fence has noted, or what it notes now (DEDUCED, log entry 56). -/
def State.fenceNote (s : State) (w : Warp) (i : Iss) (ks : List Nat) : Nat × List Nat :=
  match w.hold with
  | some (.fence f b l) => if f == w.fragId i then (b, l) else (s.nextId, ks)
  | _ => (s.nextId, ks)

/-- Whether a grid-register write of the warp has not taken effect (R165). -/
def State.gridWrites (s : State) (u : Nat) : Bool := s.scopeWrites.any (fun p => p.2.warp == u && p.2.level == 2)

/-- A fence of a kind (0 full, 1 acq, 2 rel) at a scope: it waits, then acquires (R230). -/
def State.fence (s : State) (i : Iss) (kind : Nat) (cum : Bool) (scope : Nat) : Eff :=
  let w := s.warp i.u
  let (b, ks) := s.fenceNote w i (s.diePointStores w.core)
  let ready := (!cum || s.cumDone i.u scope b ks) && (scope < 3 || !s.gridWrites i.u) &&
    (if kind = 1 then s.loadsDone i.u else s.released i.u scope)
  if ready then
    let s : State := if kind = 1 then s else s.noteRel i.u
    .ok ((if kind = 2 then s else s.acquired i.u (0 < scope)).adv i)
  else .blocked (s.updWarp i.u (fun w => { w with hold := some (.fence (w.fragId i) b ks) }))

def fenceNeed : Need := { sysNeed [] with mem := true, perWarp := true }

def execFence (k : BitVec 2) (c : Bool) (sc : BitVec 3) (s : State) : Out :=
  issue s fenceNeed (fun i s => s.fence i k.toNat c sc.toNat)

/-- The narrowest scope that covers an engine class (R233). -/
def coverOf (cls : Nat) : Nat := if cls < 7 then 0 else if cls = 8 then 1 else if cls = 7 then 3 else 4

/-- Completed writes of an engine class that a FENCEX of the warp counts (R234). -/
def State.engineWrites (s : State) (u : Nat) (cls : Nat) : List Nat :=
  let w := s.warp u
  (s.stores.filter (fun p => p.2.cls == cls && p.2.stage != .issued &&
    (if cls = 8 then clusterOf p.2.core == clusterOf w.core else if cls = 7 then p.2.warp == u else if cls = 9 then true
      else p.2.block == w.block && p.2.core == w.core))).map (·.1)

/-- Whether class A of a FENCEX is done (R234). -/
def State.classDone (s : State) (u cls scope : Nat) (ks : List Nat) : Bool :=
  if scope < coverOf cls then true
  else if cls = 0 then (if scope ≤ 2 then s.dieZero u else if scope = 3 then s.homeZero u else s.homeZero u && s.hostZero u)
  else if scope ≤ 2 then true
  else if scope = 3 then ks.all s.homeAcked
  else ks.all (fun k => !(Map.has s.reqs k))

def execFencex (x y : BitVec 4) (sc : BitVec 3) (s : State) : Out :=
  issue s fenceNeed (fun i s =>
    let scope := sc.toNat
    if x = 0 && y = 0 then s.fence i 0 false scope
    else
      let (b, ks) := s.fenceNote (s.warp i.u) i (s.engineWrites i.u x.toNat)
      if s.classDone i.u x.toNat scope ks then .ok ((if y = 0 then s.acquired i.u true else s).adv i)
      else .blocked (s.updWarp i.u (fun w => { w with hold := some (.fence (w.fragId i) b ks) })))

/-! ### Ticks, counters and the slot tree (R236, R382, R390 to R393) -/

/-- The most ticks that 4 core cycles take, at the clock of the moment (R3, R424). -/
def State.arrivalTicks (s : State) : Nat := (4000 + s.fw.clockMhz - 1) / s.fw.clockMhz

/-- TICK reads the tick at some cycle until its value arrives, 4 cycles after issue. -/
def execTick (d : BitVec 6) (s : State) : Out :=
  issue s { sysNeed [] [d.toNat, d.toNat + 1] with atHead := true } (fun i s =>
    let s : State := s.observeTick
    let later := BitVec.ofNat 64 (s.freeWord.toNat % (s.arrivalTicks + 1))
    .ok ((s.useFree.deliverAll i [d, d + 1] (s.tickOn (s.warp i.u).core + later).toNat (due := s.tick.toNat + later.toNat)).adv i))

/-- TICKO reads the tick at issue, ordered like a load. -/
def execTicko (d : BitVec 6) (s : State) : Out :=
  issue s { sysNeed [] [d.toNat, d.toNat + 1] with atHead := true, mem := true } (fun i s =>
    let s : State := s.observeTick
    .ok ((s.deliverAll i [d, d + 1] (s.tickOn (s.warp i.u).core).toNat false).adv i))

def execPmcfg (c : BitVec 2) (a : RegE) (s : State) : Out :=
  issue s { sysNeed [a.opd] with scc := false, perWarp := true } (fun i s =>
    agree i (fun l => ((s.warp i.u).lane l).val a.r.toNat) (fun v =>
      if 0x1D < v then trap1 0x01 0 v
      else .ok ((s.updWarp i.u (fun w => { w with
        pmCode := Map.setD w.pmCode c.toNat v.toNat 0, pmRes := Map.setD w.pmRes c.toNat 0 0 })).adv i)))

def execPmrd (d : BitVec 6) (c : BitVec 2) (s : State) : Out :=
  issue s { sysNeed [] (pairRegs d) with scc := false } (fun i s =>
    let v := Map.getD (s.warp i.u).pmRes c.toNat 0
    .ok ((s.updLanes i.u i.act (fun _ k => k.putPair d.toNat v)).adv i))

/-- The leaves of the slot tree that only time decides (R390, R391). -/
def timedLeaves : List Nat := [7, 8, 10, 11, 12, 13, 14, 16, 17, 18, 20, 21, 22, 23, 24, 25]

/-- The leaves below a node (R391). -/
def leavesOf (node : Nat) : List Nat :=
  match node with
  | 0 => [2, 3, 4] ++ timedLeaves
  | 1 => [2, 3, 4]
  | 5 => timedLeaves
  | 6 => [7, 8]
  | 9 => [10, 11, 12, 13, 14]
  | 15 => [16, 17, 18]
  | 19 => [20, 21, 22, 23, 24]
  | n => [n]

/-- The slots that have been charged to the leaves that only time decides since they were read last: free values (log entries 4 and 7); Empty is
charged to no grid (R391). -/
def State.growSlots (s : State) (w : Warp) : State :=
  let add (m : Map Nat) (ls : List Nat) (from_ : Nat) : Map Nat :=
    ls.foldl (fun m j => Map.put m j (Map.getD m j 0 + (Config.freeValue (from_ + j)).toNat % 2 ^ 32)) m
  { (s.updCore w.core (fun c => { c with slots := add c.slots timedLeaves s.free })).updGrid (s.gridOf w) (fun g =>
      { g with slots := add g.slots (timedLeaves.filter (· != 25)) (s.free + 32) }) with free := s.free + 64 }

/-- The count of a node: the sum of its leaves (R390, R391); a scalar control core reads those of the core at cluster position 0 (DEDUCED, log
entry 106). -/
def State.nodeCount (s : State) (w : Warp) (node : Nat) (grid : Bool) : BitVec 64 :=
  let m := if grid then (s.grid (s.gridOf w)).slots else (s.core w.core).slots
  BitVec.ofNat 64 ((leavesOf node).foldl (fun n j => n + Map.getD m j 0) 0)

def execTdrd (d : BitVec 6) (a : Src) (s : State) : Out :=
  issue s (sysNeed [a.opd] (pairRegs d)) (fun i s =>
    let w := s.warp i.u
    let ix (l : Nat) : Word := s.get w l (w.lane l) a
    match i.n.find? (fun l => ix l &&& 0xFFFFFEC0 != 0 || 26 ≤ (ix l).toNat % 64) with
    | some l => trap1 0x01 0 (ix l)
    | none =>
      let s : State := s.growSlots w
      .ok ((s.updLanes i.u i.act (fun l k => k.putPair d.toNat (s.nodeCount w ((ix l).toNat % 64) (bitAt (ix l) 8)))).adv i))

/-! ### Ordered tasks (R269 to R280) -/

/-- What TASKBEG, TASKEND, TASKRNG and TASKQ need. -/
def taskNeed (srcs : List Opd) (dsts : List Nat := []) : Need := { sysNeed srcs dsts with scc := false, perWarp := true }

/-- TASKRNG (R277): the office answers later. -/
def execTaskrng (a : RegE) (b : Src) (s : State) : Out :=
  issue s { taskNeed [a.opd2, b.opd] with inTask := false } (fun i s =>
    let w := s.warp i.u
    agree i (fun l => ((w.lane l).pairVal a.r, s.get w l (w.lane l) b)) (fun v =>
      .ok (s.updWarp i.u (fun w => { w with hold := some (.office i.act i.len [] (some (v.1.toNat, v.2.toNat))) }))))

/-- Registers of x0 to x31 that a mask selects. -/
def maskRegs (m : Word) : List Nat := lanesOf m

/-- TASKBEG (R278): each lane's mask is checked, its registers awaited; the office answers later. -/
def execTaskbeg (a : RegE) (b : Src) (s : State) : Out :=
  issue s { taskNeed [a.opd2, b.opd] with inTask := false } (fun i s =>
    let w := s.warp i.u
    let m (l : Nat) : Word := s.get w l (w.lane l) b
    match i.n.find? (fun l => (maskRegs (m l)).any (fun r => !nameable (s.nregs w) r)) with
    | some l => trap1 0x01 0 (m l)
    | none =>
      let empties := i.n.foldl (fun acc l => acc ++ ((maskRegs (m l)).filter (fun r => (w.lane l).isEmpty r)).map (fun r => (l, r))) []
      if i.n.any (fun l => (maskRegs (m l)).any (fun r => (w.lane l).isOrphan r)) then trap1 0x03
      else if !empties.isEmpty then .wait (if empties.any (fun p => (w.lane p.1).isLong p.2) then some (.regs empties) else none)
      else .ok (s.updWarp i.u (fun w => { w with
        hold := some (.office i.act i.len (i.n.map (fun l => (l, ((w.lane l).pairVal a.r).toNat, m l))) none) })))

/-- TASKEND (R279): the lane parks until its commit completes. -/
def execTaskend (s : State) : Out :=
  issue s (taskNeed []) (fun i s =>
    let w := s.warp i.u
    if i.n.any (fun l => (w.lane l).task.isNone) then trap1 0x01
    else
      let s : State := i.n.foldl (fun s l => match s.taskOf w l with
        | some (n, _) => s.updTask w.core n (fun t => { t with ended := true })
        | none => s) s
      .ok ((s.adv i).updLanes i.u i.n (fun _ k => { k with place := .taskEnd })))

/-- The TASKQ word (R280). -/
def State.taskWord (s : State) (w : Warp) (l : Nat) : Word :=
  let open_ := (s.grid (s.gridOf w)).range.isSome
  let ab := match s.taskOf w l with | some (_, t) => min 255 t.aborts | none => 0
  BitVec.ofNat 32 (ab * 256 + (if open_ then 4 else 0) + (if s.taskHead w l then 2 else 0) + (if (w.lane l).task.isSome then 1 else 0))

def execTaskq (d : BitVec 6) (s : State) : Out :=
  issue s (taskNeed [] [d.toNat]) (fun i s =>
    .ok ((s.updLanes i.u i.n (fun l k => k.put d.toNat (s.taskWord (s.warp i.u) l))).adv i))

/-- The task that loses its slot to a TASKBEG of a timestamp, if any (R275). -/
def State.slotVictim (s : State) (core g stamp : Nat) (head : Bool) : Option Nat :=
  let isHead (t : Task) : Bool := match (s.grid t.grid).range with | some r => r.next == t.stamp | none => false
  let ts := (s.core core).tasks.filter (fun p => p.1 < 64 && !isHead p.2)
  let pick (l : List (Nat × Task)) (better : Nat × Task → Nat × Task → Bool) : Option Nat :=
    (l.foldl (fun (acc : Option (Nat × Task)) p => match acc with
      | none => some p
      | some q => if better p q then some p else acc) none).map (·.1)
  match pick (ts.filter (fun p => p.2.grid == g && stamp < p.2.stamp)) (fun p q => q.2.stamp < p.2.stamp) with
  | some n => some n
  | none => if head then pick (ts.filter (fun p => p.2.grid != g)) (fun p q => q.2.began ≤ p.2.began) else none

/-- The checkpoint of a lane after its TASKBEG (R271). -/
def Warp.checkpoint (w : Warp) (l len : Nat) (m : Word) : Checkpoint :=
  let k := w.lane l
  let after := k.advance len
  ⟨after.pc, k.prio, k.p, BitVec.ofNat 8 ((List.range 8).foldl (fun n j => if bitAt (w.joinE j) l then n + 2 ^ j else n) 0),
    (maskRegs m).map (fun r => (r, k.val r)), k.pc, k.prio⟩

/-- One lane begins its task, if it finds a slot (R275, R278) (DEDUCED, log entry 49); its count of aborts starts at 0, after a lost slot too (DESIGN
CHOICE, log entry 114). -/
def State.beginTask (s : State) (u l len stamp : Nat) (m : Word) (began : Nat) : Option State :=
  let w := s.warp u
  let g := s.gridOf w
  let head := match (s.grid g).range with | some r => r.next == stamp | none => false
  let put (s : State) (n : Nat) : State :=
    let t : Task := ⟨g, stamp, u, l, w.checkpoint l len m, [], 0, 0, false, false, began, [], []⟩
    let s : State := s.updCore w.core (fun c => { c with tasks := Map.put c.tasks n t })
    let s : State := s.updGrid g (fun k => { k with range := k.range.map (fun r => { r with begun := r.begun ++ [stamp] }) })
    s.updWarp u (fun w => w.updLane l (fun k => { k.advance len with task := some n }))
  match (List.range 64).find? (fun n => !(Map.has (s.core w.core).tasks n)) with
  | some n => some (put s n)
  | none => (s.slotVictim w.core g stamp head).map (fun n => put (s.abortTask w.core n true) n)

/-- The lanes' tasks begin in ascending order; a lane that finds no slot parks at its TASKBEG until one may be free (R275). -/
def State.beginTasks (s : State) (u len : Nat) (ts : List (Nat × Nat × Word)) : State :=
  let began := s.nextId
  ts.foldl (fun s t => match s.beginTask u t.1 len t.2.1 t.2.2 began with
    | some s => s
    | none => s.updLanes u [t.1] (fun _ k => { k with place := .slot false })) { s with nextId := s.nextId + 1 }

/-- The office's answer to TASKBEG: the trap, if any, with its detail (R278). -/
def Range.refuses (r : Option Range) (ts : List (Nat × Nat × Word)) : Option (Nat × Word) :=
  match r with
  | none => some (0x10, BitVec.ofNat 32 ((ts.map (·.2.1)).headD 0))
  | some r =>
    match ts.find? (fun t => t.2.1 < r.t0 || r.t0 + r.count ≤ t.2.1) with
    | some t => some (0x10, BitVec.ofNat 32 t.2.1)
    | none => (ts.zipIdx.find? (fun p => p.1.2.1 < r.next || r.begun.contains p.1.2.1 ||
        (ts.take p.2).any (fun t => t.2.1 == p.1.2.1))).map (fun p => (0x0F, BitVec.ofNat 32 p.1.2.1))

/-- The commit office's answer (R277, R278). -/
def State.officeReply (s : State) (u : Nat) : State :=
  let w := s.warp u
  match w.hold with
  | some (.office ls len ts range) =>
    let k := w.lane ((ls.find? (fun l => !(w.lane l).helper)).getD 0)
    let i : Iss := ⟨u, k.pc, k.prio, len, ls, ls, ls.filter (fun l => !(w.lane l).helper), 0⟩
    let g := s.gridOf w
    let s : State := s.updWarp u (fun w => { w with hold := none })
    let s : State := match range with
      | some (t0, n) =>
        if n = 0 || 2 ^ 64 < t0 + n || (s.grid g).range.isSome then s.fragTrap i 0x10 (fun _ => ⟨0x10, 0, BitVec.ofNat 32 n⟩)
        else (s.updGrid g (fun k => { k with range := some ⟨t0, n, t0, [], false⟩ })).adv i
      | none => match Range.refuses (s.grid g).range ts with
        | some (c, info) => s.fragTrap i c (fun _ => ⟨c, 0, info⟩)
        | none => s.beginTasks u len ts
    (s.noteLate u k.pc k.prio len ls).rest u
  | _ => s

/-- COMMIT_OFFICE_REPLY. -/
def execCommitOfficeReply (u : Nat) (s : State) : Out := .next (s.officeReply u)

/-! ### Migration (R409, R410) -/

/-- Whether a compute die is being taken offline: nothing is placed on it any more (R411). -/
def State.goingOff (s : State) (d : Nat) : Bool := s.fw.vacates.any (fun v => v.offline && v.cores.isSome && v.die == some d)

/-- The lowest core over a base die with a free restante slot, of those that pass a test, and the slot; none on a die that goes offline (R411). -/
def State.restanteSlot (s : State) (die : Nat) (ok : Nat → Bool := fun _ => true) : Option (Nat × Nat) :=
  (List.range 64).findSome? (fun j =>
    let c := s.core (64 * die + j)
    if !c.online || c.fenced || s.goingOff ((64 * die + j) / 32) || !ok (64 * die + j) then none
    else ((List.range 4).find? (fun n => !(Map.has c.restante n))).map (fun n => (64 * die + j, n)))

/-- The values of scope registers of a level as a warp sees them. -/
def State.scopeCopy (s : State) (w : Warp) (first n : Nat) : Map Word :=
  (List.range n).foldl (fun m j => Map.setD m j (s.scopeVal w 0 (first + j)) 0) []

/-- The warp leaves its block for a restante slot (R409, R410). -/
def State.moveWarp (s : State) (u core slot : Nat) : State :=
  let w := s.warp u
  let b := s.block w.block
  let nb := s.nextId
  let ng := s.nextId + 1
  let privB := s.scopeCopy w 24 16
  let privC := s.scopeCopy w 40 8
  let s : State := (s.flushDet u).flushCache u
  let s : State := s.updCore w.core (fun c => { c with
    active := c.active.filter (· != u), greedy := if c.greedy == some u then none else c.greedy })
  let s : State := { s with
    nextId := s.nextId + 2
    groups := Map.put s.groups ng ⟨clusterOf core, b.grid, [], []⟩
    blocks := Map.put s.blocks nb { b with
      core := core, group := ng, exact := false, producer := none, wcnt := 1, scratch := 0, banks := [], b := [], bars := [], sp := []
      migrated := true, stamp := nb } }
  let s : State := s.updWarp u (fun w => { w with
    core := core, block := nb, privB := some privB, privC := some privC, det := [], barM := [], barLast := [], lastSync := none, seq := none, slot := 60 + slot, stop := none })
  let s : State := s.updCore core (fun c => { c with restante := Map.put c.restante slot nb })
  let s : State := (s.invalidateL1 core).updBlock nb (fun k => { k with loading := some false })
  ((s.blockParcels nb).foldl (fun s q => s.preload core (parcelKey w.ctx q)) s).startBlock nb

/-- MIGRATE (R409) (DEDUCED, log entry 50). -/
def execMigrate (p : BitVec 3) (a : RegE) (s : State) : Out :=
  let w0 := s.actor
  let never := w0.kind != .warp || (s.block w0.block).exact || !w0.qmaps.isEmpty ||
    (w0.head.any (fun h => (w0.entry h).any (fun l => (w0.lane l).task.isSome)))
  issue s { sysNeed [a.opd2] with ae := true, mem := true, perWarp := true } (fun i s =>
    let w := s.warp i.u
    let done (s : State) (t : Bool) : State := (s.updLanes i.u i.act (fun _ k => k.putP p t)).adv i
    agree i (fun l => (w.lane l).pairVal a.r) (fun va =>
      if never then trap1 0x01 0 0x600
      else if i.handler || !(w.liveLanes.all (fun l => i.act.contains l)) then trap1 0x19
      else if inWindow va then trap1 0x09 va
      else match s.corePlace w.ctx w.core .none va 1 true false with
        | .inr t => t.all
        | .inl pa =>
          let s : State := s.touchXlat w.core (s.gridOf w) w.ctx va.toNat true
          let target := homeDie pa
          if (List.range 8).any w.tokBusy || !s.released i.u 3 || s.scopeWrites.any (fun x => x.2.warp == i.u) then .wait none
          else if baseDieOfCore w.core = target then .ok (done s true)
          else match s.restanteSlot target with
            | none => .blocked (s.updWarp i.u (fun w => { w with hold := some (.restante i.act i.len p) }))
            | some (c, n) => .fin ((done s true).moveWarp i.u c n)))

/-- The books of an instruction that issues at last, from `s0`, with no check of its own left. -/
def State.issuedLate (s s0 : State) (i : Iss) : State :=
  let w := s0.warp i.u
  let s : State := (s.traceIssue i.u w (s0.syncBody w) i.pc i.prio i.frag 0 []).noteLate i.u i.pc i.prio i.len i.frag
  (s.countIssue i (sysNeed []) 2).compare w.core i

/-- RESTANTE_WAIT_TIMEOUT: the waiting MIGRATE writes 0 and the warp continues in place. -/
def execRestanteWaitTimeout (u : Nat) (s : State) : Out :=
  .next (match (s.warp u).hold with
    | some (.restante ls len p) =>
      let h := (s.warp u).lane ((ls.find? (fun l => !((s.warp u).lane l).helper)).getD 0)
      (s.updWarp u (fun w => { w with
        hold := none, pfx := none
        lanes := Map.mapV w.lanes (fun l k =>
          if ls.contains l then (let k : Lane := k.putP p false; if k.helper then k else k.advance len) else k) })).issuedLate s
        ⟨u, h.pc, h.prio, len, ls, ls, ls, 0⟩
    | _ => s)

/-! ### Replay sessions (R394 to R397) -/

/-- The lowest offset at which a session descriptor breaks R395. -/
def badSession (r : List Byte) : Option Nat :=
  let f := field r
  firstBad [(0, 1 ≤ f 0 1 && f 0 1 ≤ 3), (1, f 1 1 < 4), (2, f 2 6 == 0), (8, f 8 8 % 64 == 0), (20, f 20 4 == 0),
    (24, f 24 8 % 16 == 0), (32, f 32 32 == 0)]

/-- The logs of an area, by line, up to the first header without entries or out of order. -/
def readLogs : Nat → List Byte → Map (List Word) → Map (List Word)
  | 0, _, m => m
  | n + 1, bs, m =>
    let h := field bs 0 8
    let line := h % 2 ^ 40
    let cnt := h / 2 ^ 40
    if bs.length < 8 + 4 * cnt || cnt = 0 || m.any (fun p => line ≤ p.1) then m
    else readLogs n (bs.drop (8 + (4 * cnt + 7) / 8 * 8))
      (Map.put m line ((List.range cnt).map (fun j => BitVec.ofNat 32 (field bs (8 + 4 * j) 4))))

/-- The requesters of a log, one for each atomic: its entries without their runs. -/
def requesters (l : List Word) : List Word :=
  l.foldl (fun acc e => acc ++ List.replicate ((e.toNat / 2 ^ 19) % 4096 + 1) (e &&& 0x8007FFFF)) []

/-- The area's bytes for logs by line. -/
def logBytes (m : Map (List Word)) : List Byte :=
  m.foldl (fun bs p => bs ++ leBytes 8 (p.1 % 2 ^ 40 + p.2.length * 2 ^ 40) ++ p.2.foldl (fun b e => b ++ leBytes 4 e.toNat) [] ++
    leBytes (p.2.length % 2 * 4) 0) []

/-- Grids of a warp that belong to its session, in launch order. -/
def State.sessionGrids (s : State) (u : Nat) : List Nat := Map.keysWhere s.grids (fun _ g => g.parentWarp == some u && g.inSession)

/-- The lines of a context leave the home slices, written back (R395). -/
def State.dropLines (s : State) (x : Nat) : State :=
  { s with llc := Map.mapV s.llc (fun _ set => set.filter (fun e => !s.ctxMaps x (e.1 * 256) 256)) }

/-- RPBEG (R395). -/
def execRpbeg (a : RegE) (s : State) : Out :=
  issue s { sysNeed [a.opd2] with scc := false, perWarp := true } (fun i s =>
    withDescriptor i s a.r 64 64 (fun s va r =>
      let w := s.warp i.u
      let f := field r
      let x := s.ctx w.ctx
      match badSession r with
      | some off => (offTrap va off).all
      | none =>
        if x.session.isSome then trap1 0x01 0 0x400
        else if !s.released i.u 3 then .wait (some (.release 3))
        else
          let log : Dword := BitVec.ofNat 64 (f 8 8)
          match (if f 0 1 = 1 then .inl [] else s.agentPlaces w log (f 16 4) true false) with
          | .inr t => t.all
          | .inl ks =>
            let raw := readLogs ks.length (ks.map (s.dieByte w.core)) []
            let lines := if f 0 1 = 2 then Map.mapV raw (fun _ l => requesters l) else raw
            let ses : Session := ⟨f 0 1, i.u, log, f 16 4, BitVec.ofNat 64 (f 24 8), lines, [], false, false, 0, 0,
              if f 0 1 = 1 then [] else x.recorded, false⟩
            let s : State := if f 1 1 % 2 = 1 then
                (((s.gridBlocks (s.gridOf w)).map (fun b => (s.block b).core)).eraseDups).foldl (fun s c =>
                  (s.invalidateL1 c).count (s.gridOf w) 0x18 1) s
              else s
            let s : State := if f 1 1 / 2 % 2 = 1 then s.dropLines w.ctx else s
            let s : State := s.updCtx w.ctx (fun x => { x with session := some ses })
            .ok ((s.updWarp i.u (fun w => { w with hold := some (.replayArm i.act i.len) })).stall i.u (some .idle))))

/-- REPLAY_ARMED: RPBEG completes. -/
def execReplayArmed (u : Nat) (s : State) : Out :=
  .next (match (s.warp u).hold with
    | some (.replayArm ls len) =>
      let h := (s.warp u).lane ((ls.find? (fun l => !((s.warp u).lane l).helper)).getD 0)
      ((s.updCtx (s.warp u).ctx (fun x => { x with session := x.session.map (fun y => { y with armed := true }) })).updWarp u (fun w => { w with
        hold := none, lanes := Map.mapV w.lanes (fun l k => if ls.contains l && !k.helper then k.advance len else k) })).noteLate u h.pc h.prio len ls
    | _ => s)

/-- RPEND (R397). -/
def execRpend (p : BitVec 3) (s : State) : Out :=
  issue s { sysNeed [] with scc := false, perWarp := true } (fun i s =>
    let w := s.warp i.u
    match (s.ctx w.ctx).session with
    | none => trap1 0x01
    | some x =>
      let gs := s.sessionGrids x.warp
      if gs.any (fun g => !(s.grid g).ended) || s.reqs.any (fun r => match r.2 with | .atom t => t.warp == x.warp | .xaddm t => t.warp == x.warp | _ => false) then .wait none
      else
        let s : State := if x.mode = 1 then s.writeVa w.ctx x.log (logBytes x.lines) else s
        let s : State := s.writeVa w.ctx x.status (leBytes 4 ((if x.mismatch then 1 else 0) + (if x.overflow then 2 else 0)) ++
          leBytes 4 x.firstIx ++ leBytes 8 (x.firstLine * 256))
        let s : State := s.updCtx w.ctx (fun c => { c with session := none, recorded := if x.mode = 1 then x.cores else c.recorded })
        let s : State := gs.foldl (fun s g => s.updGrid g (fun k => { k with inSession := false })) s
        .ok ((s.updLanes i.u i.act (fun _ k => k.putP p x.mismatch)).adv i))

/-! ### Write-set capture (R398) -/

/-- The lowest offset at which a capture descriptor breaks R398. -/
def badCapture (r : List Byte) : Option Nat :=
  let f := field r
  firstBad [(0, f 0 8 % 65536 == 0), (12, f 12 4 == 0), (16, f 16 8 % 65536 == 0), (24, f 24 8 % 65536 == 0), (40, f 40 24 == 0)]

/-- The pages of a capture as the tables translate them now, or the trap of a page of the save area. -/
def State.capturePages (s : State) (w : Warp) (r : List Byte) : Trap ⊕ Capture :=
  let f := field r
  let page (va n : Nat) (wr : Bool) : Nat ⊕ Trap := s.place w.ctx w.core .none (BitVec.ofNat 64 (va + 65536 * n)) 1 false wr
  let save := (List.range (f 8 4)).map (fun n => page (f 0 8) n true)
  match save.findSome? (fun x => match x with | .inr t => some t | .inl _ => none) with
  | some t => .inl t
  | none =>
    let pas (l : List (Nat ⊕ Trap)) : List Nat := l.filterMap (fun x => match x with | .inl k => some (k / 65536) | .inr _ => none)
    .inr ⟨pas ((List.range (f 24 8 / 65536)).map (fun n => page (f 16 8) n false)), pas save, [], [], false⟩

/-- A capture is armed under its descriptor, which shows nothing saved (DEDUCED, log entry 53). -/
def State.armCapture (s : State) (ctx key : Nat) (c : Capture) : State :=
  (s.updCtx ctx (fun x => { x with captures := Map.put x.captures key c })).captureStatus ctx key

def execWscap (a : RegE) (s : State) : Out :=
  issue s { sysNeed [a.opd2] with scc := false, perWarp := true } (fun i s =>
    withDescriptor i s a.r 64 64 (fun s va r =>
      let w := s.warp i.u
      match badCapture r with
      | some off => (offTrap va off).all
      | none =>
        if !s.released i.u 3 then .wait none
        else match s.capturePages w r with
          | .inl t => t.all
          | .inr c => .ok ((s.armCapture w.ctx va.toNat c).adv i)))

/-- DEDUCED: log entry 54. -/
def execWsrst (a : RegE) (s : State) : Out :=
  issue s { sysNeed [a.opd2] with scc := false, perWarp := true } (fun i s =>
    withDescriptor i s a.r 64 64 (fun s va r =>
      let w := s.warp i.u
      match badCapture r, Map.get? (s.ctx w.ctx).captures va.toNat with
      | some off, _ => (offTrap va off).all
      | none, none => trap1 0x01 0 0x401
      | none, some old =>
        if w.children.any (fun g => Map.has s.grids g && !(s.grid g).ended) then .wait none
        else match s.capturePages w r with
          | .inl t => t.all
          | .inr c =>
            let s : State := old.saved.foldl (fun s p => s.copyPage p.2 p.1) s
            .ok (((s.acquire i.u 1).armCapture w.ctx va.toNat c).adv i)))

/-! ### COLL and SIGNAL (R414, R417) -/

/-- Bytes of an element type of COLL. -/
def collSize (t : Nat) : Nat := match t with | 1 => 2 | 2 => 8 | _ => 4

/-- The lowest offset at which a collective's descriptor breaks R414 (DEDUCED, log entry 55). -/
def badColl (r : List Byte) : Option Nat :=
  let f := field r
  let e := collSize (f 2 1)
  let mode := f 1 1
  firstBad [(0, f 0 1 < 4), (1, mode < 3), (2, f 2 1 < 4 && (mode != 2 || 2 ≤ f 2 1)), (3, f 3 1 < 3 && (mode != 2 || f 3 1 == 0)),
    (8, f 8 8 % e == 0), (16, f 16 8 % e == 0), (24, 1 ≤ f 24 8 && f 24 8 ≤ 2 ^ 32), (32, mode != 1 || f 32 2 < 1024),
    (34, if mode == 1 then 1 ≤ f 34 2 && f 34 2 ≤ 1024 else f 34 2 == 1), (40, f 40 4 < 2), (48, f 48 16 == 0)]

def execColl (a : BitVec 6) (k : BitVec 3) (s : State) : Out :=
  issue s { sysNeed [wait2 a] with scc := false, atHead := true, mem := true, perWarp := true } (fun i s =>
    withDescriptor i s a 64 64 (fun s va r =>
      let w := s.warp i.u
      let f := field r
      match badColl r, Map.get? (s.ctx w.ctx).groups (f 4 4) with
      | some off, _ => (offTrap va off).all
      | none, none => trap1 0x09 0 (BitVec.ofNat 32 (f 4 4))
      | none, some g =>
        if (s.block w.block).det && f 1 1 == 0 && f 2 1 != 3 then trap1 0x0C
        else
          let c : Coll := ⟨w.core, i.u, w.block, s.gridOf w, w.ctx, k.toNat, f 0 1, f 1 1, f 2 1, f 3 1, f 4 4, BitVec.ofNat 64 (f 8 8),
            BitVec.ofNat 64 (f 16 8), f 24 8, f 32 2, f 34 2, f 36 4, f 40 4 % 2 == 1, BitVec.ofNat 32 (f 44 4), g.seq, none, none, s.targets w, 0⟩
          let s : State := s.updCtx w.ctx (fun x => { x with groups := Map.put x.groups (f 4 4) { g with seq := g.seq + 1 } })
          let s : State := { s with colls := Map.put s.colls s.nextId c, nextId := s.nextId + 1 }
          .ok ((s.updWarp i.u (fun w => w.tokAdd k.toNat 1)).adv i)))

/-- SIGNAL (R417): a may-fault addition at each lane's signal, after a sys-scope release. -/
def execSignal (a : RegE) (b : Src) (s : State) : Out :=
  mayFault s { sysNeed [a.opd2, b.opd] with atHead := true } false (fun _ _ => none) (fun _ => .signal) (fun _ _ => []) false
    (fun s w l k => ⟨l, k.pairVal a.r, 8, true, true, ((s.get w l k b).signExtend 64).setWidth 128⟩)

end Sys2Proof.Machine
end

