-- ==== Sys2Proof/Machine/Requests.lean ====
section
/-! DEFINITION. Requests in flight, step by step: translation, the die point, home slices, fills, acknowledgements, arrivals (R198, R212, R216 to
R227, R231, R235, R248, R259, R358, R394 to R398). -/

namespace Sys2Proof.Machine

/-! ### Replay logs (R394, R396) -/

/-- A requester as a log entry without its run: a lane of a warp, or an engine class of a core. -/
def requesterOf (cls core wix lane : Nat) : Word :=
  if cls = 0 then BitVec.ofNat 32 (core % 256 * 2048 + wix % 64 * 32 + lane % 32) else BitVec.ofNat 32 (2 ^ 31 + core % 256 * 2048 + cls * 32)
def Atom.requester (a : Atom) (p : AtomLane) : Word := requesterOf a.cls a.core a.wix p.lane

/-- The requester of an XADDM: the lowest of the lanes it acts for (DEDUCED, log entry 51). -/
def Xaddm.requester (x : Xaddm) : Word := requesterOf 0 x.core x.wix (x.lanes.headD 0)

/-- Bytes of an area with the logs of all lines (DEDUCED, log entry 51). -/
def logSize (m : Map (List Word)) : Nat := m.foldl (fun n p => n + 8 + (4 * p.2.length + 7) / 8 * 8) 0

/-- An entry appended to a log, or the last one's run extended. -/
def appendLog (l : List Word) (who : Word) : List Word :=
  match l.getLast? with
  | some e => if e &&& 0x8007FFFF == who && e.toNat / 2 ^ 19 % 4096 < 4095 then l.dropLast ++ [e + 0x80000] else l ++ [who]
  | none => [who]

/-- The entry that atomic number n of a line stands in; the number of entries past the last. -/
def entryIndex : List Word → Nat → Nat
  | [], _ => 0
  | e :: r, n => let c := e.toNat / 2 ^ 19 % 4096 + 1; if n < c then 0 else 1 + entryIndex r (n - c)

/-- Whether an enforced session lets an atomic be performed now: it is next, or has no entry left. -/
def Session.allows (x : Session) (line : Nat) (who : Word) : Bool :=
  x.mode != 2 || (let l := Map.getD x.lines line []; l.head? == some who || !l.contains who)

/-- A session after an atomic of a line has been performed. -/
def Session.note (x : Session) (line : Nat) (who : Word) (forced : Bool) : Session :=
  let l := Map.getD x.lines line []
  match x.mode with
  | 1 =>
    let m := Map.put x.lines line (appendLog l who)
    if x.overflow then x else if x.logBytes < logSize m then { x with overflow := true } else { x with lines := m }
  | 2 => { x with lines := Map.put x.lines line (l.erase who), mismatch := x.mismatch || forced || !l.contains who }
  | _ =>
    let n := Map.getD x.done line 0
    let x' : Session := { x with done := Map.put x.done line (n + 1) }
    if (requesters l)[n]? == some who || x.mismatch then x'
    else { x' with mismatch := true, firstIx := entryIndex l n, firstLine := line }

/-- The parts of an atomic that may be performed now, in order. -/
def Atom.goes (x : Option Session) (a : Atom) (forced : Bool) : List AtomLane :=
  let rest := a.parts.drop a.performed
  match x with
  | none => rest
  | some x => if forced then rest else
      (rest.foldl (fun (acc : List AtomLane × Session × Bool) p =>
        let (l, y, on) := acc
        if on && y.allows (p.pa / 256) (a.requester p) then (l ++ [p], y.note (p.pa / 256) (a.requester p) false, true) else (l, y, false))
        ([], x, true)).1

/-! ### Translation (R212, R358) -/

/-- TRANSLATION_CHECK_DONE. -/
def execTranslationCheckDone (u : Nat) (s : State) : Out := .next (if s.checkReady u then (s.checkDone u).sweep else s)

/-- PAGE_WALK_READ_ARRIVES: one table entry (R209 to R212). -/
def execPageWalkReadArrives (k : Nat) (s : State) : Out :=
  .next (match Map.get? s.reqs k with
    | some (.walk p) =>
      let va := p.va % 2 ^ 57
      let upd (s : State) (f : Check → Check) : State := s.updWarp p.warp (fun w => { w with check := w.check.map f })
      let s : State := s.countServed (s.gridOf (s.warp p.warp)) [p.table + 8 * levelIndex va p.level]
      match s.pteStep p.ctx va p.level p.table with
      | .next t => (s.keepEntry p.core ⟨p.ctx, p.level, va / 2 ^ levelShift p.level, t⟩).setReq k (.walk { p with level := p.level + 1, table := t })
      | .leaf x => upd ((s.delReq k).fillTlb p.core x) (fun c => { c with xlat := c.xlat ++ [x] })
      | .fault m => upd (s.delReq k) (fun c => { c with bad := c.bad ++ [(p.va / 65536, (walkInfo p.level m).toNat)] })
    | _ => s)

/-! ### The die point (R216, R218, R237) -/

def State.dieAckReady (s : State) (k : Nat) : Bool :=
  match Map.get? s.reqs k with
  | some (.store t) => t.stage == .issued && s.mayPass k (.store t) false
  | some (.atom a) => a.scope != 0 && a.pass == 0 && !((Req.atom a).pas.any isSp) && s.mayPass k (.atom a) false
  | some (.xaddm x) => x.pass == 0 && s.mayPass k (.xaddm x) false
  | _ => false

/-- Takes the next sequence number. -/
def State.tock (s : State) : State := { s with nextId := s.nextId + 1 }

/-- STORE_ACK_DIE_POINT: a store or an atomic passes (R216, R220); a store to another core's window is performed there at once (R203, R237). -/
def execStoreAckDiePoint (k : Nat) (s : State) : Out :=
  .next (match s.dieAckReady k, Map.get? s.reqs k with
    | true, some (.store t) =>
      if t.cells.any (fun c => isSp c.1) then ((s.delReq k).setBytes t.cells).sweep
      else (s.setReq k (.store { t with stage := .passed, pass := s.nextId })).tock
    | true, some (.atom a) => (s.setReq k (.atom { a with pass := s.nextId })).tock
    | true, some (.xaddm x) => (s.setReq k (.xaddm { x with pass := s.nextId })).tock
    | _, _ => s)

/-! ### Home slices (R218, R222, R226, R259) -/

/-- Places that write-set capture still holds. -/
def State.heldPages (s : State) (ctx : Nat) (pas : List Nat) : Bool := pas.any (fun k => !isSp k && s.captures ctx (k / 65536))

/-- Whether a load at its home can be served: its core's writes before it, and loads of its lane, come first; one that passed the die point comes
after what passed there before it; and no acknowledgement that its answer would overtake is still to come (R17, R218, R225, R231)
(DEDUCED, log entry 57). -/
def State.homeLoadReady (s : State) (k : Nat) (l : Load) : Bool :=
  let pas := l.pas.filter (fun p => !(Map.has l.fwd p))
  !s.olderReq k (.load l) pas (fun r => r.openStore || r.openAtom) && !s.ackDue l.core pas &&
    !(if l.pass = 0 then s.meetsSeen l.core l.floor pas else s.passedBefore l.core l.pass pas Req.openAtom) &&
    !(s.reqs.any (fun p => p.1 < k && (match p.2 with
      | .load j => j.warp == l.warp && j.lane == l.lane && j.serve != .done && meets j.pas l.pas
      | _ => false)))

/-- The home slice of a line, among all of the package. -/
def sliceOf (line : Nat) : Nat := homeDie (line * 256) * 16 + homeSlice (line * 256)

/-- Whether a store that has passed can be performed: stores of one core and path reach one slice in issue order (R222); stores to different slices,
or to a peer's memory, are in no order (R228, R259, R413). -/
def State.storeReady (s : State) (k : Nat) (t : Store) : Bool :=
  let pas := t.cells.map (·.1)
  let slice (c : Map Byte) : Nat := sliceOf ((c.map (·.1)).headD 0 / 256)
  t.stage == .passed && !s.heldPages t.ctx pas && !s.olderReq k (.store t) pas (fun r => r.openAtom || r.openRead) &&
    !s.passedBefore t.core t.pass pas (fun r => r.openStore || r.openAtom || r.openRead) &&
    !(s.reqs.any (fun p => p.1 < k && p.2.openStore && (match p.2 with
      | .store x => x.core == t.core && x.cls == t.cls && slice x.cells == slice t.cells && !(pas.any isRelay)
      | _ => false)))

def State.atomReady (s : State) (k : Nat) (a : Atom) : Bool :=
  let pas := (Req.atom a).pas
  a.scope != 0 && a.performed < a.parts.length && !s.heldPages a.ctx pas && (a.pass != 0 || pas.any isSp) &&
    !s.passedBefore a.core a.pass pas (fun r => r.openStore || r.openAtom || r.openRead) &&
    !s.olderReq k (.atom a) pas (fun r => r.openStore || r.openAtom || r.openRead)

/-- Whether an XADDM's next line can be performed: its lock is free or its own (R248). -/
def State.xaddmFree (s : State) (k : Nat) (x : Xaddm) : Bool :=
  match x.linesLeft with
  | [] => false
  | ln :: _ => !s.heldPages x.ctx [ln * 256] && (x.locked ||
      (x.pass != 0 && !s.passedBefore x.core x.pass x.pas (fun r => r.openStore || r.openAtom || r.openRead) &&
        !s.olderReq k (.xaddm x) x.pas (fun r => r.openStore || r.openAtom || r.openRead) && !(s.reqs.any (fun p => match p.2 with
        | .xaddm y => p.1 != k && y.locked && !y.linesLeft.isEmpty && y.pas.head? == x.pas.head?
        | _ => false))))

/-- The same, where a session lets that line's atomic be performed now (R396). -/
def State.xaddmReady (s : State) (k : Nat) (x : Xaddm) : Bool :=
  s.xaddmFree k x && (match s.sessionForImage x with | some y => y.allows (x.linesLeft.headD 0) x.requester | none => true)

def State.servedReady (s : State) (k : Nat) : Bool :=
  match Map.get? s.reqs k with
  | some (.load l) => (l.serve == .diePoint && s.mayPass k (.load l) true) || (l.serve == .home && s.homeLoadReady k l)
  | some (.fill f) => (f.passed.isNone && s.mayPass k (.fill f) true) || (f.passed.isSome && f.got.isNone &&
      (let pas := (Req.fill f).pas.filter (fun p => !(Map.has (f.passed.getD []) p))
       !s.ackDue f.core pas && !s.passedBefore f.core f.pass pas Req.openAtom) &&
      !(s.reqs.any (fun p => p.1 < k && (match p.2 with | .fill g => g.core == f.core && g.sector == f.sector && g.got.isNone | _ => false))))
  | some (.store t) => s.storeReady k t
  | some (.atom a) => s.atomReady k a && !(a.goes (s.sessionFor a) false).isEmpty
  | some (.xaddm x) => !x.locked && s.xaddmReady k x
  | _ => false

/-- The grid of a request, for its counts. -/
def Req.gridOf (s : State) (r : Req) : Nat :=
  match r with
  | .load l => s.gridOf (s.warp l.warp)
  | .store t => t.grid
  | .atom a => a.grid
  | .xaddm x => x.grid
  | _ => 0

/-- What an atomic writes is performed at its home, and becomes host-visible later; nothing remains of a window's bytes (R226, R235). -/
def State.performed (s : State) (cls core warp block grid ctx : Nat) (cells : Map Byte) : State :=
  let s : State := s.setBytes cells
  if cells.isEmpty || cells.any (fun c => isSp c.1) then s
  else s.addReq (.store ⟨cls, core, warp, block, grid, ctx, cells, .acked, [], 0, s.nextId, 0, s.nextId, false, []⟩)

/-- The parts of an atomic that go, performed at the home slice, and what a session notes (R226, R243, R244, R396). -/
def State.performAtom (s : State) (k : Nat) (a : Atom) (forced : Bool) : State :=
  let go := a.goes (s.sessionFor a) forced
  let (ps, cells) := atomRun a.aop s.byte go
  let s : State := go.foldl (fun s p => match s.sessionFor a with
    | some x => s.updCtx a.ctx (fun c => { c with session := some (x.note (p.pa / 256) (a.requester p) forced) })
    | none => s) s
  let parts := a.parts.take a.performed ++ ps ++ a.parts.drop (a.performed + ps.length)
  ((((s.performed a.cls a.core a.warp a.block a.grid a.ctx cells).setReq k (.atom { a with parts := parts, performed := a.performed + ps.length, due := if a.acq then max a.due (s.releaseDue a.core
      (Req.atom a).pas) else 0 })).noteRelease a.core a.rel (cells.map (·.1))).count a.grid 0x09 ps.length).countServed
    a.grid (if a.performed = 0 then (Req.atom a).pas else []) false a.beats |>.llcUses (cells.map (·.1)) true

/-- One line of an XADDM: bytes with their carry, the flag word, and what a session notes (R48, R248, R394). -/
def State.xaddmLine (s : State) (k : Nat) (x : Xaddm) (forced : Bool) : State :=
  match x.linesLeft with
  | [] => s
  | ln :: rest =>
    let (cells, carry) := (x.pas.zip x.src).zipIdx.foldl (fun (acc : Map Byte × Nat) p =>
      let pa := p.1.1
      if pa / 256 != ln then acc
      else if p.2 < 544 then
        let v := (s.byte pa).toNat + p.1.2.toNat + acc.2
        (Map.put acc.1 pa (BitVec.ofNat 8 v), v / 256)
      else if p.2 = 544 then (Map.put acc.1 pa ((s.byte pa ||| p.1.2) &&& 7), acc.2)
      else (Map.put acc.1 pa 0, acc.2)) ([], x.carry)
    let s : State := match s.sessionForImage x with
      | some y => s.updCtx x.ctx (fun c => { c with session := some (y.note ln x.requester forced) })
      | none => s
    ((((s.performed 0 x.core x.warp x.block x.grid x.ctx cells).setReq k (.xaddm { x with carry := carry, linesLeft := rest, locked := true })).countServed x.grid
      (if x.locked then [] else x.pas)).llcUses (cells.map (·.1)) true).count x.grid 0x09 (if rest.isEmpty then 1 else 0)

/-- REQUEST_SERVED_HOME_SLICE: a load or fill passes the die point, then is served; a store or atomic is performed. -/
def execRequestServedHomeSlice (k : Nat) (s : State) : Out :=
  .next (match s.servedReady k, Map.get? s.reqs k with
    | true, some (.load l) =>
      if l.serve = .diePoint then
        let fwd := (s.takeHeld l.core l.pas).foldl (fun m p => Map.put m p.1 (some p.2)) l.fwd
        let due := if l.acq then max l.due (s.heldDue l.core l.pas) else l.due
        ((s.markSeen l.core l.pas).setReq k (.load { l with serve := .home, fwd := fwd, pass := s.nextId, due := due })).tock
      else
        let got := l.pas.zipIdx.foldl (fun m p => Map.put m p.2 (match Map.get? l.fwd p.1 with | some (some b) => b | _ => s.byte p.1)) l.got
        let mine := l.pas.filter (fun p => !(Map.has l.fwd p))
        let due := if l.acq then max l.due (s.releaseDue l.core mine) else l.due
        (s.setReq k (.load { l with serve := .done, got := got, due := due })).countServed (s.gridOf (s.warp l.warp)) mine
    | true, some (.fill f) =>
      let pas := (Req.fill f).pas
      match f.passed with
      | none => ((s.markSeen f.core pas).setReq k (.fill { f with passed := some (s.takeHeld f.core pas), pass := s.nextId })).tock
      | some m =>
        -- an atomic that the fill has not waited for is still to come: the L1 does not keep the bytes
        let early := s.reqs.any (fun p => p.1 < k && p.2.core == f.core && p.2.openAtom && meets p.2.pas pas)
        (s.setReq k (.fill { f with got := some (pas.map (fun p => Map.getD m p (s.byte p))), stale := f.stale || early })).countServed f.grid
          (pas.filter (fun p => !(Map.has m p)))
    | true, some (.store t) => ((((s.setBytes t.cells).setReq k (.store { t with stage := .performed, done := s.nextId })).tock).noteRelease t.core t.rel
        t.pas).countServed t.grid t.pas true
    | true, some (.atom a) => s.performAtom k a false
    | true, some (.xaddm x) => s.xaddmLine k x false
    | _, _ => s)

/-- XADDM_LINE_PERFORMED: a further line of a locked XADDM. -/
def execXaddmLinePerformed (k : Nat) (s : State) : Out :=
  .next (match Map.get? s.reqs k with
    | some (.xaddm x) => if x.locked && s.xaddmReady k x then s.xaddmLine k x false else s
    | _ => s)

/-- A line's atomics that wait in an enforced session, oldest first. -/
def State.enforcedWait (s : State) (ctx line : Nat) : Option Nat :=
  (Map.find? s.reqs (fun k _ => match Map.get? s.reqs k with
    | some (.atom a) => a.ctx == ctx && (a.parts.headD ⟨0, 0, 0, 0, 0⟩).pa / 256 == line && s.atomReady k a &&
        (match s.sessionFor a with | some x => x.mode == 2 && (a.goes (some x) false).isEmpty | none => false)
    | some (.xaddm x) => x.ctx == ctx && x.linesLeft.head? == some line && s.xaddmFree k x && s.enforced (.xaddm x) && !s.xaddmReady k x
    | _ => false)).map (·.1)

/-- REPLAY_ENFORCE_TIMEOUT (R396): the atomic that has waited longest is performed. -/
def execReplayEnforceTimeout (x line : Nat) (s : State) : Out :=
  .next (match (s.enforcedWait x line).bind (fun k => (Map.get? s.reqs k).map (fun r => (k, r))) with
    | some (k, .atom a) => s.performAtom k a true
    | some (k, .xaddm y) => s.xaddmLine k y true
    | _ => s)

/-- Whether a write of the context waits for a page to be saved (R398). -/
def State.pageWaits (s : State) (ctx page : Nat) : Bool :=
  s.captures ctx page && s.reqs.any (fun p => (match p.2 with
    | .store t => t.ctx == ctx && t.stage == .passed
    | .atom a => a.ctx == ctx && p.2.openAtom
    | .xaddm x => x.ctx == ctx && p.2.openAtom
    | _ => false) && p.2.pas.any (fun k => k / 65536 == page))

/-- CAPTURE_PAGE_SAVED. -/
def execCapturePageSaved (x page : Nat) (s : State) : Out := .next (if s.pageWaits x page then s.savePage x page else s)

/-! ### Acknowledgements (R199, R216, R220, R235) -/

/-- Clears mask bits of bytes that no younger store of the core covers (R199). -/
def State.unmask (s : State) (k : Nat) (t : Store) : State :=
  let mine := (t.cells.map (·.1)).filter (fun pa => !(s.stores.any (fun p => k < p.1 && p.2.core == t.core && p.2.cls == 0 && p.2.stage != .acked &&
    Map.has p.2.cells pa)))
  s.updCore t.core (fun c => mine.foldl (fun c pa =>
    { c with l1 := Map.upd c.l1 (pa / 256) (fun l =>
        { l with
          mask := l.mask &&& ~~~ (1#256 <<< (pa % 256))
          data := if l.valid.getLsbD (pa % 256 / 64) then l.data else Map.del l.data (pa % 256) }) }) c)

/-- Whether an older store of the core to some of the places awaits its home acknowledgement, with which its mask bits clear (R199). -/
def State.masksDue (s : State) (k core : Nat) (pas : List Nat) : Bool :=
  s.stores.any (fun p => p.1 < k && p.2.core == core && p.2.cls == 0 && p.2.stage != .acked && meets (p.2.cells.map (·.1)) pas)

/-- Whether a home slice can acknowledge a request: stores of one base die to one byte are acknowledged in the order in which they passed (R218, R231). -/
def State.homeAckReady (s : State) (k : Nat) : Bool :=
  match Map.get? s.reqs k with
  | some (.store t) => t.stage == .performed &&
      !s.olderReq k (.store t) (t.cells.map (·.1)) (fun r => match r with | .fill _ => true | _ => false) &&
      !(s.stores.any (fun p => p.2.heldAt (baseDieOfCore t.core) && p.2.pass < t.pass && meets (p.2.cells.map (·.1)) (t.cells.map (·.1))))
  | some (.atom a) => a.scope != 0 && a.ret.isNone && a.performed == a.parts.length && !(s.masksDue k a.core (Req.atom a).pas)
  | some (.xaddm x) => x.locked && x.linesLeft.isEmpty && !(s.masksDue k x.core x.pas)
  | _ => false

/-- STORE_ACK_HOME. -/
def execStoreAckHome (k : Nat) (s : State) : Out :=
  .next (match s.homeAckReady k, Map.get? s.reqs k with
    | true, some (.store t) => ((if t.cls = 0 then s.unmask k t else s).setReq k (.store { t with stage := .acked }))
    | true, some (.atom a) => (((s.passTo a.due).delReq k).settleAcquire a.warp).sweep
    | true, some (.xaddm _) => (s.delReq k).sweep
    | _, _ => s)

/-- Whether a store can become host-visible: its bytes are in the array, or no store performed before it to one of its places still stands in the write
buffer (R219, R235). -/
def State.showReady (s : State) (t : Store) : Bool :=
  t.stage == .acked && (t.shown || !(s.stores.any (fun p => p.2.buffered && p.2.done < t.done && meets p.2.pas t.pas)))

/-- HOST_VISIBLE (R235): the store's bytes enter the array. -/
def execHostVisible (k : Nat) (s : State) : Out :=
  .next (match Map.get? s.reqs k with
    | some (.store t) => if s.showReady t then (((if t.shown then s else s.setHost t.cells)).delReq k).sweep else s
    | _ => s)

/-! ### Fills and arrivals (R19, R198, R205, R219, R303) -/

/-- A load takes the bytes of a fill: a forwarded byte, the fill's own, or the merged one. -/
def Load.takeFill (l : Load) (k sector : Nat) (own merged : Nat → Byte) : Load :=
  match l.serve with
  | .fill ks =>
    let got := l.pas.zipIdx.foldl (fun m p =>
      if p.1 / 64 != sector then m
      else Map.put m p.2 (match Map.get? l.fwd p.1 with
        | some (some b) => b
        | some none => own p.1
        | none => merged p.1)) l.got
    let ks := ks.erase k
    { l with got := got, serve := if ks.isEmpty then .done else .fill ks }
  | _ => l

/-- Whether a fill enters the L1 next: the fills of its sector arrive in the order in which they left (DEDUCED, log entry 58). -/
def State.fillReady (s : State) (k : Nat) : Bool :=
  match Map.get? s.reqs k with
  | some (.fill f) => f.got.isSome &&
      !(s.reqs.any (fun p => p.1 < k && (match p.2 with | .fill g => g.core == f.core && g.sector == f.sector | _ => false)))
  | _ => false

/-- A block-scope atomic whose fills have come is performed: its new loads take its place in an acquire of its warp. -/
def State.fillAtom (s : State) (k : Nat) (a : Atom) (base : Nat → Byte) : State :=
  let k0 := s.nextId
  let s : State := (s.delReq k).l1Atom k a base
  let new := Map.keysWhere s.reqs (fun j r => k0 ≤ j && (match r with | .load _ => true | _ => false))
  (s.updWarp a.warp (fun w => { w with acq := match w.acq with
    | some (ks, inv) => some (if ks.contains k then ks.erase k ++ new else ks, inv)
    | none => none })).settleAcquire a.warp

/-- A block-scope atomic takes what a fill brought, and is performed with its last one, on the L1's bytes or, where no line holds them, on those that
it keeps (R227). -/
def State.atomFill (s : State) (j : Nat) (a : Atom) (k sector : Nat) (merged : Nat → Byte) : State × Map Byte :=
  let mine := if a.own.contains k then a.pas.filter (fun p => p / 64 == sector && !Map.has a.got p) else []
  let a : Atom := { a with fills := a.fills.erase k, got := mine.foldl (fun m p => Map.put m p (merged p)) a.got }
  let base (p : Nat) : Byte := if (s.core a.core).l1Has p then (s.core a.core).l1Byte p else Map.getD a.got p 0
  if a.fills.isEmpty then (s.fillAtom j a base, (atomRun a.aop base a.parts).2) else (s.setReq j (.atom a), [])

/-- L1_FILL: the sector enters its line, unless it was invalidated after it was asked for or the line is no longer there; what waited for it goes on in
order (DESIGN CHOICE, log entry 10). -/
def execL1Fill (k : Nat) (s : State) : Out :=
  .next (match s.fillReady k, Map.get? s.reqs k with
    | true, some (.fill f) =>
      let bs := f.got.getD []
      let own (pa : Nat) : Byte := bs.getD (pa % 64) 0
      let s : State := s.delReq k
      let line := Map.get? (s.core f.core).l1 (f.sector / 4)
      let kept := !f.stale && line.any (fun l => f.bank == some l.bank && !((s.core f.core).bankOf l.bank).stopping)
      let s : State := if kept then s.updCore f.core (fun c => c.l1Fill f.sector bs) else s
      let waits := Map.keysWhere s.reqs (fun _ r => r.onFill k)
      -- bytes that an atomic of this fill has written, where no line of the L1 could take them
      (waits.foldl (fun (acc : State × Map Byte) j =>
        let (s, kept) := acc
        let merged (pa : Nat) : Byte := if (s.core f.core).l1Has pa then (s.core f.core).l1Byte pa else Map.getD kept pa (own pa)
        match Map.get? s.reqs j with
        | some (.load l) => (s.setReq j (.load (l.takeFill k f.sector own merged)), kept)
        | some (.atom a) => let (s, m) := s.atomFill j a k f.sector merged; (s, m.foldl (fun m c => Map.put m c.1 c.2) kept)
        | _ => (s, kept)) (s, [])).1.sweep
    | _, _ => s)

/-- The words that a load gives its registers (R114). -/
def Load.words (l : Load) : List Word :=
  let v := leNat (bytesOf l.got l.n)
  if l.n ≤ 4 then [if l.sgn then sext32 v (8 * l.n) else BitVec.ofNat 32 v]
  else (List.range ((l.n + 3) / 4)).map (fun j => BitVec.ofNat 32 (v / 2 ^ (32 * j)))

/-- Writes a lane's registers. -/
def Lane.putAll (k : Lane) (rs : List (BitVec 6)) (ws : List Word) : Lane := (rs.zip ws).foldl (fun k p => k.put p.1.toNat p.2) k

def State.arrivalReady (s : State) (k : Nat) : Bool :=
  match Map.get? s.reqs k with
  | some (.load l) => l.serve == .done && s.tickFits l.due && (s.awayWarp l.warp).isNone && (match l.push with
      | some b => (!(s.warp l.warp).pushes b || ((s.core l.core).bankOf b).fifo.length < 512) && !(s.reqs.any (fun p => p.1 < k && (match p.2 with
          | .load j => j.warp == l.warp && j.push == some b
          | _ => false)))
      | none => true)
  | some (.atom a) => a.ret.isSome && a.scope != 0 && a.performed == a.parts.length && s.tickFits a.due && !(s.masksDue k a.core (Req.atom a).pas)
  | _ => false

/-- LOAD_VALUE_ARRIVES: a load's registers, an accumulator's image, a FIFO's group, or an atomic's old values; what acquires through it finds a
later tick (R236). -/
def execLoadValueArrives (k : Nat) (s : State) : Out :=
  .next (match s.arrivalReady k, Map.get? s.reqs k with
    | true, some (.load l) =>
      let s : State := ((s.delReq k).passTick 1).passTo l.due
      let s : State := match l.acc, l.push with
        | some b, _ => s.updWarp l.warp (fun w => { w.setAcc b (Acc.ofImage (bytesOf l.got 552)) with xaWait := w.xaWait.erase b })
        | none, some b =>
          let g := (List.range 32).map (fun j => BitVec.ofNat 32 (leNat ((List.range 4).map (fun i => Map.getD l.got (4 * j + i) 0))))
          if (s.warp l.warp).pushes b then s.updCore l.core (fun c => c.setBank b { c.bankOf b with fifo := (c.bankOf b).fifo ++ [g] }) else s
        | none, none => s.updWarp l.warp (fun w => w.updLane l.lane (fun x => x.putAll l.dst l.words))
      ((s.settleAcquire l.warp).aeFinish l.warp).sweep
    | true, some (.atom a) =>
      let d := a.ret.getD 0
      let s : State := a.parts.foldl (fun (s : State) p => s.updWarp a.warp (fun w => w.updLane p.lane (fun x =>
        x.putAll (oldRegs d a.aop) [lo32 p.old, hi32 p.old]))) ((s.passTick 1).passTo a.due)
      ((s.delReq k).settleAcquire a.warp).sweep
    | _, _ => s)

end Sys2Proof.Machine
end

