-- ==== Sys2Proof/Machine/Sched.lean ====
section
/-! DEFINITION. What happens on a core between instructions: scope writes that take effect, joins, barriers and waits that end, bins that form, the
active set, bank modes, commits of ordered tasks, time limits (R149, R152, R157, R164 to R166, R181 to R184, R190, R196, R251,
R269 to R276, R403). -/

namespace Sys2Proof.Machine

/-! ### Scope writes (R163, R164) -/

/-- Whether a write to a scope register is the oldest of its register's level and owner (DEDUCED, log entry 18). -/
def State.scopeReady (s : State) (k : Nat) : Bool :=
  match Map.get? s.scopeWrites k with
  | some x => s.scopeWrites.all (fun p => k ≤ p.1 || p.2.level != x.level || p.2.owner != x.owner)
  | none => false

/-- SCOPE_WRITE_TAKES_EFFECT. -/
def execScopeWriteTakesEffect (k : Nat) (s : State) : Out :=
  .next (match s.scopeReady k, Map.get? s.scopeWrites k with
    | true, some x => (({ s with scopeWrites := Map.del s.scopeWrites k } : State).setScope x.level x.owner x.reg
        (combine x.op (s.scopeHeld x.level x.owner x.reg) x.v)).sweep
    | _, _ => s)

/-! ### Joins (R152, R190) -/

def Warp.joinReady (w : Warp) (j : Nat) : Bool := w.joinE j != 0 && w.joinParked j == w.joinE j

/-- JOIN_RELEASE: every parked lane re-enters at its own resume address and priority. -/
def execJoinRelease (u j : Nat) (s : State) : Out :=
  .next (if (s.warp u).joinReady j then
      (s.updWarp u (fun w => { w.setJoin j 0 with lanes := Map.mapV w.lanes (fun _ k =>
        if k.place == .join j then { k with place := .frontier } else k) })).countLanes u 0x0D
    else s)

/-- Whether every grid of a list has ended. -/
def State.allEnded (s : State) (hs : List Nat) : Bool := hs.all (fun h => !(Map.has s.grids h) || (s.grid h).ended)

/-- The children that a lane waits for, where they have all ended. -/
def State.joinDone (s : State) (k : Lane) : Bool := match k.place with | .children hs => s.allEnded hs | _ => false

/-- The counts of a grid's set, added to its launcher's results when it joins (R392). -/
def Warp.addCounts (w : Warp) (vs : List (BitVec 64)) : Warp :=
  { w with pmRes := vs.zipIdx.foldl (fun m p => Map.setD m p.2 (Map.getD m p.2 0 + p.1) 0) w.pmRes }

/-- The counter sets of the ended children that a JOIN has waited for: added, then free. -/
def State.takeCounts (s : State) (u : Nat) (hs : List Nat) : State :=
  hs.foldl (fun s h => match (s.grid h).counters with
    | some c => if Map.has s.grids h && (s.grid h).parentWarp == some u then
        (let (vs, s) := s.countsOf c
         (s.updWarp u (fun w => w.addCounts vs)).updGrid h (fun g => { g with counters := none })) else s
    | none => s) s

/-- JOIN_SATISFIED: the lanes re-enter the frontier after an acquire (R190, R237). -/
def execJoinSatisfied (u : Nat) (s : State) : Out :=
  .next (match Map.find? (s.warp u).lanes (fun _ k => s.joinDone k) with
    | some (_, k) =>
      let hs := match k.place with | .children hs => hs | _ => []
      (((s.updWarp u (fun w => { w with lanes := Map.mapV w.lanes (fun _ x =>
        if x.place == k.place then { x with place := .frontier } else x) })).passTick 1).acquired u true).takeCounts u hs
    | none => s)

/-! ### Barriers (R166, R181 to R184, R237, R386) -/

/-- A barrier by its owner: a block, or a cluster group. -/
def State.barAt (s : State) (cluster : Bool) (o i : Nat) : Barrier :=
  Map.getD (if cluster then (s.group o).bars else (s.block o).bars) i .fresh

/-- The blocks that a barrier joins. -/
def State.barBlocks (s : State) (cluster : Bool) (o : Nat) : List Nat := if cluster then s.groupBlocks o else [o]

/-- Whether a warp of the blocks, or of the cluster of one of them, is parked by a debug session. -/
def State.barParked (s : State) (cluster : Bool) (o : Nat) : Bool :=
  s.warps.any (fun p => p.2.kind == .warp && p.2.parked && (s.barBlocks cluster o).contains p.2.block) ||
    s.saved.any (fun p => (if cluster then p.2.block.group == o else p.1 == o) && p.2.warps.any (fun w => w.2.parked))

/-- Whether a barrier can complete: its count is reached, its participants' earlier writes are ordered, nothing holds it (R165, R181, R182,
R237, R386) (DEDUCED, log entry 46). -/
def State.barReady (s : State) (cluster : Bool) (o i : Nat) : Bool :=
  let b := s.barAt cluster o i
  let bs := s.barBlocks cluster o
  let live := (bs.map (fun x => (s.liveWarps x).length)).foldl (· + ·) 0
  (match b.expected with
    | none => false
    | some (some n) => n ≤ b.arrivals.length
    | some none => live ≤ b.arrivals.length) &&
  !b.arrivals.isEmpty && !s.barParked cluster o &&
  !(s.scopeWrites.any (fun p => p.2.level ≤ (if cluster then 1 else 0) && b.arrivals.contains p.2.warp)) &&
  (!cluster || (b.arrivals.all s.dieZero && !(s.saved.any (fun p => p.2.block.group == o))))

/-- The participants' buffers merged into the epoch values, in ascending warp index (R166), two of one index (an ended warp's, taken again) in
the order of their arrival. -/
def State.mergeDet (s : State) (b : Nat) (us : List Nat) : State :=
  let by_ := us.zipIdx.foldl (fun (m : Map Nat) p => Map.put m ((s.warp p.1).wix * us.length + p.2) p.1) []
  by_.foldl (fun s p =>
    let u := p.2
    ((s.warp u).det.foldl (fun s d => s.setScope 0 b d.1 (d.2.apply (s.scopeHeld 0 b d.1))) s).updWarp u (fun w => { w with det := [] })) s

/-- The last arriver: in time, or in a DET block by index (R184). -/
def State.lastArriver (s : State) (det : Bool) (us : List Nat) : Option Nat :=
  if det then us.foldl (fun acc u => match acc with
    | none => some u
    | some v => if (s.warp v).wix < (s.warp u).wix then some u else acc) none
  else us.getLast?

/-- A waiting lane of the completed phase goes on; BARLAST's writes its predicate. -/
def Lane.barGo (k : Lane) (cluster : Bool) (i phase : Nat) (isLast : Bool) : Lane :=
  match k.place with
  | .bar c j p pd => if c == cluster && j == i && p == phase then
      (match pd with | some r => { k.putP r isLast with place := .frontier } | none => { k with place := .frontier }) else k
  | _ => k

/-- The helper lanes of the BARLASTs that waited at a barrier receive their predicate (R169, R184). -/
def Warp.tellHelpers (w : Warp) (key : Nat) (isLast : Bool) : Warp :=
  { w with
    lanes := (w.barHelp.filter (fun h => h.1 == key)).foldl (fun m h =>
      Map.upd m h.2.1 (fun k => if k.helper then k.putP h.2.2 isLast else k)) w.lanes
    barHelp := w.barHelp.filter (fun h => h.1 != key) }

/-- BARRIER_COMPLETE; the lane masks of the new phase are empty (R179) (DEDUCED, log entry 47). -/
def execBarrierComplete (cluster : Bool) (o i : Nat) (s : State) : Out :=
  .next (if s.barReady cluster o i then
      let b := s.barAt cluster o i
      let bs := s.barBlocks cluster o
      let det := !cluster && (s.block o).det
      let nb : Barrier := ⟨b.phase + 1, none, []⟩
      let last := s.lastArriver det b.arrivals
      let s : State := (if det then s.mergeDet o b.arrivals else s).passTick 1
      let s : State := if cluster then { s with groups := Map.upd s.groups o (fun g => { g with bars := Map.put g.bars i nb }) }
        else s.updBlock o (fun k => { k with bars := Map.put k.bars i nb })
      let s : State := { s with warps := Map.mapV s.warps (fun u w =>
        if w.kind == .warp && bs.contains w.block then
          let w : Warp := { w with
            barM := Map.del w.barM (barKey cluster i)
            acqSeq := if cluster then s.nextId else w.acqSeq
            lanes := Map.mapV w.lanes (fun _ k => k.barGo cluster i b.phase (last == some u)) }
          w.tellHelpers (barKey cluster i) (last == some u)
        else w) }
      if cluster then (bs.map (fun x => (s.block x).core)).foldl (fun s c => (s.invalidateL1 c).count (s.group o).grid 0x18 1) s else s
    else s)

/-! ### The active set (R157, R336) -/

/-- Whether what stopped a warp is over; a source that has become an orphan, or a FIFO that is closed, traps while others are still awaited (R20, R86,
R205). -/
def State.stopCleared (s : State) (u : Nat) (w : Warp) : Bool :=
  w.head.isSome && !w.held && (match w.stop with
    | none => true
    | some (x, at_) => at_ != w.head.map (fun k => (k.pc, k.prio)) || (match x with
    | .regs l => l.any (fun p => match w.mapOf p.2 with
        | some q => !s.queueReady w [] q && ((s.core w.core).bankOf q.bank).producers == 0
        | none => (w.lane p.1).isOrphan p.2) ||
      l.all (fun p => match w.mapOf p.2 with
        | some q => s.queueReady w [] q
        | none => !(w.lane p.1).isEmpty p.2)
    | .tokens m => (List.range 8).all (fun k => !(m.getLsbD k && w.tokBusy k))
    | .bar c i => !s.arrived w c i
    | .release scope => s.released u scope
    | .idle => true))

/-- A handler fragment stands first in the warp's frontier (R360). -/
def Warp.inHandler (w : Warp) : Bool := match w.head with | some k => k.prio == 63 | none => false

/-- A MIGRATE that has issued and waits for a slot. -/
def Warp.migrating (w : Warp) : Bool := match w.hold with | some (.restante _ _ _) => true | _ => false

/-- A resident warp that could issue or enter the active set: its block has started, and it is not being vacated but for a handler, or a MIGRATE
that has issued (R336, R369, R410). -/
def State.mayRun (s : State) (w : Warp) : Bool :=
  w.kind == .warp && (s.block w.block).loading.isNone && (!s.leaving w.core w.ctx || w.inHandler || w.migrating)

/-- Whether a warp is the next to enter the active set of its core. -/
def State.entersReady (s : State) (u : Nat) : Bool :=
  let w := s.warp u
  let c := s.core w.core
  let can (v : Nat) (x : Warp) : Bool := s.mayRun x && x.core == w.core && !c.active.contains v && s.stopCleared v x
  can u w && c.active.length < 16 && !(s.warps.any (fun p => p.1 != u && can p.1 p.2 && s.older p.1 u))

/-- WARP_ENTERS_ACTIVE_SET. -/
def execWarpEntersActiveSet (u : Nat) (s : State) : Out :=
  .next (if s.entersReady u then
      (s.updWarp u (fun w => { w with stop := none })).updCore (s.warp u).core (fun c => { c with active := c.active ++ [u] })
    else s)

/-! ### Bins (R149, R185) -/

/-- BIN_TIMER_EXPIRE: a timed bin is ordered to form. -/
def execBinTimerExpire (core i : Nat) (s : State) : Out :=
  .next (s.updCore core (fun c => { c with bins := Map.upd c.bins i (fun b =>
    if b.timer && !b.lanes.isEmpty then { b with flush := true, timer := false } else b) }))

/-- Whether a bin can form its warp now. -/
def State.binReady (s : State) (core i : Nat) : Bool :=
  match Map.get? (s.core core).bins i with
  | some b => b.forming && !b.lanes.isEmpty && s.canForm b.block && !s.leaving core (s.ctxOfBlock b.block)
  | none => false

/-- A bin after it has formed a warp of its first 32 lanes: the rest, for which the timer of an ordinary bin starts again; or it is empty
(R149). -/
def Bin.rest (b : Bin) : Option Bin :=
  if b.lanes.length ≤ 32 then none else some { b with lanes := b.lanes.drop 32, timer := b.warp.isNone }

/-- BIN_FORM_WARP: the first 32 lanes; the bin keeps the rest or is empty again. A bin ordered to form forms all its lanes. -/
def execBinFormWarp (core i : Nat) (s : State) : Out :=
  .next (match s.binReady core i, Map.get? (s.core core).bins i with
    | true, some b => (s.updCore core (fun c => { c with bins := match b.rest with
        | some r => Map.put c.bins i r
        | none => Map.del c.bins i })).formWarp b.block b.entry (b.lanes.take 32) false
    | _, _ => s)

/-! ### Time limits (R403) -/

/-- Whether a grid's limit counts and may have passed. -/
def State.limitReady (s : State) (g : Nat) : Bool :=
  let k := s.grid g
  Map.has s.grids g && !k.ended && k.armed && k.info.limit != 0 && !(k.savedBlocks != [] && (s.gridBlocks g).isEmpty) && !(s.ctx k.ctx).away &&
    !(s.warps.any (fun p => p.2.kind == .warp && p.2.parked && s.gridOf p.2 == g)) &&
    !(s.saved.any (fun p => p.2.block.grid == g && p.2.warps.any (fun w => w.2.parked)))

/-- GRID_TIME_LIMIT. -/
def execGridTimeLimit (g : Nat) (s : State) : Out := .next (if s.limitReady g then s.kill g 4 0 else s)

/-! ### Bank modes (R195, R196, R251) -/

/-- Whether a store of the core that covers a byte held in a bank is not yet acknowledged at its home slice. -/
def State.bankHeld (s : State) (core k : Nat) : Bool :=
  s.reqs.any (fun p => match p.2 with
    | .store t => t.core == core && t.stage != .acked && t.cells.any (fun x => match Map.get? (s.core core).l1 (x.1 / 256) with
        | some l => l.bank == k
        | none => false)
    | _ => false)

def State.bankReady (s : State) (core : Nat) : Bool :=
  match (s.core core).cfg with
  | some x => !((s.core core).bankOf x.bank).stopping || !s.bankHeld core x.bank
  | none => false

/-- A bank as it takes a new mode. -/
def Bank.take (mode : Nat) (block : Nat) (scc : Bool) : Bank :=
  ⟨mode, none, false, [], 0, if mode == 2 && !scc then some block else none, mode == 2 && scc, false⟩

/-- BANK_MODE_CHANGE_DONE: the predicate tells whether the change was made. -/
def execBankModeChangeDone (core : Nat) (s : State) : Out :=
  .next (match s.bankReady core, (s.core core).cfg with
    | true, some x =>
      let w := s.warp x.warp
      let c := s.core core
      let b := c.bankOf x.bank
      let ok := b.stopping || s.bankFree core x.bank x.mode
      -- a FIFO whose warp has gone has no owner left: it is a CACHE bank at once, as when its owner ends (R196)
      let mode := if x.mode = 2 && !(Map.has s.warps x.warp) then 0 else x.mode
      let c : Core := if ok && b.mode != mode then
          { c.setBank x.bank (Bank.take mode w.block w.isScc) with l1 := c.l1.filter (fun p => p.2.bank != x.bank) }
        else c
      let h := w.lane ((x.lanes.find? (fun l => !(w.lane l).helper)).getD 0)
      ((s.setCore core { c with cfg := none }).updWarp x.warp (fun w => { w with
        hold := none, pfx := none, stop := none
        lanes := Map.mapV w.lanes (fun l k =>
          if x.lanes.contains l then (let k : Lane := k.putP x.pd ok; if k.helper then k else k.advance x.len) else k) })).noteLate x.warp h.pc h.prio
        x.len x.lanes
    | _, _ => s)

/-! ### Commits (R269 to R276) -/

/-- The core, slot and record of a grid's head task, once it has ended. -/
def State.endedHead (s : State) (g : Nat) : Option (Nat × Nat × Task) :=
  match (s.grid g).range with
  | some r => s.cores.findSome? (fun c => c.2.tasks.findSome? (fun t =>
      if t.2.grid == g && t.2.stamp == r.next && t.2.ended && !t.2.abortPending then some (c.1, t.1, t.2) else none))
  | none => none

/-- Loads of one lane still on their way. -/
def State.laneLoads (s : State) (u l : Nat) : Bool :=
  s.reqs.any (fun p => match p.2 with
    | .load x => x.warp == u && x.lane == l
    | .atom a => a.warp == u && a.ret.isSome && a.parts.any (fun q => q.lane == l)
    | _ => false)

/-- Whether an engine's command of a warp, or of the address engine of its block, has still to write (R270) (DEDUCED, log entry 95). -/
def State.engineOpen (s : State) (u : Nat) : Bool :=
  let open_ (ks : List Nat) : Bool := ks.any (fun k => match Map.get? s.reqs k with
    | some (.store t) => t.stage == .issued || t.stage == .passed
    | some (.atom _) => true
    | _ => false)
  s.copies.any (fun p => p.2.warp == u && (open_ p.2.writes || (p.2.status.isNone && !p.2.moved))) ||
    s.drains.any (fun p => p.2.warp == u && (open_ p.2.writes || p.2.drainNext != .done)) ||
    s.cores.any (fun c => c.2.mq.any (fun m => m.warp == u && m.status.isNone && !m.op.isMul && (match m.op with | .maclr _ => false | _ => true))) ||
    s.colls.any (fun p => p.2.warp == u && (p.2.writes.any open_ || (p.2.status.isNone && p.2.writes.isNone)))

/-- Whether the commit of the grid's head can start: its loads have their values (R273), and what the engines' commands of its warp write is written,
since the next task reads it (R270) (DEDUCED, log entry 95). -/
def State.commitStartReady (s : State) (g : Nat) : Bool :=
  match (s.grid g).range, s.endedHead g with
  | some r, some (_, _, t) => !r.ready && !s.laneLoads t.warp t.lane && !s.engineOpen t.warp
  | _, _ => false

/-- TASK_COMMIT_START. -/
def execTaskCommitStart (g : Nat) (s : State) : Out :=
  .next (if s.commitStartReady g then s.updGrid g (fun k => { k with range := k.range.map (fun r => { r with ready := true }) }) else s)

/-- Lines that a commit has written, or its task as head. -/
def Task.written (t : Task) : List Nat := (linesOf t.cells ++ t.wrote).eraseDups

/-- Tasks of the grid with a later timestamp whose signature holds one of the lines: core and slot. -/
def State.conflicts (s : State) (g stamp : Nat) (lines : List Nat) : List (Nat × Nat) :=
  s.cores.foldl (fun acc c => acc ++ ((c.2.tasks.filter (fun t => t.2.grid == g && stamp < t.2.stamp &&
    lines.any (fun l => t.2.sig.getLsbD (sigBit (l * 256))))).map (fun t => (c.1, t.1)))) []

/-- The range after one more commit; it closes with the last. -/
def Range.step (r : Range) : Option Range :=
  if r.t0 + r.count ≤ r.next + 1 then none else some { r with next := r.next + 1, ready := false, begun := r.begun.filter (· != r.next) }

/-- Lanes parked until their task is the head go on where it now is. -/
def State.wakeHeads (s : State) (g : Nat) : State :=
  { s with warps := Map.mapV s.warps (fun _ w =>
      if w.kind == .warp && s.gridOf w == g then
        { w with lanes := Map.mapV w.lanes (fun l k => if k.place == .head && s.taskHead w l then { k with place := .frontier } else k) }
      else w) }

/-- Whether the commit of the grid's head has started and can complete: the entries are a dev-scope release of its warp, and what the head wrote
directly is performed, so that the next task reads it (R270, R273) (DEDUCED, log entry 95). -/
def State.commitReady (s : State) (g : Nat) : Bool :=
  match (s.grid g).range, s.endedHead g with
  | some r, some (_, _, t) => r.ready && s.homeZero t.warp
  | _, _ => false

/-- The buffer's entries performed at their home slices, in ascending address order; they become host-visible later (R235). -/
def State.performBuffer (s : State) (core g : Nat) (t : Task) : State :=
  let ctx := (s.grid g).ctx
  let rel := s.tick.toNat + 1
  let s : State := (t.buf.foldl (fun s e => s.perform ctx e.2) s).noteRelease core rel (t.cells.map (·.1))
  if t.cells.isEmpty then s
  else (s.llcUses (t.cells.map (·.1)) true).addReq (.store ⟨0, core, t.warp, (s.warp t.warp).block, g, ctx, t.cells, .acked, [], 0, s.nextId, rel,
    s.nextId, false, [t.lane]⟩)

/-- The committed lane goes on after its TASKEND. -/
def Lane.commit (k : Lane) (n : Nat) : Lane :=
  if k.task == some n then { k with task := none, place := if k.place == .taskEnd then .frontier else k.place } else k

/-- TASK_COMMIT_COMPLETE (R273): the buffer is performed, conflicting tasks abort, N moves on, the lane leaves, the slot is free. -/
def execTaskCommitComplete (g : Nat) (s : State) : Out :=
  .next (match s.commitReady g, s.endedHead g with
    | true, some (core, n, t) =>
      let s : State := s.performBuffer core g t
      let s : State := s.updCore core (fun c => { c with tasks := Map.del c.tasks n })
      let s : State := s.updWarp t.warp (fun w => w.updLane t.lane (fun k => k.commit n))
      let s : State := (s.conflicts g t.stamp t.written).foldl (fun s p => s.abortTask p.1 p.2 false) s
      let s : State := s.updGrid g (fun k => { k with range := k.range.bind Range.step })
      (((s.count g 0x1B 1).wakeHeads g).wakeSlots).sweep
    | _, _ => s)

end Sys2Proof.Machine
end

