-- ==== Sys2Proof/Machine/Placement.lean ====
section
/-! DEFINITION. The block dispatcher: what waits for placement, which cores fit, how a block starts, how a saved block goes on (R142 to R148,
R195, R237, R336, R371, R372, R394, R410, R411). -/

namespace Sys2Proof.Machine

/-! ### What a core offers (R146) -/

/-- Whether the dispatcher may place blocks on a core (R368, R375, R411). -/
def State.usable (s : State) (core : Nat) : Bool :=
  let c := s.core core
  c.online && !c.fenced && c.vacating.isEmpty && !s.goingOff (core / 32)

/-- Scratchpad banks without an allocation, ascending (R195). -/
def Core.freeScratch (c : Core) : List Nat := (List.range 37).filter (fun k => (c.bankOf k).mode == 1 && (c.bankOf k).alloc.isNone)

/-- Scratchpad banks that a block needs, its EXACT bank among them. -/
def scratchBanks (scratch : Nat) (exact : Bool) : Nat := (scratch + 65535) / 65536 + if exact then 1 else 0

/-- Whether the parcels not yet in the store fit the quota and the library pool (R146, R325, R334). -/
def State.quotaFits (s : State) (core ctx : Nat) (ids : List Nat) : Bool :=
  let new := ids.filter (fun q => q != 0 && (s.parcel core ctx q).state == 0)
  let lib (q : Nat) : Bool := match s.parcelInfo (parcelKey ctx q) with | some i => i.library | none => false
  let sum (l : List Nat) : Nat := l.foldl (fun n q => n + match s.parcelInfo (parcelKey ctx q) with | some i => pagesOf i.halfwords | none => 0) 0
  let own := new.filter (fun q => !lib q)
  let pool := new.filter (fun q => lib q && (s.sharer core (parcelKey ctx q)).isNone)
  (match own with | [] => true | q :: _ => s.pagesUsed core (parcelKey ctx q) + sum own ≤ (s.ctx ctx).quota) &&
    (match pool with | [] => true | q :: _ => s.pagesUsed core (parcelKey ctx q) + sum pool ≤ s.fw.library)

/-- Whether a core has what a block of w warps, n registers per lane and k scratchpad banks needs. -/
def State.coreFits (s : State) (core ctx w n k : Nat) (ids : List Nat) : Bool :=
  s.usable core && (s.ordinary core).length + w ≤ 60 && s.unitsUsed core + w * (n / 8) ≤ 512 &&
    k ≤ (s.core core).freeScratch.length && s.quotaFits core ctx ids

/-! ### Saved blocks (R371, R372) -/

/-- The parcels that an image's saved addresses name, those its PLOADs wait for, and the pre-loads of a block that had not started (R336,
R371). -/
def State.imageParcels (s : State) (m : Image) : List Nat :=
  let id (v : Word) : Nat := v.toNat / 65536
  let ids := m.warps.foldl (fun acc p => p.2.lanes.foldl (fun acc q =>
      if q.2.alive then acc ++ [id q.2.pc] ++ (if q.2.prio == 63 then [id q.2.resumePc] else []) else acc) acc) [] ++
    m.bins.map (fun b => id b.entry) ++
    m.walks.filterMap (fun p => p.2.val.bind (fun w => if w.spawn && w.state < 2 then some (id w.entry) else none)) ++
    s.pwaits.filterMap (fun w => if Map.has m.warps w.warp then some (w.key % 65536) else none) ++
    (if m.block.loading == some true then (s.grid m.block.grid).info.preload else [])
  (ids.filter (· != 0)).eraseDups

/-- Ordinary warps of an image. -/
def Image.warpCount (m : Image) : Nat := (m.warps.filter (fun p => p.2.kind == .warp && p.2.live)).length

/-- Whether the slots of a pool that the image needs are free on the core. -/
def slotsFree {α : Type} (mine pool : Map (Slot α)) : Bool :=
  mine.all (fun p => match Map.get? pool p.1 with | some x => x.val.isNone | none => true)

/-- FIFO banks that a core can give: scratchpad banks unallocated, or CACHE banks without masked bytes while one stays. -/
def Core.fifoFree (c : Core) (ks : List Nat) : Bool :=
  ks.all (fun k => let b := c.bankOf k
    (b.mode == 1 && b.alloc.isNone) || (b.mode == 0 && !b.stopping && !(c.l1.any (fun l => l.2.bank == k && l.2.mask != 0)))) &&
  (c.cfg.isNone || ks.isEmpty) && c.ways.any (fun k => !ks.contains k)

/-- What a saved block needs on a core beyond R146: tiles of its numbers (R314), and handles and queues that keep their names (DEDUCED,
log entry 59). -/
def State.imageFits (s : State) (core : Nat) (m : Image) : Bool :=
  let c := s.core core
  let fifos := m.banks.map (·.1)
  m.tiles.all (fun p => (c.tile p.1).owner.isNone) && slotsFree m.tbars c.tbars && slotsFree m.labels c.labels &&
    m.walks.all (fun p => match Map.get? c.walks p.1 with
      | some x => (match x.val with | some w => w.state == 2 | none => true)
      | none => true) &&
    (c.running.isNone || !(m.walks.any (fun p => p.2.val.any (fun w => w.state == 1)))) &&
    c.bins.length + m.bins.length ≤ 8 &&
    [1, 2].all (fun cls => s.copyRoom core cls (s.copies.filter (fun p => p.2.cls == cls && Map.has m.warps p.2.warp)).length) &&
    (m.tasks.filter (fun p => p.1 < 64)).length + (c.tasks.filter (fun p => p.1 < 64)).length ≤ 64 &&
    ((s.aeOf core).isNone || !(m.warps.any (fun p => p.2.isAe))) && c.fifoFree fifos &&
    scratchBanks m.block.scratch m.block.exact ≤ (c.freeScratch.filter (fun k => !fifos.contains k)).length

/-! ### What waits (R144, R372) -/

/-- What a grid waits to have placed next: a migrated warp, saved blocks of one cluster group, or new blocks. -/
inductive Item where
  | restante (b : Nat)
  | saved (bs : List Nat)
  | new (bixs : List Nat)
  deriving DecidableEq, Repr

def GridRec.total (r : GridRec) : Nat := r.dimx * r.dimy * r.dimz

/-- Saved blocks of a grid's lowest saved block's group, in ascending linear index. -/
def State.savedGroup (s : State) (group : Nat) : List Nat :=
  (s.saved.filter (fun p => p.2.block.group == group)).map (·.1)

/-- The lowest saved block of a grid that a swap has not put away. -/
def State.firstSaved (s : State) (g : Nat) : Option (Nat × Image) :=
  s.saved.foldl (fun (acc : Option (Nat × Image)) p =>
    if p.2.block.grid != g || p.2.swap || p.2.block.migrated then acc
    else match acc with
      | none => some p
      | some a => if p.2.block.bix < a.2.block.bix then some p else acc) none

def State.pendingItem (s : State) (g : Nat) : Option Item :=
  let k := s.grid g
  if !(Map.has s.grids g) || k.ended || k.status.isSome || (s.ctx k.ctx).away then none
  else match Map.find? s.saved (fun _ m => m.block.grid == g && m.block.migrated && !m.swap) with
    | some (b, _) => some (.restante b)
    | none =>
      match s.firstSaved g with
      | some (_, m) => if (s.groupBlocks m.block.group).isEmpty then some (.saved (s.savedGroup m.block.group)) else none
      | none => if k.next < k.info.total then some (.new ((List.range k.info.cluster).map (k.next + ·))) else none

/-- The core that a session's record gives a block (R394) (DEDUCED, log entry 52). -/
def State.pinned (s : State) (g bix : Nat) : Option Nat :=
  match (s.ctx (s.grid g).ctx).session with
  | some x => if (s.grid g).inSession && x.mode != 1 then
      (((s.sessionGrids x.warp).zipIdx.find? (fun p => p.1 == g)).bind (fun p => Map.get? x.cores (p.2 * 2 ^ 48 + bix)))
    else none
  | none => none

/-- Whether one block of an item fits a core. -/
def State.blockFits (s : State) (g : Nat) (image : Option Image) (bix core : Nat) : Bool :=
  let k := s.grid g
  (match s.pinned g bix with | some c => c == core | none => true) &&
  match image with
  | none => s.coreFits core k.ctx k.info.warps k.info.regs (scratchBanks k.info.scratch k.info.exact) (k.info.parcel :: k.info.preload).eraseDups
  | some m => s.coreFits core k.ctx m.warpCount m.block.nregs (scratchBanks m.block.scratch m.block.exact) (s.imageParcels m) && s.imageFits core m

/-- The core sets that a group of a cluster size may take, in the order of choice (R146, R147) (DESIGN CHOICE, log entry 60). -/
def coreSets (size : Nat) : List (List Nat) :=
  if size = 4 then (List.range 64).map (fun cl => (List.range 4).map (coreAt cl))
  else if size = 2 then (List.range 128).map (fun n => (List.range 2).map (fun j => coreAt (n / 2) (n % 2 * 2 + j)))
  else (List.range 256).map (fun c => [c])

/-- Whether a core lies in a rectangle of a die (R146). -/
def inRect (w h : Nat) (r : Nat × Nat × Nat) (core : Nat) : Bool :=
  let x := core % 8
  let y := core % 32 / 8
  core / 32 == r.1 && r.2.1 ≤ x && x < r.2.1 + w && r.2.2 ≤ y && y < r.2.2 + h

/-- The rectangles of a size on the dies, lowest first. -/
def rects (w h : Nat) : List (Nat × Nat × Nat) :=
  (List.range 8).foldl (fun acc d => acc ++ (List.range (5 - h)).foldl (fun acc y => acc ++ (List.range (9 - w)).map (fun x => (d, x, y))) []) []

/-- The cores for the blocks of an item by position in the group, and the rectangle they lie in. Saved blocks are given by image; a core of
the set that no block needs is not asked for. -/
def State.choose (s : State) (g : Nat) (bs : List (Nat × Option Image)) : Option (List (Nat × Nat) × Option (Nat × Nat × Nat)) :=
  let k := s.grid g
  let size := k.info.cluster
  let fits (r : Option (Nat × Nat × Nat)) (cs : List Nat) : Bool :=
    bs.all (fun b => let c := cs.getD (b.1 % size) 0
      s.blockFits g b.2 b.1 c && (match r with | some r => inRect k.info.rectW k.info.rectH r c | none => true))
  let pick (r : Option (Nat × Nat × Nat)) : Option (List (Nat × Nat) × Option (Nat × Nat × Nat)) :=
    ((coreSets size).find? (fits r)).map (fun cs => (bs.map (fun b => (b.1, cs.getD (b.1 % size) 0)), r))
  if k.info.rectW = 0 then pick none
  else match k.rect with
    | some r => pick (some r)
    | none => (rects k.info.rectW k.info.rectH).findSome? (fun r => pick (some r))

/-- A free restante slot for a saved migrated warp: over its base die, or else on any core (R411); the pre-loads fit as at placement (R336). -/
def State.restanteFor (s : State) (m : Image) : Option (Nat × Nat) :=
  let ok (c : Nat) : Bool := s.usable c && s.quotaFits c m.ctx (s.imageParcels m)
  match s.restanteSlot (baseDieOfCore m.block.core) ok with
  | some p => some p
  | none => (List.range 4).findSome? (fun d => s.restanteSlot d ok)

/-- Where an item can go now. -/
def State.placeFor (s : State) (g : Nat) (i : Item) : Option (List (Nat × Nat) × Option (Nat × Nat × Nat)) :=
  match i with
  | .restante b => (Map.get? s.saved b).bind (fun m => (s.restanteFor m).map (fun p => ([p], none)))
  | .saved bs => s.choose g (bs.filterMap (fun b => (Map.get? s.saved b).map (fun m => (m.block.bix, some m))))
  | .new bixs => s.choose g (bixs.map (fun b => (b, none)))

/-- Whether a grid stands before another in the pending order (R144). -/
def State.pendsBefore (s : State) (a b : Nat) : Bool :=
  let x := s.grid a
  let y := s.grid b
  y.info.prio < x.info.prio || (x.info.prio == y.info.prio && x.pendSeq < y.pendSeq)

/-- Whether something of the grid can be placed. -/
def State.canPlace (s : State) (g : Nat) : Bool :=
  match s.pendingItem g with | some i => (s.placeFor g i).isSome | none => false

def State.placeReady (s : State) (g : Nat) : Bool :=
  (s.pendingItem g).isSome && s.canPlace g && !(s.grids.any (fun p => s.pendsBefore p.1 g && s.canPlace p.1))

/-! ### A new block (R145 to R147, R189, R195, R237) -/

/-- Takes scratchpad banks for a block of a group; its EXACT bank last. -/
def Core.takeBanks (c : Core) (group scratch : Nat) (exact : Bool) (but : List Nat) : List Nat × Core :=
  let n := scratchBanks scratch exact
  let ks := (c.freeScratch.filter (fun k => !but.contains k)).take n
  (ks.take ((scratch + 65535) / 65536),
    ks.zipIdx.foldl (fun c p => c.setBank p.1 { c.bankOf p.1 with alloc := some group, exact := exact && p.2 + 1 == n }) c)

/-- A saved scalar control core goes on when a block of its context is back on its cluster (DESIGN CHOICE, log entry 100); its copies resolve their
window addresses anew (R291). -/
def State.sccReturns (s : State) (core ctx : Nat) : State :=
  let cl := clusterOf core
  match Map.get? s.sccSaved cl with
  | some (u, w) => if w.ctx == ctx then { s with
      warps := Map.put s.warps u w, sccSaved := Map.del s.sccSaved cl
      copies := Map.mapV s.copies (fun _ c => if c.warp == u then { c with tgts := s.targets w } else c) } else s
  | none => s

/-- One new block on a core: its record, its warps, its parcels. -/
def State.placeNew (s : State) (g group : Nat) (p : Nat × Nat) : State :=
  let k := s.grid g
  let i := k.info
  let b := s.nextId
  let core := p.2
  let (banks, c) := (s.core core).takeBanks group i.scratch i.exact []
  let blk : Block := ⟨g, p.1, core, group, i.det, i.exact, i.helperExit, i.producer, i.regs, i.warps, i.scratch, banks, [], [], [], 64, false, b, some true⟩
  let slots := s.freeSlots core i.warps
  let lane : Lane := Lane.start (BitVec.ofNat 32 (i.parcel * 65536)) 0
  let s : State := { s.setCore core c with blocks := Map.put s.blocks b blk, nextId := b + 1 + i.warps }
  let s : State := (List.range i.warps).foldl (fun s j => s.setWarp (b + 1 + j)
    { Warp.start .warp core k.ctx b j b ((List.range 32).map (fun l => (l, lane))) with slot := slots.getD j 0 }) s
  let s : State := if k.parentGrid.isSome then s.invalidateL1 core else s
  let s : State := match (s.ctx k.ctx).session with
    | some x => if k.inSession && x.mode == 1 then
        match (s.sessionGrids x.warp).zipIdx.find? (fun q => q.1 == g) with
        | some q => s.updCtx k.ctx (fun c => { c with session := some { x with cores := Map.put x.cores (q.2 * 2 ^ 48 + p.1) core } })
        | none => s
      else s
    | none => s
  ((i.parcel :: i.preload).eraseDups.foldl (fun s q => s.preload core (parcelKey k.ctx q)) s).sccReturns core k.ctx

/-- The grid's arguments, loaded before its first warp starts; none where they cannot be translated (R145). -/
def State.loadArgs (s : State) (g : Nat) : Option State :=
  let k := s.grid g
  if k.info.args = 0 then some s
  else match s.places k.ctx 0 .none k.info.args 48 true false with
    | .inr _ => none
    | .inl ks =>
      let bs := ks.map s.byte
      some ((s.llcUses ks false).updGrid g (fun k => { k with g := (List.range 12).foldl (fun m j =>
        Map.setD m j (BitVec.ofNat 32 (leNat ((bs.drop (4 * j)).take 4))) 0) k.g }))

/-- New blocks of a cluster group start to be placed together (R147). -/
def State.placeGroup (s : State) (g : Nat) (cs : List (Nat × Nat)) (rect : Option (Nat × Nat × Nat)) : State :=
  let first := (s.grid g).office.isNone
  match (if first then s.loadArgs g else some s) with
  | none => s.kill g 7 0
  | some s =>
    let group := s.nextId
    let core0 := (cs.headD (0, 0)).2
    let s : State := { s with groups := Map.put s.groups group ⟨clusterOf core0, g, [], []⟩, nextId := group + 1 }
    let s : State := s.updGrid g (fun k => { k with
      next := k.next + cs.length, rect := rect, armed := true, office := if first then some core0 else k.office })
    let s : State := cs.foldl (fun s p => s.placeNew g group p) s
    (cs.map (·.2)).foldl (fun s c => s.startBlocks c) s

/-! ### A saved block goes on (R291, R314, R336, R371, R372) -/

/-- Task records under free numbers of the core: the number of each, old and new. -/
def Core.taskNumbers (c : Core) (m : Image) : List (Nat × Nat) :=
  let free := (List.range 64).filter (fun n => !(Map.has c.tasks n))
  let slots := (m.tasks.filter (fun p => p.1 < 64)).map (·.1)
  let off := (m.tasks.filter (fun p => 64 ≤ p.1)).map (·.1)
  let base := max 64 (Map.fresh c.tasks)
  slots.zip free ++ off.zipIdx.map (fun p => (p.1, base + p.2))

/-- A warp on its new core. -/
def Warp.moved (w : Warp) (core slot : Nat) (ns : List (Nat × Nat)) : Warp :=
  { w with
    core := core, slot := slot, stop := none, lastSync := none, seq := none
    lanes := Map.mapV w.lanes (fun _ k => { k with task := k.task.bind (fun n => (ns.find? (fun q => q.1 == n)).map (·.2)) }) }

/-- The commands of a block are its new core's, and so are the groups that its address engine could not push (R291, R369). -/
def State.moveEngines (s : State) (b core : Nat) (m : Image) : State :=
  { s with
    reqs := Map.mapV s.reqs (fun _ r => match r with | .load l => if Map.has m.warps l.warp then .load { l with core := core } else r | _ => r)
    copies := Map.mapV s.copies (fun _ c => if c.block == b then { c with core := core } else c)
    colls := Map.mapV s.colls (fun _ c => if c.block == b then { c with core := core } else c)
    pwaits := s.pwaits.map (fun w => if Map.has m.warps w.warp then
      { w with core := core, bytes := 0, status := (
        let st := (Map.getD (s.core core).parcels w.key .absent).state
        if st == 1 then none else if st == 0 then some (w.status.getD 6) else some 0) } else w) }

/-- A saved block's core takes back what the image holds. -/
def Core.takeImage (c : Core) (m : Image) (core group : Nat) (ns : List (Nat × Nat)) : List Nat × Core :=
  let fifos := m.banks.map (·.1)
  let c : Core := m.banks.foldl (fun c p => { c.setBank p.1 p.2 with l1 := c.l1.filter (fun l => l.2.bank != p.1) }) c
  let (banks, c) := c.takeBanks group m.block.scratch m.block.exact fifos
  (banks, { c with
    tbars := m.tbars.foldl (fun t p => Map.put t p.1 p.2) c.tbars
    labels := m.labels.foldl (fun t p => Map.put t p.1 p.2) c.labels
    walks := m.walks.foldl (fun t p => Map.put t p.1 p.2) c.walks
    tiles := m.tiles.foldl (fun t p => Map.put t p.1 p.2) c.tiles
    mq := c.mq ++ m.mq.map (fun q => { q with core := core })
    tasks := m.tasks.foldl (fun t p => match ns.find? (fun q => q.1 == p.1) with | some q => Map.put t q.2 p.2 | none => t) c.tasks
    bins := m.bins.foldl (fun t b => match (List.range 8).find? (fun k => !(Map.has t k)) with
      | some k => Map.put t k b
      | none => t) c.bins })

/-- What replies to a saved block leave to do: aborts that waited for the handlers which have ended, the end of its address engine (R274, R301,
R367). -/
def State.lateEnds (s : State) (m : Image) : State :=
  m.warps.foldl (fun s p =>
    ((Map.keysWhere p.2.lanes (fun _ k => k.task.isSome && k.prio != 63)).foldl (fun s l => s.leaveHandler p.1 l) s).aeFinish p.1) s

/-- One saved block returns on a core. -/
def State.restoreBlock (s : State) (b core : Nat) (m : Image) : State :=
  let ids := s.imageParcels m
  let group := m.block.group
  let ns := (s.core core).taskNumbers m
  let (banks, c) := (s.core core).takeImage m core group ns
  let slots := s.freeSlots core m.warpCount
  let live := (m.warps.filter (fun p => p.2.kind == .warp && p.2.live)).map (·.1)
  let slotOf (u : Nat) : Nat := match live.zipIdx.find? (fun q => q.1 == u) with | some q => slots.getD q.2 0 | none => 0
  let s : State := { s.setCore core c with
    saved := Map.del s.saved b
    blocks := Map.put s.blocks b { m.block with core := core, banks := banks, loading := some (m.block.loading == some true) }
    groups := Map.upd s.groups group (fun g => { g with cluster := clusterOf core })
    warps := m.warps.foldl (fun t p => Map.put t p.1 (p.2.moved core (slotOf p.1) ns)) s.warps }
  let s : State := s.updGrid m.block.grid (fun k => { k with savedBlocks := k.savedBlocks.filter (· != b) })
  let s : State := s.invalidateL1 core
  let s : State := ids.foldl (fun s q => s.preload core (parcelKey m.ctx q)) s
  ((s.moveEngines b core m).lateEnds m).sccReturns core m.ctx

/-- A saved migrated warp takes a restante slot. -/
def State.restoreRestante (s : State) (b core n : Nat) (m : Image) : State :=
  let s : State := s.restoreBlock b core m
  let s : State := (s.updCore core (fun c => { c with restante := Map.put c.restante n b })).startBlocks core
  { s with warps := Map.mapV s.warps (fun _ w => if w.block == b then { w with slot := 60 + n } else w) }

/-- Saved blocks return together. -/
def State.restoreGroup (s : State) (bs : List Nat) (cs : List (Nat × Nat)) : State :=
  let s : State := bs.foldl (fun s b => match Map.get? s.saved b with
    | some m => (match cs.find? (fun p => p.1 == m.block.bix) with | some p => s.restoreBlock b p.2 m | none => s)
    | none => s) s
  ((cs.map (·.2)).foldl (fun s c => s.startBlocks c) s).wakeSlots

/-- BLOCK_PLACE. -/
def execBlockPlace (g : Nat) (s : State) : Out :=
  .next (match s.placeReady g, s.pendingItem g with
    | true, some i => match i, s.placeFor g i with
      | .restante b, some ([(c, n)], _) => (match Map.get? s.saved b with | some m => s.restoreRestante b c n m | none => s)
      | .saved bs, some (cs, r) => (s.updGrid g (fun k => { k with rect := r })).restoreGroup bs cs
      | .new _, some (cs, r) => s.placeGroup g cs r
      | _, _ => s
    | _, _ => s)

end Sys2Proof.Machine
end

