-- ==== Sys2Proof/Machine/Vacate.lean ====
section
/-! DEFINITION. Cores that are vacated, blocks that are swapped, dies that come and go, and containment (R148, R368 to R376, R411). -/

namespace Sys2Proof.Machine

/-! ### When a block can be saved (R369) -/

/-- A request of a warp that has not had its whole effect: a value on its way, an atomic, a store not acknowledged at its home. -/
def Req.holdsWarp (r : Req) (u : Nat) : Bool :=
  match r with
  | .load l => l.warp == u
  | .store t => t.warp == u && t.stage != .acked
  | .atom a => a.warp == u
  | .walk p => p.warp == u
  | .xaddm x => x.warp == u
  | .fill _ => false

/-- A group of an address engine that a full FIFO does not take: it pushes once the block has returned (R303, R369) (DEDUCED, log entry 24). -/
def State.stuckPush (s : State) (r : Req) : Bool :=
  match r with
  | .load l => l.serve == .done && l.push.any (fun b => (s.warp l.warp).pushes b && 512 ≤ ((s.core l.core).bankOf b).fifo.length)
  | _ => false

/-- Whether a warp, or an address engine, has nothing under way that must finish first. -/
def State.warpQuiet (s : State) (u : Nat) (w : Warp) : Bool :=
  !w.inHandler && w.bp.isNone && !w.acquiring && !w.held && !w.migrating &&
    (match w.check with | none => true | some c => c.fault.isSome) &&
    !(s.reqs.any (fun p => p.2.holdsWarp u && !s.stuckPush p.2)) && !(s.scopeWrites.any (fun p => p.2.warp == u)) &&
    !((s.core w.core).tasks.any (fun t => t.2.warp == u && (match (s.grid t.2.grid).range with | some r => r.ready && r.next == t.2.stamp | none => false)))

/-- Whether everything of a block has come to rest: its warps, its engines' requests, accesses to its scratchpad. -/
def State.blockQuiet (s : State) (b : Nat) : Bool :=
  s.warps.all (fun p => p.2.block != b || p.2.isScc || s.warpQuiet p.1 p.2) &&
    s.copies.all (fun p => p.2.block != b || s.writesAcked p.2.writes) &&
    (s.core (s.block b).core).mq.all (fun m => m.block != b || s.writesAcked m.writes) &&
    s.drains.all (fun p => p.2.block != b || (s.writesAcked p.2.writes &&
      p.2.writes.all (fun k => match Map.get? s.reqs k with | some (.atom _) => false | _ => true))) &&
    !(s.reqs.any (fun p => p.2.pas.any (fun k => isSp k && spBlock k == b) && !s.stuckPush p.2))

/-- Whether the whole cluster group of a block has. -/
def State.groupQuiet (s : State) (b : Nat) : Bool := (s.groupBlocks (s.block b).group).all s.blockQuiet

/-! ### Saving a block (R291, R314, R369, R371) -/

/-- Tasks of a block's lanes that still run. -/
def State.blockTasks (s : State) (b : Nat) : List Nat :=
  let c := s.core (s.block b).core
  (c.tasks.filter (fun t => (s.warp t.2.warp).block == b && ((s.warp t.2.warp).lane t.2.lane).task == some t.1)).map (·.1)

/-- A warp as the image keeps it: what waits starts again at its instruction. -/
def Warp.atRest (w : Warp) : Warp := { w.unwait with pfx := none, stop := none }

/-- Matrix commands in the order of their issue. -/
def inOrder (ms : List MCmd) : List MCmd :=
  ms.foldl (fun l m => l.filter (fun x => x.seq < m.seq) ++ [m] ++ l.filter (fun x => m.seq < x.seq)) []

/-- The image of a block. -/
def State.imageOf (s : State) (b : Nat) (swap : Bool) : Image :=
  let k := s.block b
  let c := s.core k.core
  let mine {α : Type} (m : Map (Slot α)) (own : α → Bool) : Map (Slot α) := m.filter (fun p => p.2.val.any own)
  let ts := s.blockTasks b
  { ctx := s.ctxOfBlock b, block := { k with loading := k.loading.filter id }
    warps := Map.mapV (s.warps.filter (fun p => !p.2.isScc && p.2.block == b)) (fun _ w => w.atRest)
    banks := (List.range 37).filterMap (fun n => if (c.bankOf n).mode == 2 && (c.bankOf n).owner == some b then some (n, c.bankOf n) else none)
    tbars := mine c.tbars (fun t => t.owner == b), labels := mine c.labels (fun l => l.owner == b)
    bins := (c.bins.filter (fun p => p.2.block == b)).map (·.2)
    walks := mine c.walks (fun w => w.block == b)
    tiles := c.tiles.filter (fun p => p.2.owner == some b)
    mq := inOrder (((s.drains.map (·.2)).filter (fun d => d.block == b)).map (fun d => { d with writes := [] }) ++ c.mq.filter (fun m => m.block == b))
    tasks := c.tasks.filter (fun p => ts.contains p.1), swap := swap }

/-- A core without a block that leaves it. -/
def Core.without (c : Core) (b group : Nat) (m : Image) : Core :=
  let drop {α : Type} (pool mine : Map (Slot α)) : Map (Slot α) := Map.mapV pool (fun k x => if Map.has mine k then x.free else x)
  { c with
    bank := Map.mapV c.bank (fun n x =>
      if Map.has m.banks n then ⟨0, none, false, [], 0, none, false, false⟩
      else if x.alloc == some group then { x with alloc := none, exact := false } else x)
    tbars := drop c.tbars m.tbars, labels := drop c.labels m.labels, walks := drop c.walks m.walks
    bins := c.bins.filter (fun p => p.2.block != b), tiles := c.tiles.filter (fun p => p.2.owner != some b)
    mq := c.mq.filter (fun q => q.block != b), tasks := c.tasks.filter (fun p => !(Map.has m.tasks p.1))
    restante := c.restante.filter (fun p => p.2 != b), active := c.active.filter (fun u => !(Map.has m.warps u))
    greedy := match c.greedy with | some u => if Map.has m.warps u then none else some u | none => none }

/-- Saves a block: begun tasks abort with their timestamps begun, its image is written, its core is free of it. -/
def State.saveBlock (s : State) (b : Nat) (swap : Bool) : State :=
  let core := (s.block b).core
  let s : State := (s.blockTasks b).foldl (fun s n => s.abortTask core n false) s
  let s : State := (s.liveWarps b).foldl (fun s u => s.flushCache u) s
  let k := s.block b
  let m := s.imageOf b swap
  let s : State := { s with
    saved := Map.put s.saved b m
    blocks := Map.del s.blocks b
    warps := s.warps.filter (fun p => !(Map.has m.warps p.1))
    drains := s.drains.filter (fun p => p.2.block != b) }
  let s : State := (s.updCore core (fun c => c.without b k.group m)).updGrid k.grid (fun g => { g with savedBlocks := g.savedBlocks ++ [b] })
  s.wakeSlots

/-! ### Swapping a waiting block (R148) -/

/-- Whether every warp of a block waits in JOIN or has ended, and some still waits for a child (DEDUCED, log entry 63). -/
def State.allJoin (s : State) (b : Nat) : Bool :=
  let us := s.liveWarps b
  let inJoin (u : Nat) : Bool := (s.warp u).lanes.all (fun p => !p.2.alive || (match p.2.place with | .children _ => !(s.joinDone p.2) | _ => false))
  us.all inJoin && !(s.block b).migrated

/-- Whether a block, with its cluster group, may be swapped out: another grid waits that nothing can place. -/
def State.swapOutReady (s : State) (b : Nat) : Bool :=
  let k := s.block b
  Map.has s.blocks b && k.loading.isNone && (s.groupBlocks k.group).all (fun x => s.allJoin x && (s.core (s.block x).core).vacating.isEmpty) &&
    !((s.groupBlocks k.group).all (fun x => (s.liveWarps x).isEmpty)) && s.groupQuiet b &&
    s.grids.any (fun p => p.1 != k.grid && (s.pendingItem p.1).isSome && !s.canPlace p.1)

/-- SWAP_OUT. -/
def execSwapOut (b : Nat) (s : State) : Out :=
  .next (if s.swapOutReady b then (s.groupBlocks (s.block b).group).foldl (fun s x => s.saveBlock x true) s else s)

/-- Where a swapped block can return, with its group, once a JOIN of it is satisfied. -/
def State.swapInFor (s : State) (b : Nat) : Option (List Nat × List (Nat × Nat) × Option (Nat × Nat × Nat)) :=
  match Map.get? s.saved b with
  | some m =>
    let bs := s.savedGroup m.block.group
    let done := bs.any (fun x => match Map.get? s.saved x with
      | some y => y.warps.any (fun w => w.2.lanes.any (fun l => s.joinDone l.2))
      | none => false)
    if m.swap && done && !(s.ctx m.ctx).away && (s.groupBlocks m.block.group).isEmpty then
      (s.placeFor m.block.grid (.saved bs)).map (fun p => (bs, p.1, p.2))
    else none
  | none => none

/-- SWAP_IN. -/
def execSwapIn (b : Nat) (s : State) : Out :=
  .next (match s.swapInFor b, Map.get? s.saved b with
    | some (bs, cs, r), some m => (s.updGrid m.block.grid (fun k => { k with rect := r })).restoreGroup bs cs
    | _, _ => s)

/-! ### Requests to vacate (R368 to R374, R411) -/

/-- The cores that hold blocks of a context, by falling logical index. -/
def State.coresOf (s : State) (ctx : Nat) : List Nat :=
  ((List.range 256).reverse).filter (fun c => s.blocks.any (fun p => p.2.core == c && s.ctxOfBlock p.1 == ctx))

/-- The cores that a request names: for a cluster-shaped grid, whole clusters (R368). -/
def State.vacateCores (s : State) (v : Vacate) : List Nat :=
  if v.online then []
  else if v.offline then
    match v.die with
    | some d => (List.range 256).filter (fun c => c / 32 == d && s.blocks.any (fun p => p.2.core == c))
    | none => []
  else
    let cs := (s.coresOf v.ctx).filter (fun c => match v.die with | some d => c / 32 == d | none => true)
    let named := if v.away then cs else cs.take v.n
    let shaped (c : Nat) : Bool := s.blocks.any (fun p => p.2.core == c && s.ctxOfBlock p.1 == v.ctx && 1 < (s.grid p.2.grid).info.cluster && !p.2.migrated)
    (named ++ (named.filter shaped).foldl (fun l c => l ++ (List.range 4).map (coreAt (clusterOf c))) []).eraseDups

/-- The contexts that leave a core. -/
def State.leavers (s : State) (v : Vacate) (core : Nat) : List Nat :=
  if v.offline then ((s.coreBlocks core).map s.ctxOfBlock).eraseDups else [v.ctx]

/-- Tasks whose lanes have ended: each still commits in its turn (R276). -/
def Core.endedTasks (c : Core) : Map Task := c.tasks.filter (fun p => p.2.ended)

/-- The die is fenced, its scalar control cores with it; a rectangle on it is given up; OFFLINE is reported (R411). -/
def State.fenceDie (s : State) (d : Nat) : State :=
  ({ s with
    cores := Map.mapV s.cores (fun c k => if c / 32 == d then { Core.fresh with online := false, fenced := k.fenced, tasks := k.endedTasks } else k)
    sccSaved := s.sccSaved.filter (fun p => p.1 / 8 != d)
    warps := s.warps.filter (fun p => !(p.2.isScc && p.2.core / 32 == d))
    sccGrid := s.sccGrid.filter (fun p => p.1 / 8 != d)
    grids := Map.mapV s.grids (fun _ g => match g.rect with | some r => if r.1 == d then { g with rect := none } else g | none => g) } : State).report 4 d 0

/-- The cores of a compute die's 32 positions come online, but for those that containment has fenced; ONLINE is reported. -/
def State.dieUp (s : State) (d : Nat) : State :=
  ((List.range 32).foldl (fun s j => s.updCore (32 * d + j) (fun c => { Core.fresh with fenced := c.fenced, tasks := c.endedTasks })) s).report 4 d 1

/-- Whether some core of a compute die is online. -/
def State.dieIsUp (s : State) (d : Nat) : Bool := (s.core (32 * d)).online

/-- The outcome of a request: a die that changes comes up, or is fenced (R411); for a pre-emption 0 VACATED, 1 NOTHING_TO_VACATE, 2 CONTAINED (R373). -/
def State.vacateEnds (s : State) (v : Vacate) : State :=
  let d := v.die.getD 0
  if v.online then (if s.dieIsUp d then s else s.dieUp d)
  else if v.offline then (if s.dieIsUp d then s.fenceDie d else s)
  else s.report 3 v.ctx (if v.contained then 2 else if v.vacated then 0 else 1)

/-- Requests begin one at a time, in order; one with nothing to vacate ends at once. -/
def State.beginVacates : Nat → State → State
  | 0, s => s
  | n + 1, s =>
    match s.fw.vacates with
    | [] => s
    | v :: rest =>
      if v.cores.isSome then s
      else
        let cs := s.vacateCores v
        if cs.isEmpty then (({ s with fw := { s.fw with vacates := rest } } : State).vacateEnds v).beginVacates n
        else
          let s : State := { s with fw := { s.fw with vacates := { v with cores := some cs } :: rest } }
          cs.foldl (fun s c => s.updCore c (fun k => { k with vacating := s.leavers v c })) s

/-- A request joins the others. -/
def State.askVacate (s : State) (v : Vacate) : State :=
  let s : State := { s with fw := { s.fw with vacates := s.fw.vacates ++ [v] } }
  s.beginVacates s.fw.vacates.length

/-- A core is done with: its request ends with its last core, and the next begins. -/
def State.coreLeft (s : State) (core : Nat) (saved contained : Bool) : State :=
  match s.fw.vacates with
  | v :: rest => match v.cores with
    | some cs => if cs.contains core then
        (let v : Vacate := { v with cores := some (cs.filter (· != core)), vacated := v.vacated || saved, contained := v.contained || contained }
         if (cs.filter (· != core)).isEmpty then
           (({ s with fw := { s.fw with vacates := rest } } : State).vacateEnds v).beginVacates (rest.length + 1)
         else { s with fw := { s.fw with vacates := v :: rest } }) else s
    | none => s
  | [] => s

/-- PREEMPT_REQUEST (R368). -/
def execPreemptRequest (x n : Nat) (die : Option Nat) (s : State) : Out := .next (s.askVacate ⟨x, n, die, false, false, false, none, false, false⟩)

/-- CONTEXT_SWITCH (R374): every core of the context is vacated; given again, its blocks may return (DESIGN CHOICE, log entry 64). -/
def execContextSwitch (x : Nat) (s : State) : Out :=
  .next (if (s.ctx x).away then s.updCtx x (fun c => { c with away := false })
    else (s.updCtx x (fun c => { c with away := true })).askVacate ⟨x, 0, none, false, false, true, none, false, false⟩)

/-- The blocks that leave a core. -/
def State.leavingBlocks (s : State) (core : Nat) : List Nat := (s.coreBlocks core).filter (fun b => s.leaving core (s.ctxOfBlock b))

/-- The scalar control core that a pre-emption of a core's cluster takes with the last blocks of its context (R299). -/
def State.leavingScc (s : State) (core : Nat) : Option (Nat × Warp) :=
  Map.find? s.warps (fun _ w => w.kind == .scc (clusterOf core) && w.live && s.leaving core w.ctx && s.clusterLeaves (clusterOf core) w.ctx)

/-- Whether a chosen core has drained; blocks of a cluster group drain together. -/
def State.vacatedReady (s : State) (core : Nat) : Bool :=
  !(s.core core).vacating.isEmpty && (s.leavingBlocks core).all (fun b => s.groupQuiet b) &&
    (match s.leavingScc core with
      | some (u, w) => s.warpQuiet u w && s.copies.all (fun p => p.2.warp != u || s.writesAcked p.2.writes)
      | none => true)

/-- The scalar control core is saved once no block of its context is left on its cluster, a PGPOP that waits with it (R299). -/
def State.saveScc (s : State) (core : Nat) (scc : Option (Nat × Warp)) : State :=
  match scc with
  | some (u, w) =>
    if s.blocks.any (fun b => clusterOf b.2.core == clusterOf core && s.ctxOfBlock b.1 == w.ctx) then s
    else { s with warps := Map.del s.warps u, sccSaved := Map.put s.sccSaved (clusterOf core) (u, w.atRest) }
  | none => s

/-- CORE_VACATED (R369, R371, R373). -/
def execCoreVacated (core : Nat) (s : State) : Out :=
  .next (if s.vacatedReady core then
      let bs := s.leavingBlocks core
      let scc := s.leavingScc core
      let s : State := (bs.foldl (fun s b => s.saveBlock b false) s).saveScc core scc
      (s.updCore core (fun c => { c with vacating := [] })).coreLeft core (!bs.isEmpty) false
    else s)

/-! ### Dies (R411) -/

/-- DIE_ONLINE: one of the eight compute dies that is not online when the request is taken (R411). -/
def execDieOnline (d : Nat) (s : State) : Out :=
  .next (if d < 8 then s.askVacate ⟨0, 0, some d, false, true, false, none, false, false⟩ else s)

/-- DIE_OFFLINE: the die is vacated, then fenced (R411) (DEDUCED, log entry 65). -/
def execDieOffline (d : Nat) (s : State) : Out :=
  .next (if d < 8 then s.askVacate ⟨0, 0, some d, true, false, false, none, false, false⟩ else s)

/-! ### Containment (R375, R376) -/

/-- The contexts that map a byte of a range. -/
def State.mappers (s : State) (lo n : Nat) : List Nat :=
  Map.keysWhere s.ctxs (fun x _ => s.ctxMaps x lo n)

/-- A write that has not been performed, with its context and grid. -/
def Req.unperformed (r : Req) : Option (Nat × Nat) :=
  match r with
  | .store t => if t.stage == .issued || t.stage == .passed then some (t.ctx, t.grid) else none
  | .atom a => if a.performed < a.parts.length then some (a.ctx, a.grid) else none
  | .xaddm x => if x.linesLeft.isEmpty then none else some (x.ctx, x.grid)
  | _ => none

/-- Bytes that some of a list of writes still have to perform, of those that a test holds of (R416). -/
def State.unwrittenBytes (s : State) (ks : List Nat) (f : Req → Bool) : Nat :=
  ks.foldl (fun n k => match Map.get? s.reqs k with
    | some (.store t) => if f (.store t) && (t.stage == .issued || t.stage == .passed) then n + t.cells.length else n
    | _ => n) 0

/-- Requests are taken back; a collective counts what it loses. -/
def State.dropReqs (s : State) (f : Req → Bool) : State :=
  { s with
    reqs := s.reqs.filter (fun p => !(f p.2))
    colls := Map.mapV s.colls (fun _ c => { c with lost := c.lost + s.unwrittenBytes (c.writes.getD []) f }) }

/-- Writes of a context or grid that ends by containment are performed no more (R376). -/
def State.dropWrites (s : State) (hit : Nat × Nat → Bool) : State := s.dropReqs (fun r => r.unperformed.any hit)

/-- Address engines of a grid that containment ends stop without a status (R376). -/
def State.dropEngines (s : State) (g : Nat) : State :=
  (Map.keysWhere s.warps (fun _ w => match w.kind with | .ae _ _ _ h => h == g | _ => false)).foldl (fun s u =>
    let w := s.warp u
    let banks := match w.kind with | .ae banks _ _ _ => banks | _ => []
    let s : State := s.updCore w.core (fun c => banks.foldl (fun c b => match b with
      | some k => c.setBank k { c.bankOf k with producers := (c.bankOf k).producers - 1 }
      | none => c) c)
    { s with warps := Map.del s.warps u, reqs := s.reqs.filter (fun r => match r.2 with | .load l => l.warp != u | _ => true) }) s

/-- Ends a grid by containment: no write of it is performed any more. -/
def State.contain (s : State) (g : Nat) : State :=
  (((s.dropEngines g).kill g 3 0).dropWrites (fun x => x.2 == g && g != 0)).sweep

/-- The scalar control cores of a context that ends halt, saved ones too, with nothing under way (R376). -/
def State.endSccs (s : State) (ctx : Nat) : State :=
  let s : State := s.warps.foldl (fun s p => match p.2.kind with
    | .scc c => if p.2.ctx == ctx && p.2.live then (s.updWarp p.1 (fun w => { w with check := none, hold := none })).haltScc p.1 c else s
    | _ => s) s
  (s.sccSaved.filter (fun p => p.2.2.ctx == ctx)).foldl (fun s p => { s with
    sccSaved := Map.del s.sccSaved p.1
    sccHalted := if s.sccHalted.contains p.1 then s.sccHalted else s.sccHalted ++ [p.1] }) s

/-- The engine commands of a context that ends are over, a scalar control core's among them (R376, R403). -/
def State.endCommands (s : State) (ctx : Nat) : State :=
  { s with
    copies := Map.mapV s.copies (fun _ c => if c.ctx == ctx && c.status == none then { c with status := some 3 } else c)
    drains := Map.mapV s.drains (fun _ c => if c.ctx == ctx && c.status == none then { c with status := some 3 } else c)
    colls := Map.mapV s.colls (fun _ c => if c.ctx == ctx && c.status == none then { c with status := some 3 } else c) }

/-- Ends every grid of a context by containment, and what the context runs beside its grids. -/
def State.endContext (s : State) (ctx : Nat) : State :=
  let s : State := s.dropWrites (fun x => x.1 == ctx)
  let s : State := (Map.keysWhere s.grids (fun _ g => g.ctx == ctx && !g.ended)).foldl State.contain s
  (((s.endSccs ctx).endCommands ctx).dropWrites (fun x => x.1 == ctx)).sweep

/-- Values on their way from contained data are cancelled; their registers become orphaned (R376). -/
def State.cancelContained (s : State) : State :=
  let bad (l : Load) : Bool := l.pas.any (fun k => !isSp k && s.contained k)
  let hit := s.reqs.filterMap (fun p => match p.2 with | .load l => if bad l then some (p.1, l) else none | _ => none)
  let s : State := hit.foldl (fun s p => ((s.delReq p.1).updWarp p.2.warp (fun w =>
    { w.updLane p.2.lane (fun k => p.2.dst.foldl (fun k r => k.orphan r.toNat) k) with
      xaWait := match p.2.acc with | some b => w.xaWait.erase b | none => w.xaWait })).settleAcquire p.2.warp) s
  let hitA := s.reqs.filterMap (fun p => match p.2 with
    | .atom a => if p.2.pas.any (fun k => !isSp k && s.contained k) then some (p.1, a) else none
    | _ => none)
  hitA.foldl (fun s p =>
    let rs := match p.2.ret with | some d => oldRegs d p.2.aop | none => []
    ((s.delReq p.1).updLanes p.2.warp (p.2.parts.map (·.lane)) (fun _ k => rs.foldl (fun k r => k.orphan r.toNat) k)).settleAcquire p.2.warp) s

/-- Pops in flight from a fenced core's FIFOs are lost; their destinations become orphaned (R205). -/
def State.orphanPops (s : State) (core : Nat) : State :=
  let hit := s.reqs.filterMap (fun p => match p.2 with | .load l => if l.src == 1 && l.core == core then some (p.1, l) else none | _ => none)
  hit.foldl (fun s p => (s.delReq p.1).updWarp p.2.warp (fun w => w.updLane p.2.lane (fun k => p.2.dst.foldl (fun k r => k.orphan r.toNat) k))) s

/-- A core is fenced (R373, R375): every grid with a block on it ends; its position is refilled from one of the die's four spare cores where one is
left (R1, R2). -/
def State.fenceCore (s : State) (core : Nat) : State :=
  let gs := ((s.coreBlocks core).map (fun b => (s.block b).grid)).eraseDups
  let s : State := gs.foldl State.contain (s.orphanPops core)
  let s : State := (s.commandsEnd 3 (s.core core).mq).walksEnd core 3 (s.core core).walks
  let used := Map.getD s.fw.spares (core / 32) 0
  let spare := used < 4
  let s : State := if spare then { s with fw := { s.fw with spares := Map.put s.fw.spares (core / 32) (used + 1) } } else s
  ((s.updCore core (fun c => { Core.fresh with fenced := !spare, tasks := c.endedTasks })).coreLeft core false true).sweep

/-- UNCORRECTABLE_ERROR (DEDUCED, log entry 66). -/
def execUncorrectableError (u : FailUnit) (s : State) : Out :=
  let lines (s : State) (ls : List Nat) : State :=
    let s : State := { s with fw := { s.fw with lostLines := s.fw.lostLines ++ ls } }
    ls.foldl (fun s l => (s.mappers (l * 256) 256).foldl State.endContext s) s
  .next (match u with
    | .core c => if (s.core c).online && !(s.core c).fenced then s.fenceCore c else s
    | .line pa =>
      let l := s.localPa pa.toNat / 256
      (lines { s with fw := { s.fw with fencedWays := s.fw.fencedWays ++ [(homeSlice (l * 256), l)] } } [l]).cancelContained
    | .slice k ls => (lines { s with fw := { s.fw with fencedSlices := s.fw.fencedSlices ++ [k] } } ls).cancelContained
    | .page pa =>
      let p := s.localPa pa.toNat / 65536
      let s : State := { s with fw := { s.fw with retired := s.fw.retired ++ [p] } }
      ((s.mappers (p * 65536) 65536).foldl State.endContext s).cancelContained)

/-- SOFT_ERROR_CORRECTED: counted, and otherwise invisible. -/
def execSoftErrorCorrected (s : State) : Out := .next { s with fw := { s.fw with corrected := s.fw.corrected + 1 } }

end Sys2Proof.Machine
end

