-- ==== Sys2Proof/Machine/Firmware.lean ====
section
/-! DEFINITION. What the firmware answers and sets: service requests, engine faults, debug, the scalar control cores, contexts, quotas,
keys, boot, updates, attestation and clocks (R11, R209, R290, R313, R325, R331, R335, R350, R362, R367, R383 to R387, R405, R414, R418, R420
to R424). -/

namespace Sys2Proof.Machine

/-! ### Service requests of lanes (R335, R362, R367) -/

/-- The firmware's reply to a suspended fragment. -/
inductive Reply where
  | resume
  | finish (status detail : Nat)
  deriving DecidableEq, Repr

/-- The causes that the vendor runtime hands to the host (R362). -/
def hostCause (c : Nat) : Bool :=
  [0x01, 0x02, 0x03, 0x04, 0x07, 0x09, 0x0A, 0x0B, 0x0C, 0x0D, 0x0E, 0x0F, 0x10, 0x12, 0x17, 0x18, 0x19, 0x1A].contains c

/-- A context's RESIDENT parcels without an occupant on a core, by their last entry (R335). -/
def State.idleParcels (s : State) (core ctx : Nat) : List Nat :=
  let ps := (s.core core).parcels.filter (fun p =>
    p.1 / 65536 == ctx && p.2.state == 2 && s.occupancy core ctx (p.1 % 65536) == 0)
  (ps.foldl (fun (acc : Map Parcel) p =>
    acc.filter (fun q => q.2.entered ≤ p.2.entered) ++ [p] ++ acc.filter (fun q => p.2.entered < q.2.entered)) []).map (·.1)

/-- Whether a parcel fits its quota once the CLOSING parcels without an occupant are gone. -/
def State.fitsSoon (s : State) (core key : Nat) : Bool :=
  (s.updCore core (fun c => { c with parcels := Map.mapV c.parcels (fun k p =>
    if p.state == 3 && s.occupancy core (k / 65536) (k % 65536) == 0 then p.gone else p) })).parcelFits core key

/-- Evictions, each as by a PEVICT, until a parcel fits its quota, or nothing is left to evict (R327, R335). -/
def State.evictFor (s : State) (core key : Nat) : State :=
  (s.idleParcels core (key / 65536)).foldl (fun s k =>
    if s.fitsSoon core key then s else s.setParcel core k { Map.getD (s.core core).parcels k .absent with state := 3 }) s

/-- The parcel that a PARCEL_ABSENT handler's lane asks for. -/
def Lane.wanted (k : Lane) (ctx : Nat) : Nat := parcelKey ctx (k.tinfo.toNat / 65536)

/-- Whether the request of a PARCEL_ABSENT handler is one for quota: the receipt of its PLOAD has generation 0 (R333, R335). -/
def Lane.asksQuota (k : Lane) : Bool := match k.asked with | some r => r.toNat % 65536 == 0 | none => false

/-- The status of the load that the receipt names, as the parcel engine has reported it (R331, R335); 0 where there is none. -/
def State.loadStatus (s : State) (w : Warp) (k : Lane) : Nat :=
  match k.asked with
  | some r => ((s.fw.reports.filter (fun x => x.1 == 2 &&
      x.2.1 == (w.core * 2 ^ 24 + k.wanted w.ctx) * 65536 + r.toNat % 65536)).getLast?.map (·.2.2)).getD 0
  | none => 0

/-- The reply that the spec fixes for a suspended lane's cause, where it fixes one: parcels, debug without a park, BANKCFG waits, causes of the
host without a service (R335, R362, R386) (DEDUCED, log entry 70). -/
def State.fixedReply (s : State) (w : Warp) (k : Lane) : Option Reply :=
  let c := k.tcause.toNat
  if c = 0x13 || c = 0x14 then some .resume
  else if c = 0x1B then (if (s.core w.core).cfg.isNone then some .resume else none)
  else if c = 0x06 then
    if k.asksQuota then
      (if !s.fitsSoon w.core (k.wanted w.ctx) && (s.idleParcels w.core w.ctx).isEmpty then some (.finish 9 6) else some .resume)
    else if s.loadStatus w k ≠ 0 then some (.finish 9 (s.loadStatus w k)) else some .resume
  else if hostCause c && !(s.ctx w.ctx).service then some (.finish 1 c)
  else none

/-- Whether a reply may be given to a suspended lane: the fixed one, or, where the firmware's policy decides, any; a page fault's end has status
PAGE_FAULT (R367). -/
def State.mayReply (s : State) (w : Warp) (k : Lane) (r : Reply) : Bool :=
  k.place == .tsvc && (match s.fixedReply w k with
    | some x => x == r
    | none => k.tcause != 0x1B && (match r with
      | .resume => true
      | .finish st _ => 0 < st && (k.tcause != 0x08 || st == 7)))

/-- The suspended lanes of a mask that a reply may be given to. -/
def State.replied (s : State) (w : Warp) (m : Word) (r : Reply) : List Nat :=
  Map.keysWhere w.lanes (fun l k => bitAt m l && s.mayReply w k r)

/-- A lane that leaves its handler by a reply, as by RETT (R364, R367). -/
def Lane.resume (k : Lane) : Lane := { k.rett with place := .frontier, noWatch := k.again }

/-- A quota request is served before its reply (R335). -/
def State.serveQuota (s : State) (w : Warp) (ls : List Nat) : State :=
  ls.foldl (fun s l => if (w.lane l).tcause = 0x06 && (w.lane l).asksQuota then s.evictFor w.core ((w.lane l).wanted w.ctx) else s) s

/-- The resume address that the firmware has rewritten for a lane, if it has (R367). -/
def Lane.redirect (k : Lane) (l : Nat) (pcs : List (Nat × Word)) : Lane :=
  match pcs.find? (fun p => p.1 == l) with
  | some p => { k with resumePc := p.2, resumePast := false }
  | none => k

/-- Lanes of a warp resume, at the addresses that the firmware has rewritten where it has. -/
def Warp.resumeLanes (w : Warp) (ls : List Nat) (pcs : List (Nat × Word)) : Warp :=
  { w with lanes := Map.mapV w.lanes (fun l k => if ls.contains l then (k.redirect l pcs).resume else k) }

/-- TSVC_REPLY_RESUME. -/
def execTsvcReplyResume (u : Nat) (m : Resumption) (s : State) : Out :=
  .next (match Map.get? s.warps u, s.awayWarp u with
    | some w, _ =>
      let ls := s.replied w m.mask .resume
      ls.foldl (fun s l => s.leaveHandler u l) ((s.serveQuota w ls).updWarp u (fun w => w.resumeLanes ls m.pcs))
    | none, some w => s.updAway u (fun x => x.resumeLanes (s.replied w m.mask .resume) m.pcs)
    | none, none => s)

/-- The end of lanes and of their grid; a scalar control core halts. -/
def State.endReply (s : State) (u : Nat) (ls : List Nat) (status detail : Nat) : State :=
  if ls.isEmpty then s
  else match Map.get? s.warps u, s.awayWarp u with
    | some w, _ => (match w.kind with
      | .scc c => s.haltScc u c
      | _ => ((s.endLanes u ls).kill (s.gridOf w) status detail).sweep)
    | none, some w => (match w.kind, Map.get? s.saved w.block with
      | .scc c, _ => { s with
          sccSaved := Map.del s.sccSaved c, sccHalted := if s.sccHalted.contains c then s.sccHalted else s.sccHalted ++ [c] }
      | _, some m => s.kill m.block.grid status detail
      | _, none => s)
    | none, none => s

/-- TSVC_REPLY_END. -/
def execTsvcReplyEnd (u : Nat) (m : Word) (status detail : BitVec 16) (s : State) : Out :=
  .next (match (match Map.get? s.warps u with | some w => some w | none => s.awayWarp u) with
    | some w => s.endReply u (s.replied w m (.finish status.toNat detail.toNat)) status.toNat detail.toNat
    | none => s)

/-! ### Engine faults (R290, R301, R313, R331, R350) -/

/-- The status that an unserviceable fault gives a command. -/
def faultStatus (cause : Nat) : Nat := if cause = 0x08 then 1 else 2

/-- Bytes from a copy's checkpoint on that have been written all the same: any of those that can be (R290) (DEDUCED, log entry 71). -/
def State.copyRest (s : State) (c : Copy) : Map Byte :=
  let at_ := 4096 * c.checkpoint
  (List.range (c.bytes - at_)).foldl (fun m k =>
    if !(Config.freeValue (s.free + k / 64)).getLsbD (k % 64) then m
    else match s.copyByte c (at_ + k), s.enginePlace c.eng (c.dstVa (at_ + k)) false true with
      | .inl b, .inl p => Map.put m p b
      | _, _ => m) []

/-- The reply to a copy's or gather's fault. -/
def State.replyCopy (s : State) (k : Nat) (ok : Bool) : State :=
  match Map.get? s.copies k with
  | some c => match c.fault with
    | none => s
    | some (cause, _) =>
      if ok then s.setCopy k { c with fault := none }
      else
        let m := s.copyRest c
        let s : State := { s with free := s.free + (c.bytes - 4096 * c.checkpoint) / 64 + 1 }
        ((s.noteEngine c.core c.warp (m.map (·.1))).engineWrite c.cls c.core c.block c.grid c.ctx m).2.setCopy k { c with fault := none, status := some (faultStatus cause) }
  | none => s

/-- A matrix command after the reply to its fault. -/
def MCmd.reply (m : MCmd) (ok : Bool) : MCmd :=
  match m.fault with
  | none => m
  | some (cause, _) => if ok then { m with fault := none } else { m with fault := none, status := some (m.status.getD (faultStatus cause)) }

/-- A walk after the reply to its fault. -/
def Walk.reply (w : Walk) (ok : Bool) : Walk :=
  match w.fault with
  | none => w
  | some (cause, _) => if ok then { w with fault := none } else { w with fault := none, status := faultStatus cause }

/-- The reply to a walk's fault. -/
def State.replyWalk (s : State) (core : Nat) (ok : Bool) : State :=
  match (s.core core).running with
  | some (k, w) => s.setWalk core k (w.reply ok)
  | none => s

/-- The reply to a parcel load's fault: the load goes on from its first page, or ends (R331). -/
def State.replyParcel (s : State) (core : Nat) (ok : Bool) : State :=
  let at_ (k : Nat) : Parcel := Map.getD (s.core core).parcels k .absent
  match (s.core core).loads.find? (fun k => (at_ k).fault.isSome) with
  | some k => if ok then s.setParcel core k { at_ k with fault := none, got := [] } else (s.endLoad core k 1 (at_ k)).startBlocks core
  | none => s

/-- The reply to an address engine's fault: the load is translated anew, or the engine ends. -/
def State.replyAe (s : State) (core : Nat) (ok : Bool) : State :=
  match s.aeOf core with
  | some u => match (s.warp u).check with
    | some c => match c.fault with
      | none => s
      | some cause =>
        if ok then (s.updWarp u (fun w => { w with check := some { c with fault := none, xlat := [], bad := [] } })).startWalks u
        else (s.aeEnd u (0x100 + cause)).sweep
    | none => s
  | none => s

/-- The reply to a fault of an engine's command that a saved block's image holds (R314, R371, R380). -/
def State.replyImage (s : State) (b : Nat) (f : Image → Image) : State := { s with saved := Map.upd s.saved b f }

/-- The reply to the fault of a saved address engine: the load is translated anew once the block has returned, or the engine ends then. -/
def Warp.replyAway (w : Warp) (ok : Bool) : Warp :=
  match w.kind, w.check with
  | .ae banks st fin g, some c => (match c.fault with
    | none => w
    | some cause =>
      if ok then { w with
        check := none
        lanes := Map.mapV w.lanes (fun l k => if c.lanes.contains l then ((c.marked l).filter (fun r => k.isEmpty r.toNat)).foldl (fun k r =>
          k.restore r.toNat (c.orphans.contains (l, r.toNat))) k else k) }
      else { w with check := none, kind := .ae banks st (some (fin.getD (0x100 + cause))) g, lanes := (w.endLanes (w.lanes.map (·.1))).lanes })
  | _, _ => w

/-- ENGINE_FAULT_SERVICE_REPLY. -/
def execEngineFaultServiceReply (e : EngineRef) (ok : Bool) (s : State) : Out :=
  .next (match e with
    | .copy k => s.replyCopy k ok
    | .drain k => { s with drains := Map.upd s.drains k (fun m => m.reply ok) }
    | .matrix c => s.updCore c (fun k => match mulHead [] k.mq with | some (pre, m, r) => { k with mq := pre ++ m.reply ok :: r } | none => k)
    | .walker c => s.replyWalk c ok
    | .parcel c => s.replyParcel c ok
    | .address c => s.replyAe c ok
    | .savedMatrix b n => s.replyImage b (fun m => { m with mq := m.mq.zipIdx.map (fun p => if p.2 == n then p.1.reply ok else p.1) })
    | .savedWalk b => s.replyImage b (fun m => { m with walks := Map.mapV m.walks (fun _ x => { x with val := x.val.map (fun w => w.reply ok) }) })
    | .savedAddress b => s.replyImage b (fun m => { m with warps := Map.mapV m.warps (fun _ w => w.replyAway ok) }))

/-! ### Debug (R383 to R387) -/

/-- Whether a warp's comparator breakpoint is due: its instruction's checks are over (DEDUCED, log entry 69). -/
def Warp.bpDue (w : Warp) : Bool := w.bp.isSome && w.check.isNone && !w.held

/-- A lane of the fragment that takes a comparator's breakpoint: a live one that the instruction did not leave to execute it again, or a helper
(R358, R384). -/
def Lane.breaks (k : Lane) : Bool :=
  k.place != .ended && (k.helper || (match k.place with | .slot _ => false | .head => false | _ => true))

/-- COMPARATOR_BREAKPOINT: the lanes of the fragment take BREAKPOINT where the instruction sent them, those that it parked too; a lane that
it left to execute it again takes none (R384) (DEDUCED, log entry 69). -/
def execComparatorBreakpoint (u : Nat) (s : State) : Out :=
  let w := s.warp u
  .next (match w.bpDue, w.bp with
    | true, some (pc, ls) =>
      let ls := ls.filter (fun l => (w.lane l).breaks)
      let s : State := s.updWarp u (fun w => { w with bp := none })
      if ls.all (fun l => (w.lane l).helper) then s else s.takeTrap u false ls 0x13 (fun _ => ⟨0x13, 0, 0⟩) pc Lane.here
    | _, _ => s)

/-- What a debugger's write does to a lane of a parked warp (R386). -/
def Lane.debugWrite (k : Lane) (l : Nat) : DebugWrite → Lane
  | .reg j r v => if j = l then k.put r.toNat v else k
  | .pred j p v => if j = l then k.putP p v else k
  | .resume j pc => if j = l then { k with pc := pc, past := false, noWatch := k.noWatch && pc == k.pc } else k
  | .sr j n v => if j = l then k.setSys n v else k

/-- A parked warp as the debugger leaves it; its fragments go on. -/
def Warp.debugGo (w : Warp) (ws : List DebugWrite) : Warp :=
  if !w.parked then w
  else { w with lanes := Map.mapV w.lanes (fun l k =>
    let k : Lane := ws.foldl (fun k x => k.debugWrite l x) k
    if k.place == .debug then { k with place := .frontier } else k) }

/-- DEBUG_RESUME: the debugger's writes, then the fragments of a parked warp go on (DEDUCED, log entry 67). -/
def execDebugResume (d : DebugTurn) (s : State) : Out :=
  .next (if Map.has s.warps d.warp then
      (Map.keysWhere (s.warp d.warp).lanes (fun _ k => k.place == .debug && k.prio != 63)).foldl (fun s l => s.leaveHandler d.warp l)
        (s.updWarp d.warp (fun w => w.debugGo d.writes))
    else s.updAway d.warp (fun w => w.debugGo d.writes))

/-- DEBUG_SESSION_ATTACH. -/
def execDebugSessionAttach (x : Nat) (s : State) : Out := .next (if x < 256 then s.updCtx x (fun c => { c with debug := true }) else s)

/-- DEBUG_STOP_REQUEST: a tick that has passed is refused. -/
def execDebugStopRequest (t : BitVec 64) (s : State) : Out :=
  .next (if s.tick ≤ t && !s.fw.stopped then { s with fw := { s.fw with stopAt := some t } } else s.report 8 t.toNat 0)

/-- CLOCK_STOP: at the end of the named tick every clock stops. -/
def execClockStop (s : State) : Out :=
  .next (match s.fw.stopAt with
    | some t => if s.tick ≤ t && !s.fw.stopped then { s with tick := t, fw := { s.fw with stopped := true } } else s
    | none => s)

/-- DEBUG_STOP_RELEASE: the tick goes on at the next. -/
def execDebugStopRelease (s : State) : Out :=
  .next (if s.fw.stopped then { s with tick := s.tick + 1, fw := { s.fw with stopped := false, stopAt := none } } else s)

/-- WATCHPOINT_RANGE_WRITE. -/
def execWatchpointRangeWrite (c n : Nat) (base limit : BitVec 64) (s : State) : Out :=
  .next (if n < 16 && base.toNat % 64 = 0 && limit.toNat % 64 = 0 && (s.core c).online then
      s.updCore c (fun k => { k with watches := Map.put k.watches n { k.watch n with base := base, limit := limit } })
    else s)

/-- Whether a trace ring lies in memory as R387 asks. -/
def State.ringOk (s : State) (base : BitVec 48) (k : Nat) : Bool :=
  base.toNat % 4096 == 0 && k ≤ 16 && s.mappable base.toNat && s.mappable (base.toNat + 4096 * 2 ^ k - 1)

/-- TRACE_RING_CONFIG: a ring, or none; each warp of the core begins with a sync group (R389). -/
def execTraceRingConfig (c : Nat) (ring : Option (BitVec 48 × Nat)) (s : State) : Out :=
  let set (s : State) (t : Option Trace) : State :=
    { s.updCore c (fun k => { k with trace := t }) with
      warps := Map.mapV s.warps (fun _ w => if w.core == c then { w with lastSync := none } else w) }
  .next (if !(s.core c).online then s
    else match ring with
      | none => set s none
      | some (base, k) => if s.ringOk base k then set s (some ⟨base.toNat, 4096 * 2 ^ k, 0, 0⟩) else s)

/-! ### Scalar control cores (R11) -/

/-- Whether a scalar control core can start: it does not run, its cluster's cores are there, and the bound grid has a block on the
cluster (DESIGN CHOICE, log entry 78). -/
def State.sccReady (s : State) (c : Nat) (g : Option Nat) : Bool :=
  c < 64 && (s.core (coreAt c 0)).online && !(s.core (coreAt c 0)).fenced &&
    !(s.warps.any (fun p => p.2.kind == .scc c && p.2.live)) && (match g with
      | some g => Map.has s.grids g && !(s.grid g).ended && s.blocks.any (fun b => b.2.grid == g && clusterOf b.2.core == c)
      | none => true)

/-- SCC_RESTART: the firmware starts or restarts the core at an entry (DEDUCED, log entry 16). -/
def execSccRestart (c : Nat) (entry : BitVec 32) (g : Option Nat) (s : State) : Out :=
  .next (if s.sccReady c g then
      let core := coreAt c 0
      let ctx := match g with | some g => (s.grid g).ctx | none => 0
      let w := Warp.start (.scc c) core ctx 0 0 s.nextId [(0, Lane.start entry (s.entryPrio core ctx entry))]
      { s with
        warps := Map.put (s.warps.filter (fun p => p.2.kind != .scc c)) s.nextId w, nextId := s.nextId + 1
        sccSaved := Map.del s.sccSaved c
        sccHalted := s.sccHalted.filter (· != c)
        sccGrid := match g with | some g => Map.put s.sccGrid c g | none => Map.del s.sccGrid c }
    else s)

/-! ### Contexts (R209, R325, R362, R414, R420, R422) -/

/-- ROOT_TABLE_SET: a 16 KiB table in local HBM. -/
def execRootTableSet (x : Nat) (pa : BitVec 48) (s : State) : Out :=
  .next (if x < 256 && pa.toNat % 16384 = 0 && isHbm pa.toNat then s.updCtx x (fun c => { c with root := some pa.toNat }) else s)

/-- Pages that quotas, the pool and parcel 0 take together, with a context's quota and the pool as given (R325) (DEDUCED, log entry 79). -/
def State.quotaSum (s : State) (x n pool : Nat) : Nat :=
  (s.ctxs.filter (fun c => c.1 != x)).foldl (fun m c => m + c.2.quota) 0 + n + pool + pagesOf Config.runtimeCode.length

/-- QUOTA_SET: the sum stays at or below 128 pages. -/
def execQuotaSet (x n pool : Nat) (s : State) : Out :=
  .next (if x < 256 && s.quotaSum x n pool ≤ 128 then
      let s : State := s.updCtx x (fun c => { c with quota := n })
      { s with fw := { s.fw with library := pool } }
    else s)

/-- PEER_GROUP_SET. -/
def execPeerGroupSet (x : Nat) (g : BitVec 32) (rank ranks : Nat) (s : State) : Out :=
  .next (if x < 256 && rank < ranks then s.updCtx x (fun c => { c with groups := Map.put c.groups g.toNat ⟨rank, ranks, 0⟩ }) else s)

/-- HOST_SERVICE_REGISTER. -/
def execHostServiceRegister (x : Nat) (s : State) : Out := .next (if x < 256 then s.updCtx x (fun c => { c with service := true }) else s)

/-- CONTEXT_KEY_REGISTER. -/
def execContextKeyRegister (x : Nat) (key : BitVec 512) (s : State) : Out :=
  .next (if x < 256 then s.updCtx x (fun c => { c with keys := c.keys ++ [key] }) else s)

/-- Whether a request of a context has been translated and not performed. -/
def Req.openFor (r : Req) (s : State) (x : Nat) : Bool :=
  match r with
  | .load l => (s.warp l.warp).ctx == x && l.serve != .done
  | .fill _ => false
  | .store t => t.ctx == x && (t.stage == .issued || t.stage == .passed)
  | .atom a => a.ctx == x && a.performed < a.parts.length
  | .walk p => p.ctx == x
  | .xaddm y => y.ctx == x && !y.linesLeft.isEmpty

/-- Whether every access that the context's old tables translated has been performed or has faulted (R420) (DESIGN CHOICE, log entry 73). -/
def State.invalidateReady (s : State) (x : Nat) : Bool :=
  !(s.reqs.any (fun p => p.2.openFor s x)) && !(s.cores.any (fun c => c.2.tasks.any (fun t => (s.grid t.2.grid).ctx == x && !t.2.buf.isEmpty))) &&
    s.warps.all (fun p => p.2.ctx != x || (match p.2.check with | some c => c.fault.isSome | none => true))

/-- Whether two ranges of 57-bit addresses meet. -/
def rangesMeet (a n b m : Nat) : Bool := a < b + m && b < a + n

/-- TLB_INVALIDATE_RANGE (R420): every TLB and walk cache entry of the range is gone. -/
def execTlbInvalidateRange (x : Nat) (va len : BitVec 64) (s : State) : Out :=
  let lo := va.toNat % 2 ^ 57
  let hit (t : Xlat) : Bool := t.ctx == x && rangesMeet t.base t.size lo len.toNat
  let hitW (e : WalkEntry) : Bool := e.ctx == x && rangesMeet (e.base * 2 ^ levelShift e.level) (2 ^ levelShift e.level) lo len.toNat
  .next (if s.invalidateReady x then
      { s with
        cores := Map.mapV s.cores (fun _ c => { c with tlb := c.tlb.filter (fun t => !(hit t)) })
        tlbs := Map.mapV s.tlbs (fun _ l => l.filter (fun t => !(hit t)))
        wcache := Map.mapV s.wcache (fun _ l => l.filter (fun e => !(hitW e))) }
    else s)

/-! ### Boot, update, attestation, clocks (R411, R421 to R424) -/

/-- The table version that firmware brings (R421, R423; log entry 6). -/
def versionOf (code : List Byte) : Nat × Nat := Config.firmwareVersion (shake256 code)

/-- BOOT: each complex's firmware is verified, and fails to run where it does not verify; A is active where it runs; the eight compute dies come
online (R1, R2, R411, R422). -/
def execBoot (a b : SignedCode) (s : State) : Out :=
  let okA := firmwareOk a.code a.cert
  let okB := firmwareOk b.code b.cert
  .next (if s.fw.booted then s
    else
      let s : State := { s with fw := { s.fw with
        booted := okA || okB, bootFailed := !okA || !okB, activeB := !okA && okB, standbyHalted := !okA || !okB
        versionA := if okA then versionOf a.code else s.fw.versionA
        versionB := if okB then versionOf b.code else s.fw.versionB } }
      let s : State := if okA && okB then s else s.report 7 (if okA then 0 else 1) (if okB then 0 else 1)
      if okA || okB then (List.range 8).foldl State.dieUp s else s)

/-- The table version of the active complex. -/
def Firmware.active (f : Firmware) : Nat × Nat := if f.activeB then f.versionB else f.versionA

/-- LIVE_UPDATE: the standby complex boots the firmware, as the boot ROM does, and takes over with what it can import of the active one's table; the
old complex becomes the standby. Where the firmware does not verify, or the table cannot be imported, the standby halts (R421, R422) (DEDUCED, log entry
80). -/
def execLiveUpdate (code : List (BitVec 8)) (cert : Cert) (s : State) : Out :=
  let f := s.fw
  let v := versionOf code
  .next (if !f.booted then s
    else if !(firmwareOk code cert) then ({ s with fw := { f with standbyHalted := true, bootFailed := true } } : State).report 7
      (if f.activeB then 1 else 0) (if f.activeB then 0 else 1)
    else if v.1 = f.active.1 && f.active.2 ≤ v.2 then
      { s with fw := { f with
        activeB := !f.activeB, standbyHalted := false
        versionA := if f.activeB then v else f.versionA
        versionB := if f.activeB then f.versionB else v } }
    else { s with fw := { f with standbyHalted := true } })

/-- The parts of an attestation report: nonce, firmware versions, die identities, enabled cores and hot-plug state, a context's digests. -/
def State.attestation (s : State) (nonce : BitVec 256) (x : Option Nat) : List (BitVec 256) :=
  let n (k : Nat) : BitVec 256 := BitVec.ofNat 256 k
  [nonce, n s.fw.versionA.1, n s.fw.versionA.2, n s.fw.versionB.1, n s.fw.versionB.2] ++
    (List.range 13).map Config.dieIdentity ++
    [n ((List.range 256).foldl (fun m c => m + if (s.core c).online && !(s.core c).fenced then 2 ^ c else 0) 0),
      n ((List.range 8).foldl (fun m d => m + if (s.core (32 * d)).online then 2 ^ d else 0) 0)] ++
    (match x with | some x => (s.ctx x).parcels.map (fun p => p.2.digest) | none => [])

/-- ATTESTATION_REQUEST: the report, with its signature last. -/
def execAttestationRequest (nonce : BitVec 256) (x : Option Nat) (s : State) : Out :=
  let r := s.attestation nonce x
  .next { s with fw := { s.fw with attest := s.fw.attest ++ [r ++ [Config.attest r]] } }

/-- POWER_CLOCK_STEP: the core clock moves by 50 MHz, never above 1.3 GHz (DESIGN CHOICE, log entry 81). -/
def execPowerClockStep (up : Bool) (s : State) : Out :=
  let c := s.fw.clockMhz
  .next { s with fw := { s.fw with clockMhz := if up then min 1300 (c + 50) else if 50 < c then c - 50 else c } }

end Sys2Proof.Machine
end

