-- ==== Sys2Proof/Machine/Halfword.lean ====
section
/-! DEFINITION. The 16-bit two-address forms, MOVI and ADDI (R65, R66, R117). Their sources always wait (R20). -/

namespace Sys2Proof.Machine

def execMov16 (d b : BitVec 5) (s : State) : Out :=
  lanewise s { srcs := [wait1 (wide5 b)], dsts := [d.toNat], wlen := 1 } (fun k _ => k.put d.toNat (k.val b.toNat))

def execAdd16 (d b : BitVec 5) (s : State) : Out := half2 s d b (fun x y => x + y)

def execSub16 (d b : BitVec 5) (s : State) : Out := half2 s d b (fun x y => x - y)

def execMul16 (d b : BitVec 5) (s : State) : Out := half2 s d b (fun x y => x * y)

def execAnd16 (d b : BitVec 5) (s : State) : Out := half2 s d b (fun x y => x &&& y)

def execOr16 (d b : BitVec 5) (s : State) : Out := half2 s d b (fun x y => x ||| y)

def execXor16 (d b : BitVec 5) (s : State) : Out := half2 s d b (fun x y => x ^^^ y)

def execAndn16 (d b : BitVec 5) (s : State) : Out := half2 s d b (fun x y => x &&& ~~~ y)

def execShl16 (d b : BitVec 5) (s : State) : Out := half2 s d b (fun x y => x <<< shiftBy y)

def execShr16 (d b : BitVec 5) (s : State) : Out := half2 s d b (fun x y => x >>> shiftBy y)

def execSra16 (d b : BitVec 5) (s : State) : Out := half2 s d b (fun x y => x.sshiftRight (shiftBy y))

def execFadd16 (d b : BitVec 5) (s : State) : Out := fhalf2 s d b f32.add

def execFsub16 (d b : BitVec 5) (s : State) : Out := fhalf2 s d b f32.sub

def execFmul16 (d b : BitVec 5) (s : State) : Out := fhalf2 s d b f32.mul

def execFmin16 (d b : BitVec 5) (s : State) : Out := fhalf2 s d b (fun e => f32.minmax e.daz false)

def execFmax16 (d b : BitVec 5) (s : State) : Out := fhalf2 s d b (fun e => f32.minmax e.daz true)

/-- MOVI: a signed 5-bit immediate (R66). -/
def execMovi (d i : BitVec 5) (s : State) : Out :=
  lanewise s { dsts := [d.toNat], wlen := 1 } (fun k _ => k.put d.toNat (i.signExtend 32))

/-- ADDI in 16 bits: d is also the source (R66). -/
def execAddi16 (d i : BitVec 5) (s : State) : Out :=
  lanewise s { srcs := [wait1 (wide5 d)], dsts := [d.toNat], wlen := 1 } (fun k _ =>
    k.put d.toNat (k.val d.toNat + i.signExtend 32))

end Sys2Proof.Machine
end

