-- ==== Sys2Proof/Machine/Links.lean ====
section
/-! DEFINITION. Other devices and the host: Relay peers, collectives, Ethernet, the Izyth Link (R208, R405, R412 to R419). -/

namespace Sys2Proof.Machine

/-! ### Relay (R208, R412) -/

/-- RELAY_BRING_UP: the own index and the table of populated ones are reported to the driver (DESIGN CHOICE for the report's form, log entry 77). -/
def execRelayBringUp (own : BitVec 8) (peers : List (BitVec 8)) (s : State) : Out :=
  .next (({ s with fw := { s.fw with ownPeer := some own.toNat, peers := peers.map (·.toNat) } } : State).report 10 own.toNat
    ((List.range 256).foldl (fun n i => if peers.contains (BitVec.ofNat 8 i) then n + 2 ^ i else n) 0))

/-- Whether a peer's access names bytes that exist, in one line and aligned as its kind asks (R15, R412). -/
def peerOk (a : PeerOp) (pa n : Nat) : Bool :=
  isHbm pa && isHbm (pa + n - 1) && 1 ≤ n && pa % 256 + n ≤ 256 && (match a with
    | .load => true
    | .store => n ≤ 8
    | .atomic aop _ => aop.toNat < 21 && n == (if atomWide aop.toNat then 8 else 4) && pa % n == 0)

/-- Bytes that another device or the host has performed at their home; the array holds them later (R235). -/
def State.peerWrite (s : State) (cells : Map Byte) : State :=
  if cells.isEmpty then s else (s.setBytes cells).addReq (.store ⟨10, 0, 0, 0, 0, 0, cells, .acked, [], 0, s.nextId, 0, s.nextId, false, []⟩)

/-- PEER_ACCESS: performed at the home slice; contained data answer with nothing (R376). -/
def execPeerAccess (a : PeerOp) (pa : BitVec 39) (n : Nat) (v : BitVec 64) (s : State) : Out :=
  let reply (s : State) (bs : List Byte) : State := { s with fw := { s.fw with replies := s.fw.replies ++ [bs] } }
  let at_ := pa.toNat
  .next (if !(peerOk a at_ n) then s
    else if s.contained at_ then reply s []
    else match a with
      | .load => reply s (s.bytes at_ n)
      | .store => s.peerWrite (cellsAt at_ (leBytes n v.toNat))
      | .atomic aop cmp =>
        let (ps, cells) := atomRun aop.toNat s.byte [⟨0, at_, v, cmp, 0⟩]
        reply (s.peerWrite cells) (leBytes n ((ps.headD ⟨0, 0, 0, 0, 0⟩).old).toNat))

/-- A request that a failed peer loses: a store not acknowledged, an XADDM (R412). -/
def Req.lostWith (r : Req) (i : Nat) : Bool :=
  r.pas.any (fun k => isRelay k && peerOf k == i) && (match r with
    | .store t => t.stage != .acked
    | .xaddm _ => true
    | _ => false)

/-- PEER_FAILURE: contexts that map the peer end, values on their way from it are cancelled, stores to it are lost. -/
def execPeerFailure (i : Nat) (s : State) : Out :=
  .next (if 256 ≤ i || s.fw.failedPeers.contains i then s
    else
      let s : State := { s with fw := { s.fw with failedPeers := s.fw.failedPeers ++ [i] } }
      let s : State := ((s.mappers (2 ^ 47 + i * 2 ^ 39) (2 ^ 39)).foldl State.endContext s).cancelContained
      (s.dropReqs (fun r => r.lostWith i)).sweep)

/-! ### Collectives (R414 to R416) -/

/-- The combination of two elements by type and function. -/
def collOp (type reduce a b : Nat) : Nat :=
  if type = 3 then (scopeOp (match reduce with | 0 => 2 | 1 => 4 | _ => 5) (BitVec.ofNat 32 a) (BitVec.ofNat 32 b)).toNat
  else
    let k : Fmt := if type = 0 then f32 else if type = 1 then bf16 else f64
    match reduce with
    | 0 => (k.add .plain a b).bits
    | r => (k.minmax false (r == 2) a b).bits

/-- The exact sum of values, as AccAdd and XRnd deliver it; S32 wraps (R46, R47, R415). -/
def collExact (type : Nat) (vs : List Nat) : Nat :=
  if type = 3 then vs.foldl (· + ·) 0 % 2 ^ 32 else ((vs.foldl (fun (a : Acc) v => a.add (accTerm (BitVec.ofNat 64 v))) .zero).round).bits

/-- Element j of the result, from this device's source elements and the other participants', which are free values, `other j i` that of rank or leaf i
(DESIGN CHOICE, log entry 72): the leaves' Fold, or the ranks' values combined, by exact sum or, in plain mode, with this device's at a free place. -/
def Coll.result (c : Coll) (g : PeerGroup) (src : Nat → Nat) (other : Nat → Nat → Nat) (j : Nat) : Nat :=
  let part := c.count / g.ranks
  if c.op = 3 then (if c.root = g.rank then src j else other j 0)
  else if c.op = 2 then (if g.rank * part ≤ j && j < (g.rank + 1) * part then src (j - g.rank * part) else other j 0)
  else if c.mode = 1 then
    (foldTree (collOp c.type c.reduce) 10 ((List.range 1024).map (fun l =>
      some (if c.firstLeaf ≤ l && l < c.firstLeaf + c.leaves then src ((l - c.firstLeaf) * c.count + j) else other j l)))).getD 0
  else
    let vs := (List.range g.ranks).map (fun i => if i = other j g.ranks % g.ranks then src j else other j i)
    if c.mode = 2 then collExact c.type vs else vs.tail.foldl (collOp c.type c.reduce) (vs.headD 0)

/-- Source elements that a command reads. -/
def Coll.reads (c : Coll) (g : PeerGroup) : Nat :=
  match c.op with
  | 3 => if c.root = g.rank then c.count else 0
  | 2 => c.count / g.ranks
  | _ => c.leaves * c.count

/-- The status that the participants settle (R416): a leaf cover that no other participant could complete, or complete twice; with other
participants, theirs decide. -/
def State.collStatus (s : State) (c : Coll) (g : PeerGroup) : Nat :=
  let f := s.freeWord.toNat % 4
  if c.mode = 1 && (1024 < c.firstLeaf + c.leaves || (g.ranks == 1 && c.leaves != 1024)) then 6
  else if g.ranks = 1 then 0 else if f = 2 then 6 else if f = 3 then 3 else 0

def State.setColl (s : State) (k : Nat) (c : Coll) : State := { s with colls := Map.put s.colls k c }

/-- A fault of a collective: serviced, and tried again, or not; which is the firmware's policy. -/
def State.collFault (s : State) (k : Nat) (c : Coll) (t : Trap) : State :=
  match engineStatus t with
  | some x => s.setColl k { c with status := some (if x = 4 then 2 else x) }
  | none =>
    let serviced := s.freeWord.getLsbD 0
    let s : State := s.useFree
    if serviced then s else s.setColl k { c with status := some (faultStatus t.cause) }

/-- The engine's work: the source is read, the result leaves as requests. -/
def State.collRun (s : State) (k : Nat) (c : Coll) : State :=
  let g := Map.getD (s.ctx c.ctx).groups c.group ⟨0, 1, 0⟩
  let st := s.collStatus c g
  let s : State := s.useFree
  if st ≠ 0 then s.setColl k { c with status := some st }
  else
    let n := collSize c.type
    match s.engineRead c.eng (vaRange c.src (n * c.reads g)) with
    | .inr t => s.collFault k c t
    | .inl bs =>
      let src (j : Nat) : Nat := leNat ((bs.drop (n * j)).take n)
      let each := g.ranks + 1024
      let vs := (List.range c.count).map (c.result g src (fun j i => (Config.freeValue (s.free + each * j + i)).toNat % 2 ^ (8 * n)))
      let out := vs.foldl (fun o v => o ++ leBytes n v) []
      match (vaRange c.dst (n * c.count)).foldr (fun va acc => match s.enginePlace c.eng va false true, acc with
        | .inl p, .inl ps => .inl (p :: ps)
        | .inr t, _ => .inr t
        | _, .inr t => .inr t) ((.inl []) : List Nat ⊕ Trap) with
      | .inr t => s.collFault k c t
      | .inl ps =>
        let (ws, s) := (s.noteEngine c.core c.warp ps).engineWrite 7 c.core c.block c.grid c.ctx ((ps.zip out).foldl (fun m p => Map.put m p.1 p.2) []) c.warp
        ({ s with free := s.free + each * c.count } : State).setColl k { c with writes := some ws }

def State.collReady (s : State) (k : Nat) : Bool :=
  match Map.get? s.colls k with
  | some c => match c.status, c.writes with
    | some st, _ => s.recordRoom c.core c.record st
    | none, some ws => ws.all s.homeAcked && s.recordRoom c.core c.record 0
    | none, none => !s.resting c.block
  | none => false

/-- The bytes that a command has written: those of its result less those that it has lost, or has still to write where it fails (R416). -/
def State.collBytes (s : State) (c : Coll) : Nat :=
  match c.writes with
  | some ws => collSize c.type * c.count - c.lost - s.unwrittenBytes ws (fun _ => true)
  | none => 0

/-- COLLECTIVE_COMPLETE (R416): the command runs; once its writes are acknowledged at home, its record and its token. -/
def execCollectiveComplete (k : Nat) (s : State) : Out :=
  .next (match s.collReady k, Map.get? s.colls k with
    | true, some c =>
      if c.status.isNone && c.writes.isNone then s.collRun k c
      else
        let s : State := s.postIf c.core c.record 7 7 (c.status.getD 0) c.tag (s.collBytes c)
        ((({ s with colls := Map.del s.colls k } : State).countEngine c.grid [0x07, 0x08]).tokenDone c.warp c.token).sweep
    | _, _ => s)

/-! ### Ethernet (R418) -/

/-- QUEUE_PAIR_SETUP. -/
def execQueuePairSetup (qp mtu : Nat) (s : State) : Out :=
  .next (if qp < 16384 && (mtu == 1024 || mtu == 2048 || mtu == 4096) then { s with fw := { s.fw with qps := Map.put s.fw.qps qp mtu } } else s)

/-- Bytes that arrive over Ethernet are performed as HOST-class writes; an address that cannot be written is reported. -/
def State.rdmaWrite (s : State) (qp x : Nat) (va : Dword) (bs : List Byte) : State :=
  match s.places x 0 .none va bs.length false true with
  | .inl ks => s.performSys x ((ks.zip bs).foldl (fun m p => Map.put m p.1 p.2) [])
  | .inr t => s.report 5 qp t.cause

/-- RDMA_WRITE. -/
def execRdmaWrite (qp x : Nat) (va : BitVec 64) (bytes : List (BitVec 8)) (s : State) : Out :=
  .next (if Map.has s.fw.qps qp then s.rdmaWrite qp x va bytes else s)

/-- RDMA_READ. -/
def execRdmaRead (qp x : Nat) (va : BitVec 64) (n : Nat) (s : State) : Out :=
  .next (if !(Map.has s.fw.qps qp) then s
    else match s.places x 0 .none va n true false with
      | .inl ks => { s with fw := { s.fw with replies := s.fw.replies ++ [ks.map s.hostByte] } }
      | .inr t => s.report 5 qp t.cause)

/-- RDMA_SEND: a message waits at its queue pair. -/
def execRdmaSend (qp : Nat) (bytes : List (BitVec 8)) (s : State) : Out :=
  .next (if Map.has s.fw.qps qp then { s with fw := { s.fw with received := s.fw.received ++ [(qp, bytes)] } } else s)

/-- RDMA_RECEIVE: the oldest message of the queue pair is laid into the buffer. -/
def execRdmaReceive (qp x : Nat) (va : BitVec 64) (s : State) : Out :=
  .next (match s.fw.received.find? (fun m => m.1 == qp) with
    | some m => ({ s with fw := { s.fw with received := s.fw.received.erase m } } : State).rdmaWrite qp x va m.2
    | none => s)

/-! ### The Izyth Link (R405, R419) -/

/-- Whether the host can name n bytes: of the device, or its own. -/
def hostNames (pa n : Nat) : Bool := (List.range n).all (fun i => isHbm (pa + i) || isHost (pa + i))

/-- HOST_READ: served from the arrays, in the order received; contained data answer with nothing. -/
def execHostRead (pa : BitVec 48) (n : Nat) (s : State) : Out :=
  let reply (bs : List Byte) : State := { s with fw := { s.fw with hostReads := s.fw.hostReads ++ [bs] } }
  let ks := (List.range n).map (pa.toNat + ·)
  .next (if !(hostNames pa.toNat n) then s else if ks.any s.contained then reply [] else reply (ks.map s.hostByte))

/-- HOST_WRITE: performed at the home slices, in the order received (DEDUCED, log entry 74). -/
def execHostWrite (pa : BitVec 48) (bytes : List (BitVec 8)) (s : State) : Out :=
  let cells := cellsAt pa.toNat bytes
  .next (if hostNames pa.toNat bytes.length && !(cells.any (fun c => s.contained c.1)) then (s.setBytes cells).toArray cells else s)

/-- LINK_ENUMERATION: the host gives an address window its base. -/
def execLinkEnumeration (i : Nat) (base : BitVec 64) (s : State) : Out :=
  .next { s with fw := { s.fw with windows := Map.put s.fw.windows i base } }

end Sys2Proof.Machine
end

