-- ==== Sys2Proof/Machine/Packets.lean ====
section
/-! DEFINITION. Hardware work queues, their arbitration and their packets, and the registration of code images (R142, R143, R323, R324,
R404 to R407, R422). -/

namespace Sys2Proof.Machine

/-! ### Queues (R405, R406) -/

/-- QUEUE_SETUP. -/
def execQueueSetup (q : Nat) (base : BitVec 48) (k x prio weight : Nat) (s : State) : Out :=
  let idle := match Map.get? s.queues q with | some o => o.taken.isEmpty | none => true
  .next (if q < 1024 && base.toNat % 4096 = 0 && 4 ≤ k && k ≤ 16 && x < 256 && prio ≤ 3 && 1 ≤ weight && weight ≤ 255 && idle then
      { s with queues := Map.put s.queues q ⟨base.toNat, k, x, prio, weight, 0, 0, false, []⟩ }
    else s)

def State.updQueue (s : State) (q : Nat) (f : Queue → Queue) : State := { s with queues := Map.upd s.queues q f }

/-- QUEUE_RESET: a stopped queue takes packets again. -/
def execQueueReset (q : Nat) (s : State) : Out := .next (s.updQueue q (fun k => { k with error := false }))

/-- DOORBELL_WRITE: one aligned 8-byte write gives a queue its write index; any other write to the region is reported. -/
def execDoorbellWrite (off size : Nat) (v : BitVec 64) (s : State) : Out :=
  .next (if 8192 ≤ off then s
    else if size = 8 && off % 8 = 0 then s.updQueue (off / 8) (fun k => { k with write := v.toNat })
    else s.report 9 off size)

/-- The 64 bytes of a queue's next packet, as the I/O die reads them. -/
def State.packetBytes (s : State) (q : Queue) : List Byte :=
  (List.range 64).map (fun i => s.hostByte (q.base + 64 * (q.read % 2 ^ q.k) + i))

/-- Whether a queue has a packet that may be taken now (R407). -/
def State.takeable (s : State) (q : Queue) : Bool :=
  !q.error && q.read < q.write && (q.taken.isEmpty || field (s.packetBytes q) 1 1 % 2 == 1)

/-- Whether queue number q holds one, at a priority. -/
def State.takeableAt (s : State) (q prio : Nat) : Bool :=
  match Map.get? s.queues q with | some k => k.prio == prio && s.takeable k | none => false

/-- The next queue of a priority after one, in ascending number with wrap, that has a takeable packet. -/
def State.queueAfter (s : State) (q prio : Nat) : Option Nat :=
  let qs := (s.queues.map (·.1)).filter (fun j => s.takeableAt j prio)
  match qs.find? (fun j => q < j) with
  | some j => some j
  | none => qs.head?

/-- A priority's pointer and count after what has happened: a turn that has ended passes on (R405). -/
def State.turnOf (s : State) (prio : Nat) : Option Turn :=
  let pass (q : Nat) (t : Option Turn) : Option Turn := match s.queueAfter q prio with | some j => some ⟨j, 0⟩ | none => t
  match Map.get? s.turns prio with
  | none => match ((s.queues.map (·.1)).filter (fun j => s.takeableAt j prio)).head? with | some j => some ⟨j, 0⟩ | none => none
  | some t =>
    if s.takeableAt t.queue prio && t.count < (match Map.get? s.queues t.queue with | some k => k.weight | none => 0) then some t
    else pass t.queue (some { t with count := 256 })

/-- The priority that the front end serves. -/
def State.servedPrio (s : State) : Option Nat :=
  [3, 2, 1, 0].find? (fun p => s.queues.any (fun q => q.2.prio == p && s.takeable q.2))

/-- The pointers as they stand; those of priorities below the one served are kept (R405). -/
def State.noteTurns (s : State) : State :=
  let low := s.servedPrio.getD 0
  { s with turns := ((List.range 4).filter (fun p => low ≤ p)).foldl (fun m p => match s.turnOf p with | some t => Map.put m p t | none => m) s.turns }

/-- The queue whose packet the front end takes next. -/
def State.nextQueue (s : State) : Option Nat := s.servedPrio.bind (fun p => (s.turnOf p).map (·.queue))

/-! ### Packets (R406) -/

/-- Whether a packet breaks R406. -/
def badPacket (r : List Byte) : Bool :=
  let f := field r
  let type := f 0 1
  let counters := f 1 1 / 2 % 2 == 1
  !(1 ≤ type && type ≤ 3 && f 1 1 < (if type = 1 then 4 else 2) && f 2 2 == 0 && f 48 16 == 0 &&
    (if type = 1 then f 6 1 < 64 && f 7 1 == 0 &&
        (!counters || ((List.range 4).all (fun k => f (32 + k) 1 ≤ 0x1D) && f 40 8 % 32 == 0))
      else f 7 1 < (if type = 2 then 4 else 2) && f 24 8 == 0 && f 8 8 % 8 == 0))

/-- A packet as it is taken. -/
def packetOf (index : Nat) (r : List Byte) : Packet :=
  let f := field r
  { index := index, kind := f 0 1, cond := f 7 1, va := BitVec.ofNat 64 (f 8 8), operand := BitVec.ofNat 64 (f 16 8)
    completion := BitVec.ofNat 64 (f 24 8)
    events := if f 0 1 = 1 && f 1 1 / 2 % 2 = 1 then some ((List.range 4).map (fun k => f (32 + k) 1), BitVec.ofNat 64 (f 40 8)) else none
    limit := f 36 4, seed := none, counter := 0, status := none }

/-- The front end takes the next packet of a queue: the read index moves on, the turn counts it. -/
def State.take (s : State) (q : Nat) (k : Queue) (p : Option Packet) : State :=
  let s : State := s.noteTurns
  let s : State := { s with turns := Map.upd s.turns k.prio (fun t => { t with count := t.count + 1 }) }
  s.updQueue q (fun k => { k with read := k.read + 1, taken := match p with | some p => k.taken ++ [p] | none => k.taken })

/-- A packet that stops its queue in ERROR; the driver is told the slot. -/
def State.stopQueue (s : State) (q index : Nat) : State := (s.updQueue q (fun k => { k with error := true })).report 6 q index

/-! ### Code images (R323, R324, R422) -/

/-- A directory entry: id, flags, halfwords, offset, digest. -/
structure DirEntry where
  id : Nat
  flags : Nat
  halfwords : Nat
  offset : Nat
  digest : BitVec 256
  deriving DecidableEq, Repr

/-- Bytes of a context's memory as the firmware reads them (DEDUCED, log entry 76). -/
def State.imageBytes (s : State) (x : Nat) (va : Dword) (n : Nat) : Option (List Byte) :=
  match s.places x 0 .none va n true false with
  | .inl ks => some (ks.map s.hostByte)
  | .inr _ => none

def directory (r : List Byte) (count : Nat) : List DirEntry :=
  (List.range count).map (fun i =>
    let f (off n : Nat) : Nat := field r (64 + 48 * i + off) n
    ⟨f 0 2, f 2 2, f 4 4, f 8 8, BitVec.ofNat 256 (f 16 32)⟩)

/-- Whether the header's fields are as R323 states. -/
def headerOk (r : List Byte) : Bool :=
  let f := field r
  f 0 4 == 0x49505243 && f 4 2 == 1 && 1 ≤ f 6 2 && f 6 2 ≤ 4096 && f 20 4 == 29792 && f 40 24 == 0 &&
    64 + 48 * f 6 2 ≤ f 16 4 && f 16 4 + f 20 4 ≤ f 8 8 && f 24 8 + f 32 8 ≤ f 8 8

/-- Whether a parcel body's entry table is as R323 states. -/
def entriesOk (id halfwords : Nat) (table : List Byte) : Bool :=
  (List.range 64).all (fun i =>
    let e := field table (4 * i) 4
    e / 2 ^ 22 % 2 ^ 9 == 0 && (e / 2 ^ 31 == 0 || (e % 65536 < halfwords && (id == 0 || e / 65536 % 64 != 63))))

/-- The parcels that an image would register, where it is sound (R323, R324). -/
def State.imageParcelsOf (s : State) (x : Nat) (va : Dword) : Option (Map ParcelInfo) :=
  if va.toNat % 64 ≠ 0 then none
  else match s.imageBytes x va 64 with
    | none => none
    | some h =>
      if !(headerOk h) then none
      else
        let count := field h 6 2
        let sigAt := field h 16 4
        match s.imageBytes x va sigAt, s.imageBytes x (va + BitVec.ofNat 64 sigAt) 29792 with
        | some signed, some sig =>
          let ds := directory signed count
          let vendor := vendorKeys.any (fun k => slhVerifies k signed sig)
          let known := vendor || (s.ctx x).keys.any (fun k => slhVerifies k signed sig)
          let sound (d : DirEntry) : Bool :=
            d.flags < 2 && 1 ≤ d.halfwords && d.halfwords ≤ 65536 && d.offset % 64 == 0 && d.offset + 256 + 2 * d.halfwords ≤ field h 8 8 &&
              (d.flags == 0 || vendor) && d.id != 0 && !(Map.has (s.ctx x).parcels d.id) &&
              (match s.imageBytes x (va + BitVec.ofNat 64 d.offset) 256 with
                | some t => entriesOk d.id d.halfwords t
                | none => false)
          if known && ds.all sound && (ds.map (·.id)).eraseDups.length == count then
            some (ds.foldl (fun m d => Map.put m d.id ⟨va + BitVec.ofNat 64 d.offset, d.halfwords, d.digest, d.flags == 1⟩) [])
          else none
        | _, _ => none

/-- Registers an image for a context when a packet first names it; none where registration fails (R324). -/
def State.registerImage (s : State) (x : Nat) (va : Dword) : Option State :=
  if (s.ctx x).images.contains va then some s
  else (s.imageParcelsOf x va).map (fun ps => s.updCtx x (fun c => { c with
    images := c.images ++ [va], parcels := ps.foldl (fun m p => Map.put m p.1 p.2) c.parcels }))

/-! ### The three types (R142, R143, R407) -/

/-- The packet that a queue would have taken now, of a type; a malformed packet counts as of any type (DEDUCED, log entry 75). -/
def State.taking (s : State) (q type : Nat) : Option (Queue × List Byte) :=
  match s.nextQueue, Map.get? s.queues q with
  | some j, some k =>
    let r := s.packetBytes k
    if j == q && (badPacket r || field r 0 1 == type) then some (k, r) else none
  | _, _ => none

/-- The seed group of a LAUNCH packet becomes pending. -/
def State.seed (s : State) (q : Nat) (k : Queue) (r : List Byte) : State :=
  let p := packetOf k.read r
  let info := GridRec.seed (field r 4 2) (field r 6 1) p.operand p.completion k.prio p.limit p.events.isSome
  let h := s.newHandle
  let seq := s.nextId
  let s : State := { s with nextId := seq + 1 }
  let s : State := s.setGrid h { Grid.absent with
    ctx := k.ctx, info := info, packet := some (q, k.read), pendSeq := seq, ended := false
    counters := p.events.map (fun e => ⟨e.1, [0, 0, 0, 0]⟩) }
  s.updPacket (q, k.read) (fun p => { p with seed := some h })

/-- Whether a LAUNCH packet with counters finds a free counter set (R392). -/
def State.setFree (s : State) (r : List Byte) : Bool := (packetOf 0 r).events.isNone || s.setsUsed < 512

/-- PACKET_LAUNCH. -/
def execPacketLaunch (q : Nat) (s : State) : Out :=
  .next (match s.taking q 1 with
    | none => s
    | some (k, r) =>
      if badPacket r then (s.take q k none).stopQueue q k.read
      else if !(s.setFree r) then s
      else
        let p := packetOf k.read r
        let s : State := s.take q k (some p)
        match s.registerImage k.ctx p.va with
        | some s => s.seed q k r
        | none => (s.updPacket (q, k.read) (fun p => { p with status := some (8, 0) })).packetDone (q, k.read))

/-- PACKET_WAIT_SIGNAL: the packet starts to watch its signal. -/
def execPacketWaitSignal (q : Nat) (s : State) : Out :=
  .next (match s.taking q 2 with
    | none => s
    | some (k, r) => if badPacket r then (s.take q k none).stopQueue q k.read else s.take q k (some (packetOf k.read r)))

/-- The signal's value, as the I/O die reads it. -/
def State.signalAt (s : State) (x : Nat) (va : Dword) : Option Dword :=
  match s.place x 0 .none va 8 true false with
  | .inl p => some (BitVec.ofNat 64 (leNat ((List.range 8).map (fun i => s.hostByte (p + i)))))
  | .inr _ => none

/-- Whether a signal meets a condition (R406) (DEDUCED, log entry 68). -/
def signalMeets (cond : Nat) (v x : Dword) : Bool :=
  match cond with | 0 => v == x | 1 => v != x | 2 => v < x | _ => x ≤ v

/-- The packet of WAIT_SIGNAL that can complete, with the signal's value. -/
def State.waitReady (s : State) (q i : Nat) : Option (Packet × Dword) :=
  match Map.get? s.queues q, s.packetAt (q, i) with
  | some k, some p => if p.kind != 2 then none else match s.signalAt k.ctx p.va with
      | some v => if signalMeets p.cond v p.operand || v.getLsbD 63 then some (p, v) else none
      | none => none
  | _, _ => none

/-- WAIT_SIGNAL_MET: the packet completes; a failed signal stops the queue in ERROR. -/
def execWaitSignalMet (q i : Nat) (s : State) : Out :=
  .next (match s.waitReady q i with
    | some (_, v) =>
      let s : State := s.dropPacket (q, i)
      if v.getLsbD 63 then s.stopQueue q i else s
    | none => s)

/-- PACKET_SET_SIGNAL: the atomic is performed and host-visible when the packet completes. -/
def execPacketSetSignal (q : Nat) (s : State) : Out :=
  .next (match s.taking q 3 with
    | none => s
    | some (k, r) =>
      if badPacket r then (s.take q k none).stopQueue q k.read
      else
        let p := packetOf k.read r
        let s : State := s.take q k none
        match s.place k.ctx 0 .none p.va 8 true true with
        | .inl a =>
          let old : Dword := BitVec.ofNat 64 (leNat (s.bytes a 8))
          s.performSys k.ctx (cellsAt a (leBytes 8 (if p.cond = 0 then p.operand else old + p.operand).toNat))
        | .inr _ => s.report 1 k.ctx 0)

end Sys2Proof.Machine
end

