-- ==== Sys2Proof/Machine/Dispatch.lean ====
section
/-! DEFINITION. One arm per constructor of Instr: a direct call of its meaning, or a refusal by name. -/

namespace Sys2Proof.Machine

def exec (i : Instr) (s : State) : Host.Outcome State Fault Refusal :=
  match i with
  | .add d a b => Sys2Proof.Machine.execAdd d a b s
  | .sub d a b => Sys2Proof.Machine.execSub d a b s
  | .mul d a b => Sys2Proof.Machine.execMul d a b s
  | .mulhS d a b => Sys2Proof.Machine.execMulhS d a b s
  | .mulhZ d a b => Sys2Proof.Machine.execMulhZ d a b s
  | .mad d a b => Sys2Proof.Machine.execMad d a b s
  | .divS d a b => Sys2Proof.Machine.execDivS d a b s
  | .divZ d a b => Sys2Proof.Machine.execDivZ d a b s
  | .remS d a b => Sys2Proof.Machine.execRemS d a b s
  | .remZ d a b => Sys2Proof.Machine.execRemZ d a b s
  | .and d a b => Sys2Proof.Machine.execAnd d a b s
  | .or d a b => Sys2Proof.Machine.execOr d a b s
  | .xor d a b => Sys2Proof.Machine.execXor d a b s
  | .andn d a b => Sys2Proof.Machine.execAndn d a b s
  | .shl d a b => Sys2Proof.Machine.execShl d a b s
  | .shr d a b => Sys2Proof.Machine.execShr d a b s
  | .sra d a b => Sys2Proof.Machine.execSra d a b s
  | .rol d a b => Sys2Proof.Machine.execRol d a b s
  | .minS d a b => Sys2Proof.Machine.execMinS d a b s
  | .minZ d a b => Sys2Proof.Machine.execMinZ d a b s
  | .maxS d a b => Sys2Proof.Machine.execMaxS d a b s
  | .maxZ d a b => Sys2Proof.Machine.execMaxZ d a b s
  | .absS d a => Sys2Proof.Machine.execAbsS d a s
  | .popc d a => Sys2Proof.Machine.execPopc d a s
  | .clz d a => Sys2Proof.Machine.execClz d a s
  | .brev d a => Sys2Proof.Machine.execBrev d a s
  | .bfxZ d a b => Sys2Proof.Machine.execBfxZ d a b s
  | .bfxS d a b => Sys2Proof.Machine.execBfxS d a b s
  | .bfi d a b => Sys2Proof.Machine.execBfi d a b s
  | .addw d a b => Sys2Proof.Machine.execAddw d a b s
  | .subw d a b => Sys2Proof.Machine.execSubw d a b s
  | .mulwS d a b => Sys2Proof.Machine.execMulwS d a b s
  | .mulwZ d a b => Sys2Proof.Machine.execMulwZ d a b s
  | .shlw d a b => Sys2Proof.Machine.execShlw d a b s
  | .shrw d a b => Sys2Proof.Machine.execShrw d a b s
  | .sraw d a b => Sys2Proof.Machine.execSraw d a b s
  | .cmpS c p a b => Sys2Proof.Machine.execCmpS c p a b s
  | .cmpZ c p a b => Sys2Proof.Machine.execCmpZ c p a b s
  | .cmpwS c p a b => Sys2Proof.Machine.execCmpwS c p a b s
  | .cmpwZ c p a b => Sys2Proof.Machine.execCmpwZ c p a b s
  | .plog o p r q => Sys2Proof.Machine.execPlog o p r q s
  | .ptox d r => Sys2Proof.Machine.execPtox d r s
  | .xtop p a => Sys2Proof.Machine.execXtop p a s
  | .rng d a => Sys2Proof.Machine.execRng d a s
  | .rngj a b => Sys2Proof.Machine.execRngj a b s
  | .fadd d a b => Sys2Proof.Machine.execFadd d a b s
  | .fsub d a b => Sys2Proof.Machine.execFsub d a b s
  | .fmul d a b => Sys2Proof.Machine.execFmul d a b s
  | .ffma d a b => Sys2Proof.Machine.execFfma d a b s
  | .ffms d a b => Sys2Proof.Machine.execFfms d a b s
  | .fmin d a b => Sys2Proof.Machine.execFmin d a b s
  | .fmax d a b => Sys2Proof.Machine.execFmax d a b s
  | .fdiv d a b => Sys2Proof.Machine.execFdiv d a b s
  | .fsqrt d a => Sys2Proof.Machine.execFsqrt d a s
  | .frcp d a => Sys2Proof.Machine.execFrcp d a s
  | .frsq d a => Sys2Proof.Machine.execFrsq d a s
  | .fabs d a => Sys2Proof.Machine.execFabs d a s
  | .fneg d a => Sys2Proof.Machine.execFneg d a s
  | .fcmp c p a b => Sys2Proof.Machine.execFcmp c p a b s
  | .fclass d a => Sys2Proof.Machine.execFclass d a s
  | .fex2 d a => Sys2Proof.Machine.execFex2 d a s
  | .flg2 d a => Sys2Proof.Machine.execFlg2 d a s
  | .dadd d a b => Sys2Proof.Machine.execDadd d a b s
  | .dsub d a b => Sys2Proof.Machine.execDsub d a b s
  | .dmul d a b => Sys2Proof.Machine.execDmul d a b s
  | .dfma d a b => Sys2Proof.Machine.execDfma d a b s
  | .dfms d a b => Sys2Proof.Machine.execDfms d a b s
  | .dmin d a b => Sys2Proof.Machine.execDmin d a b s
  | .dmax d a b => Sys2Proof.Machine.execDmax d a b s
  | .ddiv d a b => Sys2Proof.Machine.execDdiv d a b s
  | .dsqrt d a => Sys2Proof.Machine.execDsqrt d a s
  | .dcmp c p a b => Sys2Proof.Machine.execDcmp c p a b s
  | .dabs d a => Sys2Proof.Machine.execDabs d a s
  | .dneg d a => Sys2Proof.Machine.execDneg d a s
  | .hadd2 d a b => Sys2Proof.Machine.execHadd2 d a b s
  | .hmul2 d a b => Sys2Proof.Machine.execHmul2 d a b s
  | .hfma2 d a b => Sys2Proof.Machine.execHfma2 d a b s
  | .badd2 d a b => Sys2Proof.Machine.execBadd2 d a b s
  | .bmul2 d a b => Sys2Proof.Machine.execBmul2 d a b s
  | .bfma2 d a b => Sys2Proof.Machine.execBfma2 d a b s
  | .cvt d a f t r sc => Sys2Proof.Machine.execCvt d a f t r sc s
  | .pkn d a b p f => Sys2Proof.Machine.execPkn d a b p f s
  | .upkn d a ix f => Sys2Proof.Machine.execUpkn d a ix f s
  | .dot4E4m3 d a b => Sys2Proof.Machine.execDot4E4m3 d a b s
  | .dot4E5m2 d a b => Sys2Proof.Machine.execDot4E5m2 d a b s
  | .dot8E2m1 d a b => Sys2Proof.Machine.execDot8E2m1 d a b s
  | .dot4S8 d a b => Sys2Proof.Machine.execDot4S8 d a b s
  | .dot8S4 d a b => Sys2Proof.Machine.execDot8S4 d a b s
  | .dot2Bf16 d a b => Sys2Proof.Machine.execDot2Bf16 d a b s
  | .dot2F16 d a b => Sys2Proof.Machine.execDot2F16 d a b s
  | .xaccf c a => Sys2Proof.Machine.execXaccf c a s
  | .xacc c a b => Sys2Proof.Machine.execXacc c a b s
  | .xfma c a b => Sys2Proof.Machine.execXfma c a b s
  | .xrnd d c => Sys2Proof.Machine.execXrnd d c s
  | .xclr c => Sys2Proof.Machine.execXclr c s
  | .addi d a ix => Sys2Proof.Machine.execAddi d a ix s
  | .andi d a ix => Sys2Proof.Machine.execAndi d a ix s
  | .ori d a ix => Sys2Proof.Machine.execOri d a ix s
  | .xori d a ix => Sys2Proof.Machine.execXori d a ix s
  | .shi d a k n => Sys2Proof.Machine.execShi d a k n s
  | .movlo d ix => Sys2Proof.Machine.execMovlo d ix s
  | .movhi d ix => Sys2Proof.Machine.execMovhi d ix s
  | .cmpi c p a ix => Sys2Proof.Machine.execCmpi c p a ix s
  | .sel d a b p n => Sys2Proof.Machine.execSel d a b p n s
  | .scale d a b q => Sys2Proof.Machine.execScale d a b q s
  | .srd d sc => Sys2Proof.Machine.execSrd d sc s
  | .srw a sc => Sys2Proof.Machine.execSrw a sc s
  | .ldca d ix => Sys2Proof.Machine.execLdca d ix s
  | .muli d a ix => Sys2Proof.Machine.execMuli d a ix s
  | .ld d a z o => Sys2Proof.Machine.execLd d a z o s
  | .st d a z o => Sys2Proof.Machine.execSt d a z o s
  | .ldo d a z o sc => Sys2Proof.Machine.execLdo d a z o sc s
  | .sto d a z sc => Sys2Proof.Machine.execSto d a z sc s
  | .atom d a z sc r p => Sys2Proof.Machine.execAtom d a z sc r p s
  | .atomn d a z sc r p => Sys2Proof.Machine.execAtomn d a z sc r p s
  | .prf a => Sys2Proof.Machine.execPrf a s
  | .prfl a => Sys2Proof.Machine.execPrfl a s
  | .inv => Sys2Proof.Machine.execInv s
  | .xld c a => Sys2Proof.Machine.execXld c a s
  | .xst c a => Sys2Proof.Machine.execXst c a s
  | .xaddm c a => Sys2Proof.Machine.execXaddm c a s
  | .bra o p => Sys2Proof.Machine.execBra o p s
  | .brc o p n c => Sys2Proof.Machine.execBrc o p n c s
  | .call o p => Sys2Proof.Machine.execCall o p s
  | .callp q e => Sys2Proof.Machine.execCallp q e s
  | .jmpr a p => Sys2Proof.Machine.execJmpr a p s
  | .callr a p => Sys2Proof.Machine.execCallr a p s
  | .retr a => Sys2Proof.Machine.execRetr a s
  | .jenrol j => Sys2Proof.Machine.execJenrol j s
  | .jwait j p => Sys2Proof.Machine.execJwait j p s
  | .jleave j => Sys2Proof.Machine.execJleave j s
  | .exit => Sys2Proof.Machine.execExit s
  | .trap c => Sys2Proof.Machine.execTrap c s
  | .rett => Sys2Proof.Machine.execRett s
  | .mov16 d sc => Sys2Proof.Machine.execMov16 d sc s
  | .add16 d sc => Sys2Proof.Machine.execAdd16 d sc s
  | .sub16 d sc => Sys2Proof.Machine.execSub16 d sc s
  | .mul16 d sc => Sys2Proof.Machine.execMul16 d sc s
  | .and16 d sc => Sys2Proof.Machine.execAnd16 d sc s
  | .or16 d sc => Sys2Proof.Machine.execOr16 d sc s
  | .xor16 d sc => Sys2Proof.Machine.execXor16 d sc s
  | .andn16 d sc => Sys2Proof.Machine.execAndn16 d sc s
  | .shl16 d sc => Sys2Proof.Machine.execShl16 d sc s
  | .shr16 d sc => Sys2Proof.Machine.execShr16 d sc s
  | .sra16 d sc => Sys2Proof.Machine.execSra16 d sc s
  | .fadd16 d sc => Sys2Proof.Machine.execFadd16 d sc s
  | .fsub16 d sc => Sys2Proof.Machine.execFsub16 d sc s
  | .fmul16 d sc => Sys2Proof.Machine.execFmul16 d sc s
  | .fmin16 d sc => Sys2Proof.Machine.execFmin16 d sc s
  | .fmax16 d sc => Sys2Proof.Machine.execFmax16 d sc s
  | .nop => Sys2Proof.Machine.execNop s
  | .guard n p => Sys2Proof.Machine.execGuard n p s
  | .waitk k => Sys2Proof.Machine.execWaitk k s
  | .movi d ix => Sys2Proof.Machine.execMovi d ix s
  | .addi16 d ix => Sys2Proof.Machine.execAddi16 d ix s
  | .jwait16 j p => Sys2Proof.Machine.execJwait16 j p s
  | .ret => Sys2Proof.Machine.execRet s
  | .exit16 => Sys2Proof.Machine.execExit16 s
  | .barb16 b => Sys2Proof.Machine.execBarb16 b s
  | .yield => Sys2Proof.Machine.execYield s
  | .movs16 d sc => Sys2Proof.Machine.execMovs16 d sc s
  | .movu d a => Sys2Proof.Machine.execMovu d a s
  | .movuf d a => Sys2Proof.Machine.execMovuf d a s
  | .reduAddS32 d a => Sys2Proof.Machine.execReduAddS32 d a s
  | .reduAddF32 d a => Sys2Proof.Machine.execReduAddF32 d a s
  | .reduMinS d a => Sys2Proof.Machine.execReduMinS d a s
  | .reduMaxS d a => Sys2Proof.Machine.execReduMaxS d a s
  | .reduMinZ d a => Sys2Proof.Machine.execReduMinZ d a s
  | .reduMaxZ d a => Sys2Proof.Machine.execReduMaxZ d a s
  | .reduAnd d a => Sys2Proof.Machine.execReduAnd d a s
  | .reduOr d a => Sys2Proof.Machine.execReduOr d a s
  | .reduXor d a => Sys2Proof.Machine.execReduXor d a s
  | .reduFmin d a => Sys2Proof.Machine.execReduFmin d a s
  | .reduFmax d a => Sys2Proof.Machine.execReduFmax d a s
  | .reduAmaxF32 d a => Sys2Proof.Machine.execReduAmaxF32 d a s
  | .movs d ix => Sys2Proof.Machine.execMovs d ix s
  | .qxch d a ix => Sys2Proof.Machine.execQxch d a ix s
  | .shfl d a b => Sys2Proof.Machine.execShfl d a b s
  | .shup d a ix => Sys2Proof.Machine.execShup d a ix s
  | .shdn d a ix => Sys2Proof.Machine.execShdn d a ix s
  | .shxr d a ix => Sys2Proof.Machine.execShxr d a ix s
  | .vote d r => Sys2Proof.Machine.execVote d r s
  | .vany q r => Sys2Proof.Machine.execVany q r s
  | .vall q r => Sys2Proof.Machine.execVall q r s
  | .scanAddS32 d a => Sys2Proof.Machine.execScanAddS32 d a s
  | .scanAddF32 d a => Sys2Proof.Machine.execScanAddF32 d a s
  | .elect p => Sys2Proof.Machine.execElect p s
  | .spawn a ix => Sys2Proof.Machine.execSpawn a ix s
  | .binfl => Sys2Proof.Machine.execBinfl s
  | .launch d a => Sys2Proof.Machine.execLaunch d a s
  | .join a => Sys2Proof.Machine.execJoin a s
  | .barb a ix => Sys2Proof.Machine.execBarb a ix s
  | .bara a ix => Sys2Proof.Machine.execBara a ix s
  | .barw a ix => Sys2Proof.Machine.execBarw a ix s
  | .barc a ix => Sys2Proof.Machine.execBarc a ix s
  | .barlast p a ix => Sys2Proof.Machine.execBarlast p a ix s
  | .cpy d a b k rec => Sys2Proof.Machine.execCpy d a b k rec s
  | .cpyd a k rec => Sys2Proof.Machine.execCpyd a k rec s
  | .cpyt d a b k rec => Sys2Proof.Machine.execCpyt d a b k rec s
  | .gathd a k rec => Sys2Proof.Machine.execGathd a k rec s
  | .tballoc d q => Sys2Proof.Machine.execTballoc d q s
  | .tbinit d a b => Sys2Proof.Machine.execTbinit d a b s
  | .tbarr a => Sys2Proof.Machine.execTbarr a s
  | .tbwait a q => Sys2Proof.Machine.execTbwait a q s
  | .tbref a => Sys2Proof.Machine.execTbref a s
  | .tbfree a => Sys2Proof.Machine.execTbfree a s
  | .pgpop d => Sys2Proof.Machine.execPgpop d s
  | .pgpost a => Sys2Proof.Machine.execPgpost a s
  | .pgcnt d => Sys2Proof.Machine.execPgcnt d s
  | .aestart a b => Sys2Proof.Machine.execAestart a b s
  | .aestop => Sys2Proof.Machine.execAestop s
  | .qmap d ix => Sys2Proof.Machine.execQmap d ix s
  | .qunmap d => Sys2Proof.Machine.execQunmap d s
  | .qtst p ix => Sys2Proof.Machine.execQtst p ix s
  | .qpush a ix => Sys2Proof.Machine.execQpush a ix s
  | .qclose ix => Sys2Proof.Machine.execQclose ix s
  | .qopen ix => Sys2Proof.Machine.execQopen ix s
  | .mmaE4m3 a b k rec => Sys2Proof.Machine.execMmaE4m3 a b k rec s
  | .mmaE5m2 a b k rec => Sys2Proof.Machine.execMmaE5m2 a b k rec s
  | .mmaE2m1 a b k rec => Sys2Proof.Machine.execMmaE2m1 a b k rec s
  | .mmaS8 a k rec => Sys2Proof.Machine.execMmaS8 a k rec s
  | .mmaS4 a k rec => Sys2Proof.Machine.execMmaS4 a k rec s
  | .mmaBf16 a k rec => Sys2Proof.Machine.execMmaBf16 a k rec s
  | .mmaF16 a k rec => Sys2Proof.Machine.execMmaF16 a k rec s
  | .mmaF64 a k rec => Sys2Proof.Machine.execMmaF64 a k rec s
  | .mmv a k rec => Sys2Proof.Machine.execMmv a k rec s
  | .drain a k rec => Sys2Proof.Machine.execDrain a k rec s
  | .maclr ix => Sys2Proof.Machine.execMaclr ix s
  | .mstat d ix => Sys2Proof.Machine.execMstat d ix s
  | .pload d a k rec => Sys2Proof.Machine.execPload d a k rec s
  | .pevict a => Sys2Proof.Machine.execPevict a s
  | .pres p a => Sys2Proof.Machine.execPres p a s
  | .pstat d a => Sys2Proof.Machine.execPstat d a s
  | .walk d a k => Sys2Proof.Machine.execWalk d a k s
  | .wstat d a => Sys2Proof.Machine.execWstat d a s
  | .wcancel a => Sys2Proof.Machine.execWcancel a s
  | .wqry p a b => Sys2Proof.Machine.execWqry p a b s
  | .lbdef d a => Sys2Proof.Machine.execLbdef d a s
  | .ldl d a b => Sys2Proof.Machine.execLdl d a b s
  | .stl d a b => Sys2Proof.Machine.execStl d a b s
  | .lbfree a => Sys2Proof.Machine.execLbfree a s
  | .fence k c sc => Sys2Proof.Machine.execFence k c sc s
  | .fencex x y sc => Sys2Proof.Machine.execFencex x y sc s
  | .tick d => Sys2Proof.Machine.execTick d s
  | .ticko d => Sys2Proof.Machine.execTicko d s
  | .pmcfg c a => Sys2Proof.Machine.execPmcfg c a s
  | .pmrd d c => Sys2Proof.Machine.execPmrd d c s
  | .tdrd d a => Sys2Proof.Machine.execTdrd d a s
  | .bankcfg p a b => Sys2Proof.Machine.execBankcfg p a b s
  | .taskbeg a b => Sys2Proof.Machine.execTaskbeg a b s
  | .taskend => Sys2Proof.Machine.execTaskend s
  | .taskrng a b => Sys2Proof.Machine.execTaskrng a b s
  | .taskq d => Sys2Proof.Machine.execTaskq d s
  | .migrate p a => Sys2Proof.Machine.execMigrate p a s
  | .brk => Sys2Proof.Machine.execBrk s
  | .rpbeg a => Sys2Proof.Machine.execRpbeg a s
  | .rpend p => Sys2Proof.Machine.execRpend p s
  | .wscap a => Sys2Proof.Machine.execWscap a s
  | .wsrst a => Sys2Proof.Machine.execWsrst a s
  | .setrpc a b => Sys2Proof.Machine.execSetrpc a b s
  | .texit a => Sys2Proof.Machine.execTexit a s
  | .tsvc => Sys2Proof.Machine.execTsvc s
  | .coll a k => Sys2Proof.Machine.execColl a k s
  | .signal a b => Sys2Proof.Machine.execSignal a b s
  | .translationCheckDone w => Sys2Proof.Machine.execTranslationCheckDone w s
  | .pageWalkReadArrives k => Sys2Proof.Machine.execPageWalkReadArrives k s
  | .loadValueArrives k => Sys2Proof.Machine.execLoadValueArrives k s
  | .l1Fill k => Sys2Proof.Machine.execL1Fill k s
  | .storeAckDiePoint k => Sys2Proof.Machine.execStoreAckDiePoint k s
  | .storeAckHome k => Sys2Proof.Machine.execStoreAckHome k s
  | .requestServedHomeSlice k => Sys2Proof.Machine.execRequestServedHomeSlice k s
  | .xaddmLinePerformed k => Sys2Proof.Machine.execXaddmLinePerformed k s
  | .scopeWriteTakesEffect k => Sys2Proof.Machine.execScopeWriteTakesEffect k s
  | .joinRelease w j => Sys2Proof.Machine.execJoinRelease w j s
  | .barrierComplete cluster o ix => Sys2Proof.Machine.execBarrierComplete cluster o ix s
  | .joinSatisfied w => Sys2Proof.Machine.execJoinSatisfied w s
  | .warpEntersActiveSet w => Sys2Proof.Machine.execWarpEntersActiveSet w s
  | .binTimerExpire c ix => Sys2Proof.Machine.execBinTimerExpire c ix s
  | .binFormWarp c ix => Sys2Proof.Machine.execBinFormWarp c ix s
  | .blockPlace g => Sys2Proof.Machine.execBlockPlace g s
  | .swapOut b => Sys2Proof.Machine.execSwapOut b s
  | .swapIn b => Sys2Proof.Machine.execSwapIn b s
  | .gridTimeLimit g => Sys2Proof.Machine.execGridTimeLimit g s
  | .bankModeChangeDone c => Sys2Proof.Machine.execBankModeChangeDone c s
  | .copyChunkAcked k => Sys2Proof.Machine.execCopyChunkAcked k s
  | .copyComplete k => Sys2Proof.Machine.execCopyComplete k s
  | .engineFaultServiceReply e ok => Sys2Proof.Machine.execEngineFaultServiceReply e ok s
  | .mmaKstepEnd c => Sys2Proof.Machine.execMmaKstepEnd c s
  | .drainStart c => Sys2Proof.Machine.execDrainStart c s
  | .drainComplete k => Sys2Proof.Machine.execDrainComplete k s
  | .maclrAtHead c => Sys2Proof.Machine.execMaclrAtHead c s
  | .parcelLoadComplete c => Sys2Proof.Machine.execParcelLoadComplete c s
  | .parcelBecomesAbsent c q => Sys2Proof.Machine.execParcelBecomesAbsent c q s
  | .walkStart c ix => Sys2Proof.Machine.execWalkStart c ix s
  | .walkRoundEnd c => Sys2Proof.Machine.execWalkRoundEnd c s
  | .commitOfficeReply w => Sys2Proof.Machine.execCommitOfficeReply w s
  | .taskCommitStart g => Sys2Proof.Machine.execTaskCommitStart g s
  | .taskCommitComplete g => Sys2Proof.Machine.execTaskCommitComplete g s
  | .tsvcReplyResume w m => Sys2Proof.Machine.execTsvcReplyResume w m s
  | .tsvcReplyEnd w m status detail => Sys2Proof.Machine.execTsvcReplyEnd w m status detail s
  | .comparatorBreakpoint w => Sys2Proof.Machine.execComparatorBreakpoint w s
  | .debugResume w => Sys2Proof.Machine.execDebugResume w s
  | .preemptRequest x n die => Sys2Proof.Machine.execPreemptRequest x n die s
  | .coreVacated c => Sys2Proof.Machine.execCoreVacated c s
  | .contextSwitch x => Sys2Proof.Machine.execContextSwitch x s
  | .uncorrectableError u => Sys2Proof.Machine.execUncorrectableError u s
  | .softErrorCorrected => Sys2Proof.Machine.execSoftErrorCorrected s
  | .sccRestart c entry g => Sys2Proof.Machine.execSccRestart c entry g s
  | .debugStopRequest t => Sys2Proof.Machine.execDebugStopRequest t s
  | .clockStop => Sys2Proof.Machine.execClockStop s
  | .debugStopRelease => Sys2Proof.Machine.execDebugStopRelease s
  | .watchpointRangeWrite c n base limit => Sys2Proof.Machine.execWatchpointRangeWrite c n base limit s
  | .traceRingConfig c ring => Sys2Proof.Machine.execTraceRingConfig c ring s
  | .replayArmed w => Sys2Proof.Machine.execReplayArmed w s
  | .replayEnforceTimeout x line => Sys2Proof.Machine.execReplayEnforceTimeout x line s
  | .capturePageSaved x page => Sys2Proof.Machine.execCapturePageSaved x page s
  | .queueSetup q base k x prio weight => Sys2Proof.Machine.execQueueSetup q base k x prio weight s
  | .queueReset q => Sys2Proof.Machine.execQueueReset q s
  | .doorbellWrite off size v => Sys2Proof.Machine.execDoorbellWrite off size v s
  | .packetLaunch q => Sys2Proof.Machine.execPacketLaunch q s
  | .packetWaitSignal q => Sys2Proof.Machine.execPacketWaitSignal q s
  | .waitSignalMet q ix => Sys2Proof.Machine.execWaitSignalMet q ix s
  | .packetSetSignal q => Sys2Proof.Machine.execPacketSetSignal q s
  | .tlbInvalidateRange x va len => Sys2Proof.Machine.execTlbInvalidateRange x va len s
  | .dieOnline d => Sys2Proof.Machine.execDieOnline d s
  | .dieOffline d => Sys2Proof.Machine.execDieOffline d s
  | .liveUpdate code cert => Sys2Proof.Machine.execLiveUpdate code cert s
  | .peerAccess a pa n v => Sys2Proof.Machine.execPeerAccess a pa n v s
  | .peerFailure ix => Sys2Proof.Machine.execPeerFailure ix s
  | .collectiveComplete k => Sys2Proof.Machine.execCollectiveComplete k s
  | .rdmaWrite qp x va bytes => Sys2Proof.Machine.execRdmaWrite qp x va bytes s
  | .rdmaRead qp x va n => Sys2Proof.Machine.execRdmaRead qp x va n s
  | .rdmaSend qp bytes => Sys2Proof.Machine.execRdmaSend qp bytes s
  | .rdmaReceive qp x va => Sys2Proof.Machine.execRdmaReceive qp x va s
  | .hostRead pa n => Sys2Proof.Machine.execHostRead pa n s
  | .hostWrite pa bytes => Sys2Proof.Machine.execHostWrite pa bytes s
  | .attestationRequest nonce x => Sys2Proof.Machine.execAttestationRequest nonce x s
  | .boot a b => Sys2Proof.Machine.execBoot a b s
  | .powerClockStep up => Sys2Proof.Machine.execPowerClockStep up s
  | .hostVisible k => Sys2Proof.Machine.execHostVisible k s
  | .restanteWaitTimeout w => Sys2Proof.Machine.execRestanteWaitTimeout w s
  | .relayBringUp own peers => Sys2Proof.Machine.execRelayBringUp own peers s
  | .queuePairSetup qp mtu => Sys2Proof.Machine.execQueuePairSetup qp mtu s
  | .rootTableSet x pa => Sys2Proof.Machine.execRootTableSet x pa s
  | .quotaSet x n pool => Sys2Proof.Machine.execQuotaSet x n pool s
  | .peerGroupSet x g rank ranks => Sys2Proof.Machine.execPeerGroupSet x g rank ranks s
  | .hostServiceRegister x => Sys2Proof.Machine.execHostServiceRegister x s
  | .contextKeyRegister x key => Sys2Proof.Machine.execContextKeyRegister x key s
  | .debugSessionAttach x => Sys2Proof.Machine.execDebugSessionAttach x s
  | .linkEnumeration ix base => Sys2Proof.Machine.execLinkEnumeration ix base s

end Sys2Proof.Machine
end

