-- ==== Sys2Proof/Decode.lean ====
section
/-! DEFINITION. Decoding and encoding (04_encoding.md, R64 to R85). A word's fields are its mixed-radix digits, lowest first:
`pack` lays out fields from bit 0 upward and `fld` takes one out. Each layout of R65 to R83 is one pair of functions, dec… and enc…;
the decoder picks the layout by length, class and function, checks the reserved fields for their fixed values, and then the
operand rules of WellFormed (R71, R85). Every other pattern is no instruction: decoding answers none, and the step traps ILLEGAL.
The word noncomputable marks definitions that Lean's runtime cannot hold (it numbers at most 245 constructors with fields); the
kernel evaluates them. -/

namespace Sys2Proof

/-- The number whose bits, from bit 0 upward, are the listed fields (width, value). -/
def pack : List (Nat × Nat) → Nat
  | [] => 0
  | (n, v) :: r => v % 2 ^ n + 2 ^ n * pack r

/-- The n bits of w from bit lo upward. -/
def fld (w lo n : Nat) : Nat := w / 2 ^ lo % 2 ^ n

/-- A field as a bit vector. -/
def bits (w lo n : Nat) : BitVec n := BitVec.ofNat n (fld w lo n)

/-- A one-bit field. -/
def flag (w lo : Nat) : Bool := fld w lo 1 == 1

/-! ### The layouts -/

def decDab (k : BitVec 6 → Src → Src → Instr) (w : Nat) : Option Instr :=
  some (k (bits w 10 6) ⟨bits w 16 6, flag w 28, flag w 30⟩ ⟨bits w 22 6, flag w 29, flag w 31⟩)

def encDab (low fn : Nat) (d : BitVec 6) (a : Src) (b : Src) : Nat :=
  pack [(4, low), (6, fn), (6, d.toNat), (6, a.r.toNat), (6, b.r.toNat), (1, a.s.toNat), (1, b.s.toNat), (1, a.e.toNat), (1, b.e.toNat)]

def decDa (k : BitVec 6 → Src → Instr) (w : Nat) : Option Instr :=
  if fld w 22 6 = 0 ∧ fld w 29 1 = 0 ∧ fld w 31 1 = 0 then some (k (bits w 10 6) ⟨bits w 16 6, flag w 28, flag w 30⟩) else none

def encDa (low fn : Nat) (d : BitVec 6) (a : Src) : Nat :=
  pack [(4, low), (6, fn), (6, d.toNat), (6, a.r.toNat), (6, 0), (1, a.s.toNat), (1, 0), (1, a.e.toNat), (1, 0)]

def decDpp (k : BitVec 6 → RegE → RegE → Instr) (w : Nat) : Option Instr :=
  if fld w 28 2 = 0 then some (k (bits w 10 6) ⟨bits w 16 6, flag w 30⟩ ⟨bits w 22 6, flag w 31⟩) else none

def encDpp (low fn : Nat) (d : BitVec 6) (a : RegE) (b : RegE) : Nat :=
  pack [(4, low), (6, fn), (6, d.toNat), (6, a.r.toNat), (6, b.r.toNat), (1, 0), (1, 0), (1, a.e.toNat), (1, b.e.toNat)]

def decDpb (k : BitVec 6 → RegE → Src → Instr) (w : Nat) : Option Instr :=
  if fld w 28 1 = 0 then some (k (bits w 10 6) ⟨bits w 16 6, flag w 30⟩ ⟨bits w 22 6, flag w 29, flag w 31⟩) else none

def encDpb (low fn : Nat) (d : BitVec 6) (a : RegE) (b : Src) : Nat :=
  pack [(4, low), (6, fn), (6, d.toNat), (6, a.r.toNat), (6, b.r.toNat), (1, 0), (1, b.s.toNat), (1, a.e.toNat), (1, b.e.toNat)]

def decCmp (k : BitVec 3 → BitVec 3 → Src → Src → Instr) (w : Nat) : Option Instr :=
  some (k (bits w 13 3) (bits w 10 3) ⟨bits w 16 6, flag w 28, flag w 30⟩ ⟨bits w 22 6, flag w 29, flag w 31⟩)

def encCmp (low fn : Nat) (c : BitVec 3) (p : BitVec 3) (a : Src) (b : Src) : Nat :=
  pack [(4, low), (6, fn), (3, p.toNat), (3, c.toNat), (6, a.r.toNat), (6, b.r.toNat), (1, a.s.toNat), (1, b.s.toNat), (1, a.e.toNat), (1, b.e.toNat)]

def decCmpw (k : BitVec 3 → BitVec 3 → RegE → RegE → Instr) (w : Nat) : Option Instr :=
  if fld w 28 2 = 0 then some (k (bits w 13 3) (bits w 10 3) ⟨bits w 16 6, flag w 30⟩ ⟨bits w 22 6, flag w 31⟩) else none

def encCmpw (low fn : Nat) (c : BitVec 3) (p : BitVec 3) (a : RegE) (b : RegE) : Nat :=
  pack [(4, low), (6, fn), (3, p.toNat), (3, c.toNat), (6, a.r.toNat), (6, b.r.toNat), (1, 0), (1, 0), (1, a.e.toNat), (1, b.e.toNat)]

def decPlog (k : BitVec 3 → BitVec 3 → BitVec 3 → BitVec 3 → Instr) (w : Nat) : Option Instr :=
  if fld w 19 3 = 0 ∧ fld w 25 7 = 0 then some (k (bits w 13 3) (bits w 10 3) (bits w 16 3) (bits w 22 3)) else none

def encPlog (low fn : Nat) (o : BitVec 3) (p : BitVec 3) (r : BitVec 3) (q : BitVec 3) : Nat :=
  pack [(4, low), (6, fn), (3, p.toNat), (3, o.toNat), (3, r.toNat), (3, 0), (3, q.toNat), (7, 0)]

def decPtox (k : BitVec 6 → BitVec 3 → Instr) (w : Nat) : Option Instr :=
  if fld w 19 13 = 0 then some (k (bits w 10 6) (bits w 16 3)) else none

def encPtox (low fn : Nat) (d : BitVec 6) (r : BitVec 3) : Nat :=
  pack [(4, low), (6, fn), (6, d.toNat), (3, r.toNat), (13, 0)]

def decXtop (k : BitVec 3 → Src → Instr) (w : Nat) : Option Instr :=
  if fld w 13 3 = 0 ∧ fld w 22 6 = 0 ∧ fld w 29 1 = 0 ∧ fld w 31 1 = 0 then some (k (bits w 10 3) ⟨bits w 16 6, flag w 28, flag w 30⟩) else none

def encXtop (low fn : Nat) (p : BitVec 3) (a : Src) : Nat :=
  pack [(4, low), (6, fn), (3, p.toNat), (3, 0), (6, a.r.toNat), (6, 0), (1, a.s.toNat), (1, 0), (1, a.e.toNat), (1, 0)]

def decDp (k : BitVec 6 → RegE → Instr) (w : Nat) : Option Instr :=
  if fld w 22 8 = 0 ∧ fld w 31 1 = 0 then some (k (bits w 10 6) ⟨bits w 16 6, flag w 30⟩) else none

def encDp (low fn : Nat) (d : BitVec 6) (a : RegE) : Nat :=
  pack [(4, low), (6, fn), (6, d.toNat), (6, a.r.toNat), (6, 0), (1, 0), (1, 0), (1, a.e.toNat), (1, 0)]

def decPp (k : RegE → RegE → Instr) (w : Nat) : Option Instr :=
  if fld w 10 6 = 0 ∧ fld w 28 2 = 0 then some (k ⟨bits w 16 6, flag w 30⟩ ⟨bits w 22 6, flag w 31⟩) else none

def encPp (low fn : Nat) (a : RegE) (b : RegE) : Nat :=
  pack [(4, low), (6, fn), (6, 0), (6, a.r.toNat), (6, b.r.toNat), (1, 0), (1, 0), (1, a.e.toNat), (1, b.e.toNat)]

def decCvt (k : BitVec 6 → RegE → BitVec 3 → BitVec 3 → BitVec 2 → Bool → Instr) (w : Nat) : Option Instr :=
  some (k (bits w 10 6) ⟨bits w 16 6, flag w 31⟩ (bits w 22 3) (bits w 25 3) (bits w 28 2) (flag w 30))

def encCvt (low fn : Nat) (d : BitVec 6) (a : RegE) (f : BitVec 3) (t : BitVec 3) (r : BitVec 2) (s : Bool) : Nat :=
  pack [(4, low), (6, fn), (6, d.toNat), (6, a.r.toNat), (3, f.toNat), (3, t.toNat), (2, r.toNat), (1, s.toNat), (1, a.e.toNat)]

def decPkn (k : BitVec 6 → BitVec 6 → BitVec 6 → BitVec 2 → BitVec 2 → Instr) (w : Nat) : Option Instr :=
  some (k (bits w 10 6) (bits w 16 6) (bits w 22 6) (bits w 28 2) (bits w 30 2))

def encPkn (low fn : Nat) (d : BitVec 6) (a : BitVec 6) (b : BitVec 6) (p : BitVec 2) (f : BitVec 2) : Nat :=
  pack [(4, low), (6, fn), (6, d.toNat), (6, a.toNat), (6, b.toNat), (2, p.toNat), (2, f.toNat)]

def decUpkn (k : BitVec 6 → BitVec 6 → BitVec 3 → BitVec 2 → Instr) (w : Nat) : Option Instr :=
  if fld w 25 5 = 0 then some (k (bits w 10 6) (bits w 16 6) (bits w 22 3) (bits w 30 2)) else none

def encUpkn (low fn : Nat) (d : BitVec 6) (a : BitVec 6) (i : BitVec 3) (f : BitVec 2) : Nat :=
  pack [(4, low), (6, fn), (6, d.toNat), (6, a.toNat), (3, i.toNat), (5, 0), (2, f.toNat)]

def decXaccf (k : Bool → BitVec 6 → Instr) (w : Nat) : Option Instr :=
  if fld w 11 5 = 0 ∧ fld w 22 10 = 0 then some (k (flag w 10) (bits w 16 6)) else none

def encXaccf (low fn : Nat) (c : Bool) (a : BitVec 6) : Nat :=
  pack [(4, low), (6, fn), (1, c.toNat), (5, 0), (6, a.toNat), (10, 0)]

def decXacc (k : Bool → BitVec 6 → BitVec 6 → Instr) (w : Nat) : Option Instr :=
  if fld w 11 5 = 0 ∧ fld w 28 4 = 0 then some (k (flag w 10) (bits w 16 6) (bits w 22 6)) else none

def encXacc (low fn : Nat) (c : Bool) (a : BitVec 6) (b : BitVec 6) : Nat :=
  pack [(4, low), (6, fn), (1, c.toNat), (5, 0), (6, a.toNat), (6, b.toNat), (4, 0)]

def decXrnd (k : BitVec 6 → Bool → Instr) (w : Nat) : Option Instr :=
  if fld w 17 15 = 0 then some (k (bits w 10 6) (flag w 16)) else none

def encXrnd (low fn : Nat) (d : BitVec 6) (c : Bool) : Nat :=
  pack [(4, low), (6, fn), (6, d.toNat), (1, c.toNat), (15, 0)]

def decXclr (k : Bool → Instr) (w : Nat) : Option Instr :=
  if fld w 11 21 = 0 then some (k (flag w 10)) else none

def encXclr (low fn : Nat) (c : Bool) : Nat :=
  pack [(4, low), (6, fn), (1, c.toNat), (21, 0)]

def decImm (k : BitVec 6 → RegE → BitVec 11 → Instr) (w : Nat) : Option Instr :=
  some (k (bits w 8 6) ⟨bits w 14 6, flag w 20⟩ (bits w 21 11))

def encImm (low fn : Nat) (d : BitVec 6) (a : RegE) (i : BitVec 11) : Nat :=
  pack [(4, low), (4, fn), (6, d.toNat), (6, a.r.toNat), (1, a.e.toNat), (11, i.toNat)]

def decShi (k : BitVec 6 → RegE → BitVec 2 → BitVec 5 → Instr) (w : Nat) : Option Instr :=
  if fld w 28 4 = 0 then some (k (bits w 8 6) ⟨bits w 14 6, flag w 20⟩ (bits w 21 2) (bits w 23 5)) else none

def encShi (low fn : Nat) (d : BitVec 6) (a : RegE) (k : BitVec 2) (n : BitVec 5) : Nat :=
  pack [(4, low), (4, fn), (6, d.toNat), (6, a.r.toNat), (1, a.e.toNat), (2, k.toNat), (5, n.toNat), (4, 0)]

def decImm16 (k : BitVec 6 → BitVec 16 → Instr) (w : Nat) : Option Instr :=
  if fld w 30 2 = 0 then some (k (bits w 8 6) (bits w 14 16)) else none

def encImm16 (low fn : Nat) (d : BitVec 6) (i : BitVec 16) : Nat :=
  pack [(4, low), (4, fn), (6, d.toNat), (16, i.toNat), (2, 0)]

def decCmpi (k : BitVec 3 → BitVec 3 → RegE → BitVec 11 → Instr) (w : Nat) : Option Instr :=
  some (k (bits w 11 3) (bits w 8 3) ⟨bits w 14 6, flag w 20⟩ (bits w 21 11))

def encCmpi (low fn : Nat) (c : BitVec 3) (p : BitVec 3) (a : RegE) (i : BitVec 11) : Nat :=
  pack [(4, low), (4, fn), (3, p.toNat), (3, c.toNat), (6, a.r.toNat), (1, a.e.toNat), (11, i.toNat)]

def decSel (k : BitVec 6 → RegE → RegE → BitVec 3 → Bool → Instr) (w : Nat) : Option Instr :=
  some (k (bits w 8 6) ⟨bits w 14 6, flag w 30⟩ ⟨bits w 20 6, flag w 31⟩ (bits w 26 3) (flag w 29))

def encSel (low fn : Nat) (d : BitVec 6) (a : RegE) (b : RegE) (p : BitVec 3) (n : Bool) : Nat :=
  pack [(4, low), (4, fn), (6, d.toNat), (6, a.r.toNat), (6, b.r.toNat), (3, p.toNat), (1, n.toNat), (1, a.e.toNat), (1, b.e.toNat)]

def decScale (k : BitVec 6 → RegE → RegE → BitVec 2 → Instr) (w : Nat) : Option Instr :=
  if fld w 30 2 = 0 then some (k (bits w 8 6) ⟨bits w 14 6, flag w 28⟩ ⟨bits w 20 6, flag w 29⟩ (bits w 26 2)) else none

def encScale (low fn : Nat) (d : BitVec 6) (a : RegE) (b : RegE) (q : BitVec 2) : Nat :=
  pack [(4, low), (4, fn), (6, d.toNat), (6, a.r.toNat), (6, b.r.toNat), (2, q.toNat), (1, a.e.toNat), (1, b.e.toNat), (2, 0)]

def decSrd (k : BitVec 6 → BitVec 8 → Instr) (w : Nat) : Option Instr :=
  if fld w 22 10 = 0 then some (k (bits w 8 6) (bits w 14 8)) else none

def encSrd (low fn : Nat) (d : BitVec 6) (s : BitVec 8) : Nat :=
  pack [(4, low), (4, fn), (6, d.toNat), (8, s.toNat), (10, 0)]

def decSrw (k : RegE → BitVec 8 → Instr) (w : Nat) : Option Instr :=
  if fld w 23 9 = 0 then some (k ⟨bits w 8 6, flag w 22⟩ (bits w 14 8)) else none

def encSrw (low fn : Nat) (a : RegE) (s : BitVec 8) : Nat :=
  pack [(4, low), (4, fn), (6, a.r.toNat), (8, s.toNat), (1, a.e.toNat), (9, 0)]

def decLdst (k : BitVec 6 → RegE → BitVec 3 → BitVec 9 → Instr) (w : Nat) : Option Instr :=
  some (k (bits w 7 6) ⟨bits w 13 6, flag w 19⟩ (bits w 20 3) (bits w 23 9))

def encLdst (low fn : Nat) (d : BitVec 6) (a : RegE) (z : BitVec 3) (o : BitVec 9) : Nat :=
  pack [(4, low), (3, fn), (6, d.toNat), (6, a.r.toNat), (1, a.e.toNat), (3, z.toNat), (9, o.toNat)]

def decLdo (k : BitVec 6 → RegE → BitVec 3 → BitVec 2 → BitVec 3 → Instr) (w : Nat) : Option Instr :=
  if fld w 28 4 = 0 then some (k (bits w 7 6) ⟨bits w 13 6, flag w 19⟩ (bits w 20 3) (bits w 23 2) (bits w 25 3)) else none

def encLdo (low fn : Nat) (d : BitVec 6) (a : RegE) (z : BitVec 3) (o : BitVec 2) (s : BitVec 3) : Nat :=
  pack [(4, low), (3, fn), (6, d.toNat), (6, a.r.toNat), (1, a.e.toNat), (3, z.toNat), (2, o.toNat), (3, s.toNat), (4, 0)]

def decSto (k : BitVec 6 → RegE → BitVec 3 → BitVec 3 → Instr) (w : Nat) : Option Instr :=
  if fld w 23 2 = 2 ∧ fld w 28 4 = 0 then some (k (bits w 7 6) ⟨bits w 13 6, flag w 19⟩ (bits w 20 3) (bits w 25 3)) else none

def encSto (low fn : Nat) (d : BitVec 6) (a : RegE) (z : BitVec 3) (s : BitVec 3) : Nat :=
  pack [(4, low), (3, fn), (6, d.toNat), (6, a.r.toNat), (1, a.e.toNat), (3, z.toNat), (2, 2), (3, s.toNat), (4, 0)]

def decAtom (k : BitVec 6 → RegE → BitVec 3 → BitVec 3 → Bool → BitVec 5 → Instr) (w : Nat) : Option Instr :=
  some (k (bits w 7 6) ⟨bits w 13 6, flag w 19⟩ (bits w 20 3) (bits w 23 3) (flag w 26) (bits w 27 5))

def encAtom (low fn : Nat) (d : BitVec 6) (a : RegE) (z : BitVec 3) (s : BitVec 3) (r : Bool) (p : BitVec 5) : Nat :=
  pack [(4, low), (3, fn), (6, d.toNat), (6, a.r.toNat), (1, a.e.toNat), (3, z.toNat), (3, s.toNat), (1, r.toNat), (5, p.toNat)]

def decPrf (k : RegE → Instr) (w : Nat) : Option Instr :=
  if fld w 7 6 = 0 ∧ fld w 20 3 = 0 ∧ fld w 28 4 = 0 then some (k ⟨bits w 13 6, flag w 19⟩) else none

def encPrf (low fn sub : Nat) (a : RegE) : Nat :=
  pack [(4, low), (3, fn), (6, 0), (6, a.r.toNat), (1, a.e.toNat), (3, 0), (5, sub), (4, 0)]

def decInv (k : Instr) (w : Nat) : Option Instr :=
  if fld w 7 16 = 0 ∧ fld w 28 4 = 0 then some (k) else none

def encInv (low fn sub : Nat) : Nat :=
  pack [(4, low), (3, fn), (6, 0), (6, 0), (1, 0), (3, 0), (5, sub), (4, 0)]

def decXimg (k : Bool → RegE → Instr) (w : Nat) : Option Instr :=
  if fld w 8 5 = 0 ∧ fld w 20 3 = 0 ∧ fld w 28 4 = 0 then some (k (flag w 7) ⟨bits w 13 6, flag w 19⟩) else none

def encXimg (low fn sub : Nat) (c : Bool) (a : RegE) : Nat :=
  pack [(4, low), (3, fn), (1, c.toNat), (5, 0), (6, a.r.toNat), (1, a.e.toNat), (3, 0), (5, sub), (4, 0)]

def decBra (k : BitVec 18 → BitVec 6 → Instr) (w : Nat) : Option Instr :=
  some (k (bits w 14 18) (bits w 8 6))

def encBra (low fn : Nat) (o : BitVec 18) (p : BitVec 6) : Nat :=
  pack [(4, low), (4, fn), (6, p.toNat), (18, o.toNat)]

def decBrc (k : BitVec 14 → BitVec 6 → Bool → BitVec 3 → Instr) (w : Nat) : Option Instr :=
  some (k (bits w 18 14) (bits w 12 6) (flag w 11) (bits w 8 3))

def encBrc (low fn : Nat) (o : BitVec 14) (p : BitVec 6) (n : Bool) (c : BitVec 3) : Nat :=
  pack [(4, low), (4, fn), (3, c.toNat), (1, n.toNat), (6, p.toNat), (14, o.toNat)]

def decCallp (k : BitVec 16 → BitVec 6 → Instr) (w : Nat) : Option Instr :=
  if fld w 30 2 = 0 then some (k (bits w 14 16) (bits w 8 6)) else none

def encCallp (low fn : Nat) (q : BitVec 16) (e : BitVec 6) : Nat :=
  pack [(4, low), (4, fn), (6, e.toNat), (16, q.toNat), (2, 0)]

def decJmpr (k : RegE → BitVec 6 → Instr) (w : Nat) : Option Instr :=
  if fld w 21 11 = 0 then some (k ⟨bits w 8 6, flag w 14⟩ (bits w 15 6)) else none

def encJmpr (low fn : Nat) (a : RegE) (p : BitVec 6) : Nat :=
  pack [(4, low), (4, fn), (6, a.r.toNat), (1, a.e.toNat), (6, p.toNat), (11, 0)]

def decRetr (k : BitVec 6 → Instr) (w : Nat) : Option Instr :=
  if fld w 14 18 = 0 then some (k (bits w 8 6)) else none

def encRetr (low fn : Nat) (a : BitVec 6) : Nat :=
  pack [(4, low), (4, fn), (6, a.toNat), (18, 0)]

def decJn (k : BitVec 3 → Instr) (w : Nat) : Option Instr :=
  if fld w 11 21 = 0 then some (k (bits w 8 3)) else none

def encJn (low fn : Nat) (j : BitVec 3) : Nat :=
  pack [(4, low), (4, fn), (3, j.toNat), (21, 0)]

def decJwait (k : BitVec 3 → BitVec 6 → Instr) (w : Nat) : Option Instr :=
  if fld w 17 15 = 0 then some (k (bits w 8 3) (bits w 11 6)) else none

def encJwait (low fn : Nat) (j : BitVec 3) (p : BitVec 6) : Nat :=
  pack [(4, low), (4, fn), (3, j.toNat), (6, p.toNat), (15, 0)]

def decNone4 (k : Instr) (w : Nat) : Option Instr :=
  if fld w 8 24 = 0 then some (k) else none

def encNone4 (low fn : Nat) : Nat :=
  pack [(4, low), (4, fn), (24, 0)]

def decTrap (k : BitVec 16 → Instr) (w : Nat) : Option Instr :=
  if fld w 24 8 = 0 then some (k (bits w 8 16)) else none

def encTrap (low fn : Nat) (c : BitVec 16) : Nat :=
  pack [(4, low), (4, fn), (16, c.toNat), (8, 0)]

def decTwo (k : BitVec 5 → BitVec 5 → Instr) (w : Nat) : Option Instr :=
  some (k (bits w 6 5) (bits w 11 5))

def encTwo (low fn : Nat) (d : BitVec 5) (s : BitVec 5) : Nat :=
  pack [(2, low), (4, fn), (5, d.toNat), (5, s.toNat)]

def decNone16 (k : Instr) (w : Nat) : Option Instr :=
  if fld w 6 10 = 0 then some (k) else none

def encNone16 (low fn : Nat) : Nat :=
  pack [(2, low), (4, fn), (10, 0)]

def decGuard (k : Bool → BitVec 3 → Instr) (w : Nat) : Option Instr :=
  if fld w 10 6 = 0 then some (k (flag w 9) (bits w 6 3)) else none

def encGuard (low fn : Nat) (n : Bool) (p : BitVec 3) : Nat :=
  pack [(2, low), (4, fn), (3, p.toNat), (1, n.toNat), (6, 0)]

def decWaitk (k : BitVec 8 → Instr) (w : Nat) : Option Instr :=
  if fld w 14 2 = 0 then some (k (bits w 6 8)) else none

def encWaitk (low fn : Nat) (k : BitVec 8) : Nat :=
  pack [(2, low), (4, fn), (8, k.toNat), (2, 0)]

def decImm5 (k : BitVec 5 → BitVec 5 → Instr) (w : Nat) : Option Instr :=
  some (k (bits w 6 5) (bits w 11 5))

def encImm5 (low fn : Nat) (d : BitVec 5) (i : BitVec 5) : Nat :=
  pack [(2, low), (4, fn), (5, d.toNat), (5, i.toNat)]

def decJwait16 (k : BitVec 3 → BitVec 6 → Instr) (w : Nat) : Option Instr :=
  if fld w 15 1 = 0 then some (k (bits w 6 3) (bits w 9 6)) else none

def encJwait16 (low fn : Nat) (j : BitVec 3) (p : BitVec 6) : Nat :=
  pack [(2, low), (4, fn), (3, j.toNat), (6, p.toNat), (1, 0)]

def decBarb16 (k : BitVec 4 → Instr) (w : Nat) : Option Instr :=
  if fld w 10 6 = 0 then some (k (bits w 6 4)) else none

def encBarb16 (low fn : Nat) (b : BitVec 4) : Nat :=
  pack [(2, low), (4, fn), (4, b.toNat), (6, 0)]

def decMovs16 (k : BitVec 4 → BitVec 6 → Instr) (w : Nat) : Option Instr :=
  some (k (bits w 6 4) (bits w 10 6))

def encMovs16 (low fn : Nat) (d : BitVec 4) (s : BitVec 6) : Nat :=
  pack [(2, low), (4, fn), (4, d.toNat), (6, s.toNat)]

def decDs (k : BitVec 6 → BitVec 6 → Instr) (w : Nat) : Option Instr :=
  if fld w 22 10 = 0 then some (k (bits w 10 6) (bits w 16 6)) else none

def encDs (low fn : Nat) (d : BitVec 6) (i : BitVec 6) : Nat :=
  pack [(4, low), (6, fn), (6, d.toNat), (6, i.toNat), (10, 0)]

def decDai (k : BitVec 6 → Src → BitVec 6 → Instr) (w : Nat) : Option Instr :=
  if fld w 29 1 = 0 ∧ fld w 31 1 = 0 then some (k (bits w 10 6) ⟨bits w 16 6, flag w 28, flag w 30⟩ (bits w 22 6)) else none

def encDai (low fn : Nat) (d : BitVec 6) (a : Src) (i : BitVec 6) : Nat :=
  pack [(4, low), (6, fn), (6, d.toNat), (6, a.r.toNat), (6, i.toNat), (1, a.s.toNat), (1, 0), (1, a.e.toNat), (1, 0)]

def decDar (k : BitVec 6 → Src → RegE → Instr) (w : Nat) : Option Instr :=
  if fld w 29 1 = 0 then some (k (bits w 10 6) ⟨bits w 16 6, flag w 28, flag w 30⟩ ⟨bits w 22 6, flag w 31⟩) else none

def encDar (low fn : Nat) (d : BitVec 6) (a : Src) (b : RegE) : Nat :=
  pack [(4, low), (6, fn), (6, d.toNat), (6, a.r.toNat), (6, b.r.toNat), (1, a.s.toNat), (1, 0), (1, a.e.toNat), (1, b.e.toNat)]

def decVany (k : BitVec 3 → BitVec 3 → Instr) (w : Nat) : Option Instr :=
  if fld w 13 3 = 0 ∧ fld w 19 13 = 0 then some (k (bits w 10 3) (bits w 16 3)) else none

def encVany (low fn : Nat) (q : BitVec 3) (r : BitVec 3) : Nat :=
  pack [(4, low), (6, fn), (3, q.toNat), (3, 0), (3, r.toNat), (13, 0)]

def decPd (k : BitVec 3 → Instr) (w : Nat) : Option Instr :=
  if fld w 13 19 = 0 then some (k (bits w 10 3)) else none

def encPd (low fn : Nat) (p : BitVec 3) : Nat :=
  pack [(4, low), (6, fn), (3, p.toNat), (19, 0)]

def decPi (k : RegE → BitVec 6 → Instr) (w : Nat) : Option Instr :=
  if fld w 10 6 = 0 ∧ fld w 28 2 = 0 ∧ fld w 31 1 = 0 then some (k ⟨bits w 16 6, flag w 30⟩ (bits w 22 6)) else none

def encPi (low fn : Nat) (a : RegE) (i : BitVec 6) : Nat :=
  pack [(4, low), (6, fn), (6, 0), (6, a.r.toNat), (6, i.toNat), (1, 0), (1, 0), (1, a.e.toNat), (1, 0)]

def decNone (k : Instr) (w : Nat) : Option Instr :=
  if fld w 10 22 = 0 then some (k) else none

def encNone (low fn : Nat) : Nat :=
  pack [(4, low), (6, fn), (22, 0)]

def decA (k : Src → Instr) (w : Nat) : Option Instr :=
  if fld w 10 6 = 0 ∧ fld w 22 6 = 0 ∧ fld w 29 1 = 0 ∧ fld w 31 1 = 0 then some (k ⟨bits w 16 6, flag w 28, flag w 30⟩) else none

def encA (low fn : Nat) (a : Src) : Nat :=
  pack [(4, low), (6, fn), (6, 0), (6, a.r.toNat), (6, 0), (1, a.s.toNat), (1, 0), (1, a.e.toNat), (1, 0)]

def decAi (k : Src → BitVec 6 → Instr) (w : Nat) : Option Instr :=
  if fld w 10 6 = 0 ∧ fld w 29 1 = 0 ∧ fld w 31 1 = 0 then some (k ⟨bits w 16 6, flag w 28, flag w 30⟩ (bits w 22 6)) else none

def encAi (low fn : Nat) (a : Src) (i : BitVec 6) : Nat :=
  pack [(4, low), (6, fn), (6, 0), (6, a.r.toNat), (6, i.toNat), (1, a.s.toNat), (1, 0), (1, a.e.toNat), (1, 0)]

def decPai (k : BitVec 3 → Src → BitVec 6 → Instr) (w : Nat) : Option Instr :=
  if fld w 13 3 = 0 ∧ fld w 29 1 = 0 ∧ fld w 31 1 = 0 then some (k (bits w 10 3) ⟨bits w 16 6, flag w 28, flag w 30⟩ (bits w 22 6)) else none

def encPai (low fn : Nat) (p : BitVec 3) (a : Src) (i : BitVec 6) : Nat :=
  pack [(4, low), (6, fn), (3, p.toNat), (3, 0), (6, a.r.toNat), (6, i.toNat), (1, a.s.toNat), (1, 0), (1, a.e.toNat), (1, 0)]

def decTdab (k : BitVec 6 → BitVec 6 → BitVec 6 → BitVec 3 → Bool → Instr) (w : Nat) : Option Instr :=
  some (k (bits w 10 6) (bits w 16 6) (bits w 22 6) (bits w 28 3) (flag w 31))

def encTdab (low fn : Nat) (d : BitVec 6) (a : BitVec 6) (b : BitVec 6) (k : BitVec 3) (rec : Bool) : Nat :=
  pack [(4, low), (6, fn), (6, d.toNat), (6, a.toNat), (6, b.toNat), (3, k.toNat), (1, rec.toNat)]

def decTa (k : BitVec 6 → BitVec 3 → Bool → Instr) (w : Nat) : Option Instr :=
  if fld w 10 6 = 0 ∧ fld w 22 6 = 0 then some (k (bits w 16 6) (bits w 28 3) (flag w 31)) else none

def encTa (low fn : Nat) (a : BitVec 6) (k : BitVec 3) (rec : Bool) : Nat :=
  pack [(4, low), (6, fn), (6, 0), (6, a.toNat), (6, 0), (3, k.toNat), (1, rec.toNat)]

def decDq (k : BitVec 6 → BitVec 3 → Instr) (w : Nat) : Option Instr :=
  if fld w 16 6 = 0 ∧ fld w 25 7 = 0 then some (k (bits w 10 6) (bits w 22 3)) else none

def encDq (low fn : Nat) (d : BitVec 6) (q : BitVec 3) : Nat :=
  pack [(4, low), (6, fn), (6, d.toNat), (6, 0), (3, q.toNat), (7, 0)]

def decP (k : RegE → Instr) (w : Nat) : Option Instr :=
  if fld w 10 6 = 0 ∧ fld w 22 8 = 0 ∧ fld w 31 1 = 0 then some (k ⟨bits w 16 6, flag w 30⟩) else none

def encP (low fn : Nat) (a : RegE) : Nat :=
  pack [(4, low), (6, fn), (6, 0), (6, a.r.toNat), (6, 0), (1, 0), (1, 0), (1, a.e.toNat), (1, 0)]

def decPq (k : RegE → Bool → Instr) (w : Nat) : Option Instr :=
  if fld w 10 6 = 0 ∧ fld w 23 7 = 0 ∧ fld w 31 1 = 0 then some (k ⟨bits w 16 6, flag w 30⟩ (flag w 22)) else none

def encPq (low fn : Nat) (a : RegE) (q : Bool) : Nat :=
  pack [(4, low), (6, fn), (6, 0), (6, a.r.toNat), (1, q.toNat), (5, 0), (1, 0), (1, 0), (1, a.e.toNat), (1, 0)]

def decD (k : BitVec 6 → Instr) (w : Nat) : Option Instr :=
  if fld w 16 16 = 0 then some (k (bits w 10 6)) else none

def encD (low fn : Nat) (d : BitVec 6) : Nat :=
  pack [(4, low), (6, fn), (6, d.toNat), (16, 0)]

def decDi (k : BitVec 6 → BitVec 6 → Instr) (w : Nat) : Option Instr :=
  if fld w 16 6 = 0 ∧ fld w 28 4 = 0 then some (k (bits w 10 6) (bits w 22 6)) else none

def encDi (low fn : Nat) (d : BitVec 6) (i : BitVec 6) : Nat :=
  pack [(4, low), (6, fn), (6, d.toNat), (6, 0), (6, i.toNat), (4, 0)]

def decPdi (k : BitVec 3 → BitVec 6 → Instr) (w : Nat) : Option Instr :=
  if fld w 13 9 = 0 ∧ fld w 28 4 = 0 then some (k (bits w 10 3) (bits w 22 6)) else none

def encPdi (low fn : Nat) (p : BitVec 3) (i : BitVec 6) : Nat :=
  pack [(4, low), (6, fn), (3, p.toNat), (3, 0), (6, 0), (6, i.toNat), (4, 0)]

def decI (k : BitVec 6 → Instr) (w : Nat) : Option Instr :=
  if fld w 10 12 = 0 ∧ fld w 28 4 = 0 then some (k (bits w 22 6)) else none

def encI (low fn : Nat) (i : BitVec 6) : Nat :=
  pack [(4, low), (6, fn), (6, 0), (6, 0), (6, i.toNat), (4, 0)]

def decTab (k : BitVec 6 → BitVec 6 → BitVec 3 → Bool → Instr) (w : Nat) : Option Instr :=
  if fld w 10 6 = 0 then some (k (bits w 16 6) (bits w 22 6) (bits w 28 3) (flag w 31)) else none

def encTab (low fn : Nat) (a : BitVec 6) (b : BitVec 6) (k : BitVec 3) (rec : Bool) : Nat :=
  pack [(4, low), (6, fn), (6, 0), (6, a.toNat), (6, b.toNat), (3, k.toNat), (1, rec.toNat)]

def decTda (k : BitVec 6 → BitVec 6 → BitVec 3 → Bool → Instr) (w : Nat) : Option Instr :=
  if fld w 22 6 = 0 then some (k (bits w 10 6) (bits w 16 6) (bits w 28 3) (flag w 31)) else none

def encTda (low fn : Nat) (d : BitVec 6) (a : BitVec 6) (k : BitVec 3) (rec : Bool) : Nat :=
  pack [(4, low), (6, fn), (6, d.toNat), (6, a.toNat), (6, 0), (3, k.toNat), (1, rec.toNat)]

def decPdp (k : BitVec 3 → RegE → Instr) (w : Nat) : Option Instr :=
  if fld w 13 3 = 0 ∧ fld w 22 8 = 0 ∧ fld w 31 1 = 0 then some (k (bits w 10 3) ⟨bits w 16 6, flag w 30⟩) else none

def encPdp (low fn : Nat) (p : BitVec 3) (a : RegE) : Nat :=
  pack [(4, low), (6, fn), (3, p.toNat), (3, 0), (6, a.r.toNat), (6, 0), (2, 0), (1, a.e.toNat), (1, 0)]

def decTdan (k : BitVec 6 → BitVec 6 → BitVec 3 → Instr) (w : Nat) : Option Instr :=
  if fld w 22 6 = 0 ∧ fld w 31 1 = 0 then some (k (bits w 10 6) (bits w 16 6) (bits w 28 3)) else none

def encTdan (low fn : Nat) (d : BitVec 6) (a : BitVec 6) (k : BitVec 3) : Nat :=
  pack [(4, low), (6, fn), (6, d.toNat), (6, a.toNat), (6, 0), (3, k.toNat), (1, 0)]

def decPdpp (k : BitVec 3 → RegE → RegE → Instr) (w : Nat) : Option Instr :=
  if fld w 13 3 = 0 ∧ fld w 28 2 = 0 then some (k (bits w 10 3) ⟨bits w 16 6, flag w 30⟩ ⟨bits w 22 6, flag w 31⟩) else none

def encPdpp (low fn : Nat) (p : BitVec 3) (a : RegE) (b : RegE) : Nat :=
  pack [(4, low), (6, fn), (3, p.toNat), (3, 0), (6, a.r.toNat), (6, b.r.toNat), (2, 0), (1, a.e.toNat), (1, b.e.toNat)]

def decFence (k : BitVec 2 → Bool → BitVec 3 → Instr) (w : Nat) : Option Instr :=
  if fld w 16 16 = 0 then some (k (bits w 14 2) (flag w 13) (bits w 10 3)) else none

def encFence (low fn : Nat) (k : BitVec 2) (c : Bool) (s : BitVec 3) : Nat :=
  pack [(4, low), (6, fn), (3, s.toNat), (1, c.toNat), (2, k.toNat), (16, 0)]

def decFencex (k : BitVec 4 → BitVec 4 → BitVec 3 → Instr) (w : Nat) : Option Instr :=
  if fld w 21 11 = 0 then some (k (bits w 10 4) (bits w 14 4) (bits w 18 3)) else none

def encFencex (low fn : Nat) (x : BitVec 4) (y : BitVec 4) (s : BitVec 3) : Nat :=
  pack [(4, low), (6, fn), (4, x.toNat), (4, y.toNat), (3, s.toNat), (11, 0)]

def decPmcfg (k : BitVec 2 → RegE → Instr) (w : Nat) : Option Instr :=
  if fld w 12 4 = 0 ∧ fld w 22 8 = 0 ∧ fld w 31 1 = 0 then some (k (bits w 10 2) ⟨bits w 16 6, flag w 30⟩) else none

def encPmcfg (low fn : Nat) (c : BitVec 2) (a : RegE) : Nat :=
  pack [(4, low), (6, fn), (2, c.toNat), (4, 0), (6, a.r.toNat), (8, 0), (1, a.e.toNat), (1, 0)]

def decPmrd (k : BitVec 6 → BitVec 2 → Instr) (w : Nat) : Option Instr :=
  if fld w 18 14 = 0 then some (k (bits w 10 6) (bits w 16 2)) else none

def encPmrd (low fn : Nat) (d : BitVec 6) (c : BitVec 2) : Nat :=
  pack [(4, low), (6, fn), (6, d.toNat), (2, c.toNat), (14, 0)]

def decPdab (k : BitVec 3 → Src → Src → Instr) (w : Nat) : Option Instr :=
  if fld w 13 3 = 0 then some (k (bits w 10 3) ⟨bits w 16 6, flag w 28, flag w 30⟩ ⟨bits w 22 6, flag w 29, flag w 31⟩) else none

def encPdab (low fn : Nat) (p : BitVec 3) (a : Src) (b : Src) : Nat :=
  pack [(4, low), (6, fn), (3, p.toNat), (3, 0), (6, a.r.toNat), (6, b.r.toNat), (1, a.s.toNat), (1, b.s.toNat), (1, a.e.toNat), (1, b.e.toNat)]

def decPb (k : RegE → Src → Instr) (w : Nat) : Option Instr :=
  if fld w 10 6 = 0 ∧ fld w 28 1 = 0 then some (k ⟨bits w 16 6, flag w 30⟩ ⟨bits w 22 6, flag w 29, flag w 31⟩) else none

def encPb (low fn : Nat) (a : RegE) (b : Src) : Nat :=
  pack [(4, low), (6, fn), (6, 0), (6, a.r.toNat), (6, b.r.toNat), (1, 0), (1, b.s.toNat), (1, a.e.toNat), (1, b.e.toNat)]

def decAb (k : Src → Src → Instr) (w : Nat) : Option Instr :=
  if fld w 10 6 = 0 then some (k ⟨bits w 16 6, flag w 28, flag w 30⟩ ⟨bits w 22 6, flag w 29, flag w 31⟩) else none

def encAb (low fn : Nat) (a : Src) (b : Src) : Nat :=
  pack [(4, low), (6, fn), (6, 0), (6, a.r.toNat), (6, b.r.toNat), (1, a.s.toNat), (1, b.s.toNat), (1, a.e.toNat), (1, b.e.toNat)]

def decTan (k : BitVec 6 → BitVec 3 → Instr) (w : Nat) : Option Instr :=
  if fld w 10 6 = 0 ∧ fld w 22 6 = 0 ∧ fld w 31 1 = 0 then some (k (bits w 16 6) (bits w 28 3)) else none

def encTan (low fn : Nat) (a : BitVec 6) (k : BitVec 3) : Nat :=
  pack [(4, low), (6, fn), (6, 0), (6, a.toNat), (6, 0), (3, k.toNat), (1, 0)]

/-! ### The opcode map -/

/-- The 16-bit two-address forms (R65), by function. -/
def decodeTwo (w : Nat) : Option Instr :=
  match fld w 2 4 with
  | 0 => decTwo .mov16 w
  | 1 => decTwo .add16 w
  | 2 => decTwo .sub16 w
  | 3 => decTwo .mul16 w
  | 4 => decTwo .and16 w
  | 5 => decTwo .or16 w
  | 6 => decTwo .xor16 w
  | 7 => decTwo .andn16 w
  | 8 => decTwo .shl16 w
  | 9 => decTwo .shr16 w
  | 10 => decTwo .sra16 w
  | 11 => decTwo .fadd16 w
  | 12 => decTwo .fsub16 w
  | 13 => decTwo .fmul16 w
  | 14 => decTwo .fmin16 w
  | 15 => decTwo .fmax16 w
  | _ => none

/-- The 16-bit miscellaneous forms (R66), by function. -/
def decodeMisc (w : Nat) : Option Instr :=
  match fld w 2 4 with
  | 0 => decNone16 .nop w
  | 1 => decGuard .guard w
  | 2 => decWaitk .waitk w
  | 3 => decImm5 .movi w
  | 4 => decImm5 .addi16 w
  | 5 => decJwait16 .jwait16 w
  | 6 => decNone16 .ret w
  | 7 => decNone16 .exit16 w
  | 8 => decBarb16 .barb16 w
  | 9 => decNone16 .yield w
  | 10 => decMovs16 .movs16 w
  | _ => none

/-- The class 0 (R73), by function. -/
def decodeInt (w : Nat) : Option Instr :=
  match fld w 4 6 with
  | 0 => decDab .add w
  | 1 => decDab .sub w
  | 2 => decDab .mul w
  | 3 => decDab .mulhS w
  | 4 => decDab .mulhZ w
  | 5 => decDab .mad w
  | 6 => decDab .divS w
  | 7 => decDab .divZ w
  | 8 => decDab .remS w
  | 9 => decDab .remZ w
  | 10 => decDab .and w
  | 11 => decDab .or w
  | 12 => decDab .xor w
  | 13 => decDab .andn w
  | 14 => decDab .shl w
  | 15 => decDab .shr w
  | 16 => decDab .sra w
  | 17 => decDab .rol w
  | 18 => decDab .minS w
  | 19 => decDab .minZ w
  | 20 => decDab .maxS w
  | 21 => decDab .maxZ w
  | 22 => decDa .absS w
  | 23 => decDa .popc w
  | 24 => decDa .clz w
  | 25 => decDa .brev w
  | 26 => decDab .bfxZ w
  | 27 => decDab .bfxS w
  | 28 => decDab .bfi w
  | 29 => decDpp .addw w
  | 30 => decDpp .subw w
  | 31 => decDab .mulwS w
  | 32 => decDab .mulwZ w
  | 33 => decDpb .shlw w
  | 34 => decDpb .shrw w
  | 35 => decDpb .sraw w
  | 48 => decCmp .cmpS w
  | 49 => decCmp .cmpZ w
  | 50 => decCmpw .cmpwS w
  | 51 => decCmpw .cmpwZ w
  | 52 => decPlog .plog w
  | 53 => decPtox .ptox w
  | 54 => decXtop .xtop w
  | 60 => decDp .rng w
  | 61 => decPp .rngj w
  | _ => none

/-- The class 1 (R75), by function. -/
def decodeFlt (w : Nat) : Option Instr :=
  match fld w 4 6 with
  | 0 => decDab .fadd w
  | 1 => decDab .fsub w
  | 2 => decDab .fmul w
  | 3 => decDab .ffma w
  | 4 => decDab .ffms w
  | 5 => decDab .fmin w
  | 6 => decDab .fmax w
  | 7 => decDab .fdiv w
  | 8 => decDa .fsqrt w
  | 9 => decDa .frcp w
  | 10 => decDa .frsq w
  | 11 => decDa .fabs w
  | 12 => decDa .fneg w
  | 13 => decCmp .fcmp w
  | 14 => decDa .fclass w
  | 15 => decDa .fex2 w
  | 16 => decDa .flg2 w
  | 20 => decDpp .dadd w
  | 21 => decDpp .dsub w
  | 22 => decDpp .dmul w
  | 23 => decDpp .dfma w
  | 24 => decDpp .dfms w
  | 25 => decDpp .dmin w
  | 26 => decDpp .dmax w
  | 27 => decDpp .ddiv w
  | 28 => decDp .dsqrt w
  | 29 => decCmpw .dcmp w
  | 30 => decDp .dabs w
  | 31 => decDp .dneg w
  | 32 => decDab .hadd2 w
  | 33 => decDab .hmul2 w
  | 34 => decDab .hfma2 w
  | 35 => decDab .badd2 w
  | 36 => decDab .bmul2 w
  | 37 => decDab .bfma2 w
  | 38 => decCvt .cvt w
  | 39 => decPkn .pkn w
  | 40 => decUpkn .upkn w
  | 48 => decDab .dot4E4m3 w
  | 49 => decDab .dot4E5m2 w
  | 50 => decDab .dot8E2m1 w
  | 51 => decDab .dot4S8 w
  | 52 => decDab .dot8S4 w
  | 53 => decDab .dot2Bf16 w
  | 54 => decDab .dot2F16 w
  | 58 => decXaccf .xaccf w
  | 59 => decXacc .xacc w
  | 60 => decXacc .xfma w
  | 61 => decXrnd .xrnd w
  | 62 => decXclr .xclr w
  | _ => none

/-- The class 2 (R77), by function. -/
def decodeImm (w : Nat) : Option Instr :=
  match fld w 4 4 with
  | 0 => decImm .addi w
  | 1 => decImm .andi w
  | 2 => decImm .ori w
  | 3 => decImm .xori w
  | 4 => decShi .shi w
  | 5 => decImm16 .movlo w
  | 6 => decImm16 .movhi w
  | 7 => decCmpi .cmpi w
  | 8 => decSel .sel w
  | 9 => decScale .scale w
  | 10 => decSrd .srd w
  | 11 => decSrw .srw w
  | 12 => decImm16 .ldca w
  | 13 => decImm .muli w
  | _ => none

/-- The class 3 (R79), by function. -/
def decodeMem (w : Nat) : Option Instr :=
  match fld w 4 3 with
  | 0 => decLdst .ld w
  | 1 => decLdst .st w
  | 2 => decLdo .ldo w
  | 3 => decSto .sto w
  | 4 => decAtom .atom w
  | 5 => decAtom .atomn w
  | 6 =>
    match fld w 23 5 with
    | 0 => decPrf .prf w
    | 1 => decPrf .prfl w
    | 2 => decInv .inv w
    | 3 => decXimg .xld w
    | 4 => decXimg .xst w
    | 5 => decXimg .xaddm w
    | _ => none
  | _ => none

/-- The class 4 (R80), by function. -/
def decodeCtl (w : Nat) : Option Instr :=
  match fld w 4 4 with
  | 0 => decBra .bra w
  | 1 => decBrc .brc w
  | 2 => decBra .call w
  | 3 => decCallp .callp w
  | 4 => decJmpr .jmpr w
  | 5 => decJmpr .callr w
  | 6 => decRetr .retr w
  | 7 => decJn .jenrol w
  | 8 => decJwait .jwait w
  | 9 => decJn .jleave w
  | 10 => decNone4 .exit w
  | 11 => decTrap .trap w
  | 12 => decNone4 .rett w
  | _ => none

/-- The class 5 (R81), by function. -/
def decodePar (w : Nat) : Option Instr :=
  match fld w 4 6 with
  | 0 => decDa .movu w
  | 1 => decDa .movuf w
  | 2 => decDa .reduAddS32 w
  | 3 => decDa .reduAddF32 w
  | 4 => decDa .reduMinS w
  | 5 => decDa .reduMaxS w
  | 6 => decDa .reduMinZ w
  | 7 => decDa .reduMaxZ w
  | 8 => decDa .reduAnd w
  | 9 => decDa .reduOr w
  | 10 => decDa .reduXor w
  | 11 => decDa .reduFmin w
  | 12 => decDa .reduFmax w
  | 13 => decDa .reduAmaxF32 w
  | 14 => decDs .movs w
  | 16 => decDai .qxch w
  | 17 => decDar .shfl w
  | 18 => decDai .shup w
  | 19 => decDai .shdn w
  | 20 => decDai .shxr w
  | 21 => decPtox .vote w
  | 22 => decVany .vany w
  | 23 => decVany .vall w
  | 24 => decDa .scanAddS32 w
  | 25 => decDa .scanAddF32 w
  | 26 => decPd .elect w
  | 32 => decPi .spawn w
  | 33 => decNone .binfl w
  | 34 => decDp .launch w
  | 35 => decA .join w
  | 40 => decAi .barb w
  | 41 => decAi .bara w
  | 42 => decAi .barw w
  | 43 => decAi .barc w
  | 44 => decPai .barlast w
  | _ => none

/-- The class 6 (R82), by function. -/
def decodeEng (w : Nat) : Option Instr :=
  match fld w 4 6 with
  | 0 => decTdab .cpy w
  | 1 => decTa .cpyd w
  | 2 => decTdab .cpyt w
  | 3 => decTa .gathd w
  | 8 => decDq .tballoc w
  | 9 => decDpp .tbinit w
  | 10 => decP .tbarr w
  | 11 => decPq .tbwait w
  | 12 => decP .tbref w
  | 13 => decP .tbfree w
  | 16 => decD .pgpop w
  | 17 => decP .pgpost w
  | 18 => decD .pgcnt w
  | 20 => decPp .aestart w
  | 21 => decNone .aestop w
  | 22 => decDi .qmap w
  | 23 => decD .qunmap w
  | 24 => decPdi .qtst w
  | 25 => decPi .qpush w
  | 26 => decI .qclose w
  | 27 => decI .qopen w
  | 32 => decTab .mmaE4m3 w
  | 33 => decTab .mmaE5m2 w
  | 34 => decTab .mmaE2m1 w
  | 35 => decTa .mmaS8 w
  | 36 => decTa .mmaS4 w
  | 37 => decTa .mmaBf16 w
  | 38 => decTa .mmaF16 w
  | 39 => decTa .mmaF64 w
  | 40 => decTa .mmv w
  | 41 => decTa .drain w
  | 42 => decI .maclr w
  | 43 => decDi .mstat w
  | 48 => decTda .pload w
  | 49 => decP .pevict w
  | 50 => decPdp .pres w
  | 51 => decDp .pstat w
  | 56 => decTdan .walk w
  | 57 => decDp .wstat w
  | 58 => decP .wcancel w
  | 59 => decPdpp .wqry w
  | 60 => decDp .lbdef w
  | 61 => decDpp .ldl w
  | 62 => decDpp .stl w
  | 63 => decP .lbfree w
  | _ => none

/-- The class 7 (R83), by function. -/
noncomputable def decodeSys (w : Nat) : Option Instr :=
  match fld w 4 6 with
  | 0 => decFence .fence w
  | 1 => decFencex .fencex w
  | 2 => decD .tick w
  | 3 => decD .ticko w
  | 4 => decPmcfg .pmcfg w
  | 5 => decPmrd .pmrd w
  | 6 => decDa .tdrd w
  | 8 => decPdab .bankcfg w
  | 12 => decPb .taskbeg w
  | 13 => decNone .taskend w
  | 14 => decPb .taskrng w
  | 15 => decD .taskq w
  | 16 => decPdp .migrate w
  | 20 => decNone .brk w
  | 24 => decP .rpbeg w
  | 25 => decPd .rpend w
  | 26 => decP .wscap w
  | 27 => decP .wsrst w
  | 28 => decAb .setrpc w
  | 29 => decA .texit w
  | 30 => decNone .tsvc w
  | 32 => decTan .coll w
  | 33 => decPb .signal w
  | _ => none

/-- A 16-bit pattern (R65, R66): bits [1:0] are 00 or 10. -/
def decodeHalf (w : Nat) : Option Instr :=
  match fld w 0 2 with
  | 0 => decodeTwo w
  | 2 => decodeMisc w
  | _ => none

/-- A 32-bit pattern, by its class in bits [3:1] (R69). -/
noncomputable def decodeWord (w : Nat) : Option Instr :=
  match fld w 0 4 with
  | 1 => decodeInt w
  | 3 => decodeFlt w
  | 5 => decodeImm w
  | 7 => decodeMem w
  | 9 => decodeCtl w
  | 11 => decodePar w
  | 13 => decodeEng w
  | 15 => decodeSys w
  | _ => none

/-- Keeps an instruction only if its operands obey the rules of R71 and R85. -/
def keepWf (o : Option Instr) : Option Instr :=
  match o with
  | some i => if i.wf then some i else none
  | none => none

/-- The length of an instruction in halfwords, from its first halfword (R64). -/
def lengthOf (h : BitVec 16) : Nat := if flag h.toNat 0 then 2 else 1

/-- The instruction that starts with halfword `lo`; `hi` is the halfword after it (R64). -/
noncomputable def decode (lo hi : BitVec 16) : Option Instr :=
  if flag lo.toNat 0 then keepWf (decodeWord (lo.toNat + 65536 * hi.toNat)) else keepWf (decodeHalf lo.toNat)

/-- The instruction at the head of a stream of code bytes, little-endian halfwords (R6, R64), with the rest of the stream. -/
noncomputable def decodeBytes : List (BitVec 8) → Option (Instr × List (BitVec 8))
  | b0 :: b1 :: rest =>
    let lo := b1 ++ b0
    if flag lo.toNat 0 then
      match rest with
      | b2 :: b3 :: rest' => (decode lo (b3 ++ b2)).map (·, rest')
      | _ => none
    else (decode lo 0).map (·, rest)
  | _ => none

/-- Reads a word numbered as spec/opcode_table.json numbers bits: the low 16 bits are the first halfword, which stands first in
memory, and a halfword's low byte stands first (R6, R64). Bits above nbits are 0. -/
noncomputable def decodeTableWord (nbits w : Nat) : Option Instr :=
  if nbits = 0 then none else
  let v := w % 2 ^ nbits
  let byte (i : Nat) : BitVec 8 := BitVec.ofNat 8 (fld v (8 * i) 8)
  (decodeBytes [byte 0, byte 1, byte 2, byte 3]).map (·.1)

/-! ### The encoder -/

/-- The word of an encoded instruction, from the same layouts; none for a device event, which no word encodes. -/
def encodeWord : Instr → Option Nat
  | .add d a b => some (encDab 1 0 d a b)
  | .sub d a b => some (encDab 1 1 d a b)
  | .mul d a b => some (encDab 1 2 d a b)
  | .mulhS d a b => some (encDab 1 3 d a b)
  | .mulhZ d a b => some (encDab 1 4 d a b)
  | .mad d a b => some (encDab 1 5 d a b)
  | .divS d a b => some (encDab 1 6 d a b)
  | .divZ d a b => some (encDab 1 7 d a b)
  | .remS d a b => some (encDab 1 8 d a b)
  | .remZ d a b => some (encDab 1 9 d a b)
  | .and d a b => some (encDab 1 10 d a b)
  | .or d a b => some (encDab 1 11 d a b)
  | .xor d a b => some (encDab 1 12 d a b)
  | .andn d a b => some (encDab 1 13 d a b)
  | .shl d a b => some (encDab 1 14 d a b)
  | .shr d a b => some (encDab 1 15 d a b)
  | .sra d a b => some (encDab 1 16 d a b)
  | .rol d a b => some (encDab 1 17 d a b)
  | .minS d a b => some (encDab 1 18 d a b)
  | .minZ d a b => some (encDab 1 19 d a b)
  | .maxS d a b => some (encDab 1 20 d a b)
  | .maxZ d a b => some (encDab 1 21 d a b)
  | .absS d a => some (encDa 1 22 d a)
  | .popc d a => some (encDa 1 23 d a)
  | .clz d a => some (encDa 1 24 d a)
  | .brev d a => some (encDa 1 25 d a)
  | .bfxZ d a b => some (encDab 1 26 d a b)
  | .bfxS d a b => some (encDab 1 27 d a b)
  | .bfi d a b => some (encDab 1 28 d a b)
  | .addw d a b => some (encDpp 1 29 d a b)
  | .subw d a b => some (encDpp 1 30 d a b)
  | .mulwS d a b => some (encDab 1 31 d a b)
  | .mulwZ d a b => some (encDab 1 32 d a b)
  | .shlw d a b => some (encDpb 1 33 d a b)
  | .shrw d a b => some (encDpb 1 34 d a b)
  | .sraw d a b => some (encDpb 1 35 d a b)
  | .cmpS c p a b => some (encCmp 1 48 c p a b)
  | .cmpZ c p a b => some (encCmp 1 49 c p a b)
  | .cmpwS c p a b => some (encCmpw 1 50 c p a b)
  | .cmpwZ c p a b => some (encCmpw 1 51 c p a b)
  | .plog o p r q => some (encPlog 1 52 o p r q)
  | .ptox d r => some (encPtox 1 53 d r)
  | .xtop p a => some (encXtop 1 54 p a)
  | .rng d a => some (encDp 1 60 d a)
  | .rngj a b => some (encPp 1 61 a b)
  | .fadd d a b => some (encDab 3 0 d a b)
  | .fsub d a b => some (encDab 3 1 d a b)
  | .fmul d a b => some (encDab 3 2 d a b)
  | .ffma d a b => some (encDab 3 3 d a b)
  | .ffms d a b => some (encDab 3 4 d a b)
  | .fmin d a b => some (encDab 3 5 d a b)
  | .fmax d a b => some (encDab 3 6 d a b)
  | .fdiv d a b => some (encDab 3 7 d a b)
  | .fsqrt d a => some (encDa 3 8 d a)
  | .frcp d a => some (encDa 3 9 d a)
  | .frsq d a => some (encDa 3 10 d a)
  | .fabs d a => some (encDa 3 11 d a)
  | .fneg d a => some (encDa 3 12 d a)
  | .fcmp c p a b => some (encCmp 3 13 c p a b)
  | .fclass d a => some (encDa 3 14 d a)
  | .fex2 d a => some (encDa 3 15 d a)
  | .flg2 d a => some (encDa 3 16 d a)
  | .dadd d a b => some (encDpp 3 20 d a b)
  | .dsub d a b => some (encDpp 3 21 d a b)
  | .dmul d a b => some (encDpp 3 22 d a b)
  | .dfma d a b => some (encDpp 3 23 d a b)
  | .dfms d a b => some (encDpp 3 24 d a b)
  | .dmin d a b => some (encDpp 3 25 d a b)
  | .dmax d a b => some (encDpp 3 26 d a b)
  | .ddiv d a b => some (encDpp 3 27 d a b)
  | .dsqrt d a => some (encDp 3 28 d a)
  | .dcmp c p a b => some (encCmpw 3 29 c p a b)
  | .dabs d a => some (encDp 3 30 d a)
  | .dneg d a => some (encDp 3 31 d a)
  | .hadd2 d a b => some (encDab 3 32 d a b)
  | .hmul2 d a b => some (encDab 3 33 d a b)
  | .hfma2 d a b => some (encDab 3 34 d a b)
  | .badd2 d a b => some (encDab 3 35 d a b)
  | .bmul2 d a b => some (encDab 3 36 d a b)
  | .bfma2 d a b => some (encDab 3 37 d a b)
  | .cvt d a f t r s => some (encCvt 3 38 d a f t r s)
  | .pkn d a b p f => some (encPkn 3 39 d a b p f)
  | .upkn d a i f => some (encUpkn 3 40 d a i f)
  | .dot4E4m3 d a b => some (encDab 3 48 d a b)
  | .dot4E5m2 d a b => some (encDab 3 49 d a b)
  | .dot8E2m1 d a b => some (encDab 3 50 d a b)
  | .dot4S8 d a b => some (encDab 3 51 d a b)
  | .dot8S4 d a b => some (encDab 3 52 d a b)
  | .dot2Bf16 d a b => some (encDab 3 53 d a b)
  | .dot2F16 d a b => some (encDab 3 54 d a b)
  | .xaccf c a => some (encXaccf 3 58 c a)
  | .xacc c a b => some (encXacc 3 59 c a b)
  | .xfma c a b => some (encXacc 3 60 c a b)
  | .xrnd d c => some (encXrnd 3 61 d c)
  | .xclr c => some (encXclr 3 62 c)
  | .addi d a i => some (encImm 5 0 d a i)
  | .andi d a i => some (encImm 5 1 d a i)
  | .ori d a i => some (encImm 5 2 d a i)
  | .xori d a i => some (encImm 5 3 d a i)
  | .shi d a k n => some (encShi 5 4 d a k n)
  | .movlo d i => some (encImm16 5 5 d i)
  | .movhi d i => some (encImm16 5 6 d i)
  | .cmpi c p a i => some (encCmpi 5 7 c p a i)
  | .sel d a b p n => some (encSel 5 8 d a b p n)
  | .scale d a b q => some (encScale 5 9 d a b q)
  | .srd d s => some (encSrd 5 10 d s)
  | .srw a s => some (encSrw 5 11 a s)
  | .ldca d i => some (encImm16 5 12 d i)
  | .muli d a i => some (encImm 5 13 d a i)
  | .ld d a z o => some (encLdst 7 0 d a z o)
  | .st d a z o => some (encLdst 7 1 d a z o)
  | .ldo d a z o s => some (encLdo 7 2 d a z o s)
  | .sto d a z s => some (encSto 7 3 d a z s)
  | .atom d a z s r p => some (encAtom 7 4 d a z s r p)
  | .atomn d a z s r p => some (encAtom 7 5 d a z s r p)
  | .prf a => some (encPrf 7 6 0 a)
  | .prfl a => some (encPrf 7 6 1 a)
  | .inv => some (encInv 7 6 2)
  | .xld c a => some (encXimg 7 6 3 c a)
  | .xst c a => some (encXimg 7 6 4 c a)
  | .xaddm c a => some (encXimg 7 6 5 c a)
  | .bra o p => some (encBra 9 0 o p)
  | .brc o p n c => some (encBrc 9 1 o p n c)
  | .call o p => some (encBra 9 2 o p)
  | .callp q e => some (encCallp 9 3 q e)
  | .jmpr a p => some (encJmpr 9 4 a p)
  | .callr a p => some (encJmpr 9 5 a p)
  | .retr a => some (encRetr 9 6 a)
  | .jenrol j => some (encJn 9 7 j)
  | .jwait j p => some (encJwait 9 8 j p)
  | .jleave j => some (encJn 9 9 j)
  | .exit => some (encNone4 9 10)
  | .trap c => some (encTrap 9 11 c)
  | .rett => some (encNone4 9 12)
  | .mov16 d s => some (encTwo 0 0 d s)
  | .add16 d s => some (encTwo 0 1 d s)
  | .sub16 d s => some (encTwo 0 2 d s)
  | .mul16 d s => some (encTwo 0 3 d s)
  | .and16 d s => some (encTwo 0 4 d s)
  | .or16 d s => some (encTwo 0 5 d s)
  | .xor16 d s => some (encTwo 0 6 d s)
  | .andn16 d s => some (encTwo 0 7 d s)
  | .shl16 d s => some (encTwo 0 8 d s)
  | .shr16 d s => some (encTwo 0 9 d s)
  | .sra16 d s => some (encTwo 0 10 d s)
  | .fadd16 d s => some (encTwo 0 11 d s)
  | .fsub16 d s => some (encTwo 0 12 d s)
  | .fmul16 d s => some (encTwo 0 13 d s)
  | .fmin16 d s => some (encTwo 0 14 d s)
  | .fmax16 d s => some (encTwo 0 15 d s)
  | .nop => some (encNone16 2 0)
  | .guard n p => some (encGuard 2 1 n p)
  | .waitk k => some (encWaitk 2 2 k)
  | .movi d i => some (encImm5 2 3 d i)
  | .addi16 d i => some (encImm5 2 4 d i)
  | .jwait16 j p => some (encJwait16 2 5 j p)
  | .ret => some (encNone16 2 6)
  | .exit16 => some (encNone16 2 7)
  | .barb16 b => some (encBarb16 2 8 b)
  | .yield => some (encNone16 2 9)
  | .movs16 d s => some (encMovs16 2 10 d s)
  | .movu d a => some (encDa 11 0 d a)
  | .movuf d a => some (encDa 11 1 d a)
  | .reduAddS32 d a => some (encDa 11 2 d a)
  | .reduAddF32 d a => some (encDa 11 3 d a)
  | .reduMinS d a => some (encDa 11 4 d a)
  | .reduMaxS d a => some (encDa 11 5 d a)
  | .reduMinZ d a => some (encDa 11 6 d a)
  | .reduMaxZ d a => some (encDa 11 7 d a)
  | .reduAnd d a => some (encDa 11 8 d a)
  | .reduOr d a => some (encDa 11 9 d a)
  | .reduXor d a => some (encDa 11 10 d a)
  | .reduFmin d a => some (encDa 11 11 d a)
  | .reduFmax d a => some (encDa 11 12 d a)
  | .reduAmaxF32 d a => some (encDa 11 13 d a)
  | .movs d i => some (encDs 11 14 d i)
  | .qxch d a i => some (encDai 11 16 d a i)
  | .shfl d a b => some (encDar 11 17 d a b)
  | .shup d a i => some (encDai 11 18 d a i)
  | .shdn d a i => some (encDai 11 19 d a i)
  | .shxr d a i => some (encDai 11 20 d a i)
  | .vote d r => some (encPtox 11 21 d r)
  | .vany q r => some (encVany 11 22 q r)
  | .vall q r => some (encVany 11 23 q r)
  | .scanAddS32 d a => some (encDa 11 24 d a)
  | .scanAddF32 d a => some (encDa 11 25 d a)
  | .elect p => some (encPd 11 26 p)
  | .spawn a i => some (encPi 11 32 a i)
  | .binfl => some (encNone 11 33)
  | .launch d a => some (encDp 11 34 d a)
  | .join a => some (encA 11 35 a)
  | .barb a i => some (encAi 11 40 a i)
  | .bara a i => some (encAi 11 41 a i)
  | .barw a i => some (encAi 11 42 a i)
  | .barc a i => some (encAi 11 43 a i)
  | .barlast p a i => some (encPai 11 44 p a i)
  | .cpy d a b k rec => some (encTdab 13 0 d a b k rec)
  | .cpyd a k rec => some (encTa 13 1 a k rec)
  | .cpyt d a b k rec => some (encTdab 13 2 d a b k rec)
  | .gathd a k rec => some (encTa 13 3 a k rec)
  | .tballoc d q => some (encDq 13 8 d q)
  | .tbinit d a b => some (encDpp 13 9 d a b)
  | .tbarr a => some (encP 13 10 a)
  | .tbwait a q => some (encPq 13 11 a q)
  | .tbref a => some (encP 13 12 a)
  | .tbfree a => some (encP 13 13 a)
  | .pgpop d => some (encD 13 16 d)
  | .pgpost a => some (encP 13 17 a)
  | .pgcnt d => some (encD 13 18 d)
  | .aestart a b => some (encPp 13 20 a b)
  | .aestop => some (encNone 13 21)
  | .qmap d i => some (encDi 13 22 d i)
  | .qunmap d => some (encD 13 23 d)
  | .qtst p i => some (encPdi 13 24 p i)
  | .qpush a i => some (encPi 13 25 a i)
  | .qclose i => some (encI 13 26 i)
  | .qopen i => some (encI 13 27 i)
  | .mmaE4m3 a b k rec => some (encTab 13 32 a b k rec)
  | .mmaE5m2 a b k rec => some (encTab 13 33 a b k rec)
  | .mmaE2m1 a b k rec => some (encTab 13 34 a b k rec)
  | .mmaS8 a k rec => some (encTa 13 35 a k rec)
  | .mmaS4 a k rec => some (encTa 13 36 a k rec)
  | .mmaBf16 a k rec => some (encTa 13 37 a k rec)
  | .mmaF16 a k rec => some (encTa 13 38 a k rec)
  | .mmaF64 a k rec => some (encTa 13 39 a k rec)
  | .mmv a k rec => some (encTa 13 40 a k rec)
  | .drain a k rec => some (encTa 13 41 a k rec)
  | .maclr i => some (encI 13 42 i)
  | .mstat d i => some (encDi 13 43 d i)
  | .pload d a k rec => some (encTda 13 48 d a k rec)
  | .pevict a => some (encP 13 49 a)
  | .pres p a => some (encPdp 13 50 p a)
  | .pstat d a => some (encDp 13 51 d a)
  | .walk d a k => some (encTdan 13 56 d a k)
  | .wstat d a => some (encDp 13 57 d a)
  | .wcancel a => some (encP 13 58 a)
  | .wqry p a b => some (encPdpp 13 59 p a b)
  | .lbdef d a => some (encDp 13 60 d a)
  | .ldl d a b => some (encDpp 13 61 d a b)
  | .stl d a b => some (encDpp 13 62 d a b)
  | .lbfree a => some (encP 13 63 a)
  | .fence k c s => some (encFence 15 0 k c s)
  | .fencex x y s => some (encFencex 15 1 x y s)
  | .tick d => some (encD 15 2 d)
  | .ticko d => some (encD 15 3 d)
  | .pmcfg c a => some (encPmcfg 15 4 c a)
  | .pmrd d c => some (encPmrd 15 5 d c)
  | .tdrd d a => some (encDa 15 6 d a)
  | .bankcfg p a b => some (encPdab 15 8 p a b)
  | .taskbeg a b => some (encPb 15 12 a b)
  | .taskend => some (encNone 15 13)
  | .taskrng a b => some (encPb 15 14 a b)
  | .taskq d => some (encD 15 15 d)
  | .migrate p a => some (encPdp 15 16 p a)
  | .brk => some (encNone 15 20)
  | .rpbeg a => some (encP 15 24 a)
  | .rpend p => some (encPd 15 25 p)
  | .wscap a => some (encP 15 26 a)
  | .wsrst a => some (encP 15 27 a)
  | .setrpc a b => some (encAb 15 28 a b)
  | .texit a => some (encA 15 29 a)
  | .tsvc => some (encNone 15 30)
  | .coll a k => some (encTan 15 32 a k)
  | .signal a b => some (encPb 15 33 a b)
  | .translationCheckDone _ => none
  | .pageWalkReadArrives _ => none
  | .loadValueArrives _ => none
  | .l1Fill _ => none
  | .storeAckDiePoint _ => none
  | .storeAckHome _ => none
  | .requestServedHomeSlice _ => none
  | .xaddmLinePerformed _ => none
  | .scopeWriteTakesEffect _ => none
  | .joinRelease _ _ => none
  | .barrierComplete _ _ _ => none
  | .joinSatisfied _ => none
  | .warpEntersActiveSet _ => none
  | .binTimerExpire _ _ => none
  | .binFormWarp _ _ => none
  | .blockPlace _ => none
  | .swapOut _ => none
  | .swapIn _ => none
  | .gridTimeLimit _ => none
  | .bankModeChangeDone _ => none
  | .copyChunkAcked _ => none
  | .copyComplete _ => none
  | .engineFaultServiceReply _ _ => none
  | .mmaKstepEnd _ => none
  | .drainStart _ => none
  | .drainComplete _ => none
  | .maclrAtHead _ => none
  | .parcelLoadComplete _ => none
  | .parcelBecomesAbsent _ _ => none
  | .walkStart _ _ => none
  | .walkRoundEnd _ => none
  | .commitOfficeReply _ => none
  | .taskCommitStart _ => none
  | .taskCommitComplete _ => none
  | .tsvcReplyResume _ _ => none
  | .tsvcReplyEnd _ _ _ _ => none
  | .comparatorBreakpoint _ => none
  | .debugResume _ => none
  | .preemptRequest _ _ _ => none
  | .coreVacated _ => none
  | .contextSwitch _ => none
  | .uncorrectableError _ => none
  | .softErrorCorrected => none
  | .sccRestart _ _ _ => none
  | .debugStopRequest _ => none
  | .clockStop => none
  | .debugStopRelease => none
  | .watchpointRangeWrite _ _ _ _ => none
  | .traceRingConfig _ _ => none
  | .replayArmed _ => none
  | .replayEnforceTimeout _ _ => none
  | .capturePageSaved _ _ => none
  | .queueSetup _ _ _ _ _ _ => none
  | .queueReset _ => none
  | .doorbellWrite _ _ _ => none
  | .packetLaunch _ => none
  | .packetWaitSignal _ => none
  | .waitSignalMet _ _ => none
  | .packetSetSignal _ => none
  | .tlbInvalidateRange _ _ _ => none
  | .dieOnline _ => none
  | .dieOffline _ => none
  | .liveUpdate _ _ => none
  | .peerAccess _ _ _ _ => none
  | .peerFailure _ => none
  | .collectiveComplete _ => none
  | .rdmaWrite _ _ _ _ => none
  | .rdmaRead _ _ _ _ => none
  | .rdmaSend _ _ => none
  | .rdmaReceive _ _ _ => none
  | .hostRead _ _ => none
  | .hostWrite _ _ => none
  | .attestationRequest _ _ => none
  | .boot _ _ => none
  | .powerClockStep _ => none
  | .hostVisible _ => none
  | .restanteWaitTimeout _ => none
  | .relayBringUp _ _ => none
  | .queuePairSetup _ _ => none
  | .rootTableSet _ _ => none
  | .quotaSet _ _ _ => none
  | .peerGroupSet _ _ _ _ => none
  | .hostServiceRegister _ => none
  | .contextKeyRegister _ _ => none
  | .debugSessionAttach _ => none
  | .linkEnumeration _ _ => none

/-- Whether the form is 16 bits long (R64). -/
def isHalf (w : Nat) : Bool := !flag w 0

/-- The halfwords of an encoded instruction, in stream order (R64); empty for a device event. -/
def encode (i : Instr) : List (BitVec 16) :=
  match encodeWord i with
  | some w => if isHalf w then [BitVec.ofNat 16 w] else [BitVec.ofNat 16 w, BitVec.ofNat 16 (w / 65536)]
  | none => []

end Sys2Proof
end

