-- ==== Sys2Proof/Machine/Fetch.lean ====
section
/-! DEFINITION. Which part of the package acts next, and the fetch of an agent's instruction (R12, R13, R67, R86, R109, R151, R156, R157, R335,
R364). The package's parts run at once; a step of the model is one of the things that can happen now (log entry 3). -/

namespace Sys2Proof.Machine

/-! ### Fetch (R13, R86, R109, R364) -/

/-- An instruction to be run on a state, or the state after a step that runs none. -/
inductive Chosen where
  | run (i : Instr) (s : State)
  | done (s : State)

/-- What an agent's next fetch finds. -/
inductive Fetched where
  | instr (i : Instr)
  | prefixError
  | undefined (len : Nat)
  | absent
  | outside
  | loading
  deriving DecidableEq, Repr

/-- Whether a halfword is one of the prefixes (R66, R67). -/
def isPrefix (lo : BitVec 16) : Bool := fld lo.toNat 0 2 == 2 && (fld lo.toNat 2 4 == 1 || fld lo.toNat 2 4 == 2)

/-- The instruction at an offset of a parcel: the cases of R13, then decoding. -/
noncomputable def Parcel.fetchAt (p : Parcel) (off : Nat) : Fetched :=
  if p.state = 0 then .absent
  else if p.state = 1 then .loading
  else match p.code.drop off with
    | [] => .outside
    | lo :: rest =>
      if lo.getLsbD 0 then
        match rest with
        | [] => .outside
        | hi :: _ => match decode lo hi with
          | some i => .instr i
          | none => .undefined 2
      else match decode lo 0 with
        | some i => .instr i
        | none => if isPrefix lo then .prefixError else .undefined 1

/-- The fetch at the head of a warp's frontier, past the prefixes of its group already read. -/
noncomputable def State.fetch (s : State) (w : Warp) (h : Lane) : Fetched :=
  let id := h.pc.toNat / 65536
  if h.past || !s.mapped w.ctx id then .outside
  else (s.parcel w.core w.ctx id).fetchAt (h.pc.toNat % 65536 + (w.prefixAt h).len)

/-- A trap of the whole first entry at its fetch. -/
def State.fetchTrap (s : State) (u : Nat) (w : Warp) (h : Lane) (cause : Nat) (info : Word) : State :=
  let frag := w.entry h
  s.fragTrap ⟨u, h.pc, h.prio, (w.prefixAt h).len, frag, frag, frag.filter (fun l => !(w.lane l).helper), 0⟩ cause (fun _ => ⟨cause, 0, info⟩)

/-- An agent's turn: its next instruction, or what its fetch brings about. -/
noncomputable def State.turn (s : State) (u : Nat) : Chosen :=
  let s : State := { s with cur := some u }
  let w := s.warp u
  match w.head with
  | none => .done s
  | some h =>
    match s.fetch w h with
    | .instr i => .run i s
    | .prefixError => .done (s.fetchTrap u w h 0x01 0)
    | .outside => .done (s.fetchTrap u w h 0x01 0)
    | .absent => .done (s.fetchTrap u w h 0x06 h.pc)
    | .loading => .done s
    | .undefined n => .done (s.issueBy u w { wlen := n, lpb := 0 } (fun _ _ => trap1 0x01))

/-! ### What can happen now -/

/-- What a step can be: an event inside the package, the next input from outside it, an agent's turn. -/
inductive Pick where
  | event (i : Instr)
  | input
  | agent (u : Nat)
  deriving DecidableEq, Repr

/-- Whether an agent may issue: a warp of its core's active set, a running scalar control core or address engine (R157, R300). A join that
can release does so in the next cycle, before the warp's next issue (R152). -/
def State.issues (s : State) (u : Nat) (w : Warp) : Bool :=
  !w.busy && !((List.range 8).any w.joinReady) && w.head.isSome && (match w.kind with
    | .warp => (s.core w.core).active.contains u && s.mayRun w
    | .scc c => !s.clusterLeaves c w.ctx || w.inHandler
    | .ae _ _ _ _ => !s.pushBlocked u && !s.leaving w.core w.ctx && (s.block w.block).loading.isNone)

/-- Suspended lanes with a reply that the spec fixes, as the firmware's reply to all of one cause and place (R335, R362, R386). -/
noncomputable def State.fixedReplies (s : State) (u : Nat) (w : Warp) : List Instr :=
  match w.lanes.findSome? (fun p => if p.2.place == .tsvc then (s.fixedReply w p.2).map (fun r => (p.2, r)) else none) with
  | some (k, r) =>
    let m := maskOf (Map.keysWhere w.lanes (fun _ x => x.place == .tsvc && x.tcause == k.tcause && x.tinfo == k.tinfo && x.pc == k.pc))
    match r with
    | .resume => [.tsvcReplyResume u ⟨m, []⟩]
    | .finish st d => [.tsvcReplyEnd u m (BitVec.ofNat 16 st) (BitVec.ofNat 16 d)]
  | none => []

/-- A list of one event under its condition. -/
def may (b : Bool) (i : Instr) : List Instr := if b then [i] else []

/-- Whether the clock stands at the tick of a stop: nothing that needs a later tick happens before it (R383). -/
def State.tickFull (s : State) : Bool := s.fw.stopAt == some s.tick

noncomputable def State.warpEvents (s : State) (u : Nat) (w : Warp) : List Instr :=
  may (s.checkReady u) (.translationCheckDone u) ++
    ((List.range 8).filter w.joinReady).map (fun j => .joinRelease u j) ++
    may (!s.tickFull && w.lanes.any (fun p => s.joinDone p.2)) (.joinSatisfied u) ++
    may (s.entersReady u) (.warpEntersActiveSet u) ++
    (match w.hold with
      | some (.office _ _ _ _) => [.commitOfficeReply u]
      | some (.replayArm _ _) => [.replayArmed u]
      | some (.restante _ _ _) => [.restanteWaitTimeout u]
      | _ => []) ++
    may w.bpDue (.comparatorBreakpoint u) ++ s.fixedReplies u w

noncomputable def State.reqEvents (s : State) (k : Nat) (r : Req) : List Instr :=
  (match r with
    | .walk _ => [.pageWalkReadArrives k]
    | .store t => may (s.showReady t) (.hostVisible k)
    | .xaddm x => may (x.locked && s.xaddmReady k x) (.xaddmLinePerformed k)
    | _ => []) ++
    may (!s.tickFull && s.arrivalReady k) (.loadValueArrives k) ++ may (s.fillReady k) (.l1Fill k) ++ may (s.dieAckReady k) (.storeAckDiePoint k) ++
    may (s.homeAckReady k) (.storeAckHome k) ++ may (s.servedReady k) (.requestServedHomeSlice k)

noncomputable def State.barEvents (s : State) (cluster : Bool) (o : Nat) : List Instr :=
  if s.tickFull then []
  else ((List.range (if cluster then 4 else 16)).filter (fun i => s.barReady cluster o i)).map (fun i => .barrierComplete cluster o i)

noncomputable def State.coreEvents (s : State) (c : Nat) (k : Core) : List Instr :=
  k.bins.foldl (fun l b => l ++ may (b.2.timer && !b.2.lanes.isEmpty) (.binTimerExpire c b.1) ++ may (s.binReady c b.1) (.binFormWarp c b.1)) [] ++
    may (s.bankReady c) (.bankModeChangeDone c) ++ may (s.kstepReady c) (.mmaKstepEnd c) ++ may (s.drainHead c).isSome (.drainStart c) ++
    (match k.mq with
      | m :: _ => (match m.op with | .maclr t => may (!s.beingRead c t) (.maclrAtHead c) | _ => [])
      | [] => []) ++
    may ((s.pwaitReady c).isSome || (s.loadReady c).isSome) (.parcelLoadComplete c) ++
    (Map.keysWhere k.parcels (fun q _ => s.absentReady c q)).map (fun q => .parcelBecomesAbsent c q) ++
    ((List.range 4).filter (s.walkStartable c)).map (fun i => .walkStart c i) ++ may (s.roundReady c) (.walkRoundEnd c) ++
    may (s.vacatedReady c) (.coreVacated c)

noncomputable def State.gridEvents (s : State) (g : Nat) : List Instr :=
  may (s.fw.booted && s.placeReady g) (.blockPlace g) ++ may (s.limitReady g) (.gridTimeLimit g) ++ may (s.commitStartReady g) (.taskCommitStart g) ++
    may (s.commitReady g) (.taskCommitComplete g)

/-- Lines and pages of a context at which replay or capture holds something (R396, R398). -/
noncomputable def State.ctxEvents (s : State) (x : Nat) (c : Ctx) : List Instr :=
  let lines := (s.reqs.foldl (fun l p => match p.2 with | .atom a => if a.ctx == x then l ++ a.parts.map (fun q => q.pa / 256) else l | _ => l) []).eraseDups
  (if c.session.isSome then (lines.filter (fun l => (s.enforcedWait x l).isSome)).map (fun l => .replayEnforceTimeout x l) else []) ++
    ((c.captures.foldl (fun l k => l ++ k.2.watched) []).eraseDups.filter (s.pageWaits x)).map (fun p => .capturePageSaved x p)

noncomputable def State.queueEvents (s : State) (q : Nat) (k : Queue) : List Instr :=
  if !s.fw.booted then [] else
  ((k.taken.map (·.index)).filter (fun i => (s.waitReady q i).isSome)).map (fun i => .waitSignalMet q i) ++
    (match s.taking q 1 with | some (_, r) => may (badPacket r || s.setFree r) (.packetLaunch q) | none => []) ++
    (match s.taking q 2 with | some (_, r) => may (!badPacket r) (.packetWaitSignal q) | none => []) ++
    (match s.taking q 3 with | some (_, r) => may (!badPacket r) (.packetSetSignal q) | none => [])

/-- The events inside the package that can happen now. -/
noncomputable def State.events (s : State) : List Instr :=
  s.warps.foldl (fun l p => l ++ s.warpEvents p.1 p.2) [] ++
    s.reqs.foldl (fun l p => l ++ s.reqEvents p.1 p.2) [] ++
    ((s.scopeWrites.map (·.1)).filter s.scopeReady).map (fun k => .scopeWriteTakesEffect k) ++
    s.blocks.foldl (fun l p => l ++ s.barEvents false p.1 ++ may (s.fw.booted && s.swapOutReady p.1) (.swapOut p.1)) [] ++
    s.groups.foldl (fun l p => l ++ s.barEvents true p.1) [] ++
    ((s.saved.map (·.1)).filter (fun b => s.fw.booted && (s.swapInFor b).isSome)).map (fun b => .swapIn b) ++
    s.cores.foldl (fun l p => l ++ s.coreEvents p.1 p.2) [] ++
    s.grids.foldl (fun l p => l ++ s.gridEvents p.1) [] ++
    s.copies.foldl (fun l p => l ++ may (s.chunkReady p.1) (.copyChunkAcked p.1) ++ may (s.copyReady p.1) (.copyComplete p.1)) [] ++
    ((s.drains.map (·.1)).filter s.drainReady).map (fun k => .drainComplete k) ++
    ((s.colls.map (·.1)).filter s.collReady).map (fun k => .collectiveComplete k) ++
    s.ctxs.foldl (fun l p => l ++ s.ctxEvents p.1 p.2) [] ++
    s.queues.foldl (fun l p => l ++ s.queueEvents p.1 p.2) [] ++
    may s.fw.stopAt.isSome .clockStop

/-- Whether an input can be taken now: an invalidation waits for the accesses before it (R420). -/
def State.takes (s : State) (i : Instr) : Bool :=
  match i with
  | .tlbInvalidateRange x _ _ => s.invalidateReady x
  | _ => true

/-- The next input: the first that can be taken; one that waits holds no other back. -/
def State.nextInput (s : State) : Option Instr := s.inputs.find? s.takes

/-- Whether the active firmware complex carries an input out: the front end, arbitration, dispatch, service of faults, hot-plug, the driver's requests
(R421). -/
def byFirmware : Instr → Bool
  | .tsvcReplyResume _ _ | .tsvcReplyEnd _ _ _ _ | .debugResume _ | .engineFaultServiceReply _ _ | .preemptRequest _ _ _ | .contextSwitch _
  | .sccRestart _ _ _ | .queueSetup _ _ _ _ _ _ | .queueReset _ | .doorbellWrite _ _ _ | .tlbInvalidateRange _ _ _ | .dieOnline _ | .dieOffline _
  | .liveUpdate _ _ | .relayBringUp _ _ | .queuePairSetup _ _ | .rootTableSet _ _ | .quotaSet _ _ _ | .peerGroupSet _ _ _ _ | .hostServiceRegister _
  | .contextKeyRegister _ _ | .debugSessionAttach _ | .attestationRequest _ _ | .powerClockStep _ => true
  | _ => false

/-- All that can happen now. -/
noncomputable def State.picks (s : State) : List Pick :=
  s.events.map .event ++ (if s.nextInput.isSome then [.input] else []) ++
    (s.warps.filter (fun p => s.issues p.1 p.2)).map (fun p => .agent p.1)

/-! ### The choice -/

/-- One of the things that can happen: the only one; or as the plan says; or as chance has it. -/
def State.choose1 (s : State) (ps : List Pick) : Option Pick × State :=
  match ps with
  | [] => (none, s)
  | [p] => (some p, s)
  | _ => match s.plan with
    | k :: rest => (ps[k % ps.length]?, { s with plan := rest })
    | [] => (ps[Config.pick s.choice % ps.length]?, s)

/-- What a pick does; an input for the firmware finds none where no firmware runs (R422). -/
noncomputable def State.does (s : State) (p : Option Pick) : Chosen :=
  match p with
  | none => .done s
  | some (.event i) => .run i s
  | some .input => match s.nextInput with
    | some i =>
      let t : State := { s with inputs := s.inputs.erase i }
      if byFirmware i && !s.fw.booted then .done t else .run i t
    | none => .done s
  | some (.agent u) => s.turn u

/-- While the clocks stand still only the tool's release is taken (R383). -/
noncomputable def State.frozen (s : State) : Chosen :=
  if s.inputs.contains .debugStopRelease then .run .debugStopRelease { s with inputs := s.inputs.erase .debugStopRelease } else .done s

/-- What the next step does. -/
noncomputable def State.chosen (s : State) : Chosen :=
  if s.fw.stopped then s.frozen
  else
    let (p, s') := s.choose1 s.picks
    s'.does p

/-! ### Code laid where a step fetches -/

/-- Whether a pick is an agent's turn. -/
def Pick.isAgent (p : Pick) (u : Nat) : Bool := match p with | .agent v => v == u | _ => false

/-- A seed group's warp on core 0 whose lanes stand at the first halfword of a resident parcel with the code given, and whose turn is the next
step: a LAUNCH packet, its placement and the parcel's load, all done (log entry 28). -/
noncomputable def State.withCode (s : State) (code : List (BitVec 16)) : State :=
  let g := s.nextId
  let lane : Lane := Lane.start 0x10000 0
  let info := GridRec.seed 1 0 0 0 0 0 false
  let t : State := { s with
    nextId := g + 4
    fw := { s.fw with stopped := false }
    grids := Map.put s.grids g { Grid.absent with info := info, next := 1, pendSeq := g, ended := false, office := some 0 }
    groups := Map.put s.groups (g + 2) ⟨0, g, [], []⟩
    blocks := Map.put s.blocks (g + 1) { Block.absent with grid := g, group := g + 2, producer := some 0, stamp := g }
    warps := Map.put s.warps (g + 3) (Warp.start .warp 0 0 (g + 1) 0 g ((List.range 32).map (fun l => (l, lane)))) }
  let t : State := t.updCtx 0 (fun c => { c with parcels := Map.put c.parcels 1 ⟨0, code.length, 0, false⟩ })
  let t : State := t.updCore 0 (fun c => { c with
    online := true, fenced := false, vacating := [], active := [g + 3]
    parcels := Map.put c.parcels 1 { Parcel.absent with state := 2, gen := 1, code := code, pages := pagesOf code.length, occupied := true } })
  match t.picks with
  | [_] => t
  | ps => { t with plan := [ps.findIdx (fun p => p.isAgent (g + 3))] }

/-! ### After each step -/

/-- Notes whether each parcel has an occupant, and the step in which its occupancy rose from 0 (R335). -/
def State.noteOccupancy (s : State) : State :=
  { s with cores := Map.mapV s.cores (fun c k => { k with parcels := Map.mapV k.parcels (fun q p =>
      let n := 0 < s.occupancy c (q / 65536) (q % 65536)
      if n && !p.occupied then { p with occupied := true, entered := s.choice } else { p with occupied := n }) }) }

/-- The end of a step; `choice` counts the steps. -/
def State.settle (s : State) : State := { s.noteOccupancy.noteTurns with choice := s.choice + 1 }

/-- An outcome with the step's end. -/
def settled (o : Out) : Out := match o with | .next t => .next t.settle | .fault f => .fault f | .refused r => .refused r

end Sys2Proof.Machine
end

