-- ==== Sys2Proof/Machine/Step.lean ====
section
/-! DEFINITION. One step of the package: what is chosen is run, and the step ends. -/

namespace Sys2Proof.Machine

/-- One step. -/
noncomputable def step (s : State) : Host.Outcome State Fault Refusal :=
  settled (match s.chosen with
    | .run i t => exec i t
    | .done t => .next t)

/-- The state with an instruction where the next step fetches it: its halfwords as they lie in a parcel, the bits above nbits zero. -/
noncomputable def State.withFetchWord (s : State) (nbits w : Nat) : State :=
  s.withCode [BitVec.ofNat 16 (w % 2 ^ nbits), BitVec.ofNat 16 (w % 2 ^ nbits / 65536)]

end Sys2Proof.Machine
end

