-- ==== Sys2Proof/Safety.lean ====
section
/-! DEFINITION. What counts as a safe state and a safe run, in the terms that statements use: the outside world's part, memory's form, an
instruction that is ready to issue, and two states that differ in nothing but the books that an issue keeps. -/

namespace Sys2Proof

/-- A device event: a row of the opcode table that no word encodes. -/
def Instr.isEvent (i : Instr) : Bool := (encodeWord i).isNone

namespace Machine

/-- The outside world's part is made of device events only: lane instructions come from code. -/
def State.driven (s : State) : Prop := s.inputs.all Instr.isEvent = true

/-- Memory and the host-visible array stand in their canonical form. -/
def State.memOk (s : State) : Prop := Memory.wf s.mem = true ∧ Memory.wf s.arr = true

/-- The grids stand under rising names, all of them given out before (R188). -/
def State.namesOk (s : State) : Prop := (s.grids.map (·.1)).Pairwise (· < ·) ∧ ∀ p ∈ s.grids, p.1 < s.nextId

/-- A step answers a next state: no fault, no refusal. -/
def State.runs (s : State) : Prop := ∃ t, step s = .next t

/-- The agent that acts is in the state. -/
def State.acts (s : State) (u : Nat) (w : Warp) : Prop := s.cur = some u ∧ Map.get? s.warps u = some w

/-! ### An instruction that is ready to issue (R18, R20, R67, R86, R157, R160, R224, R272) -/

/-- What an agent's first frontier entry, whose lane is h, must meet for an instruction with the needs n to pass every check of R86 and
every wait: no wait-prefix token busy, a lane of N takes part, nothing illegal, the registers that it names full and none of them
mapped to a queue, no scope write of its own pending on a source, no task to wait for, no acquire to wait for. -/
structure State.Prepared (s : State) (u : Nat) (w : Warp) (h : Lane) (n : Need) : Prop where
  acts : s.acts u w
  idle : w.busy = false
  head : w.head = some h
  tokens : ∀ k < 8, (w.iss u h n.wlen).wait.getLsbD k = true → w.tokBusy k = true → w.isAe = true
  lanes : (w.iss u h n.wlen).n ≠ []
  legal : s.illegal w (w.iss u h n.wlen) n = false
  handler : n.handler = true → (w.iss u h n.wlen).handler = true
  tasks : n.atHead = true → s.waitingTasks w (w.iss u h n.wlen).act = []
  unmapped : n.mappedSrcs w = []
  full : ∀ l ∈ (w.iss u h n.wlen).act, ∀ r ∈ n.names ++ n.also l (w.lane l), ((w.lane l).cell r).fe = .full
  scopes : ∀ k, Opd.scope k ∈ n.srcs → s.scopePending u k = false
  acquire : n.mem = true → w.acquiring = false

/-- The same on a core whose trace is off. -/
structure State.Ready (s : State) (u : Nat) (w : Warp) (h : Lane) (n : Need) : Prop extends s.Prepared u w h n where
  untraced : (s.core w.core).trace = none

/-! ### The pairwise tree of a fold (R44) -/

/-- The fold of 2^k positions from `lo`: a pair of halves is combined, an absent half passes the other through, and a position is present where
the list holds it. -/
def treeFold (op : Word → Word → Word) (n : List Nat) (v : Nat → Word) : Nat → Nat → Option Word
  | 0, lo => if n.contains lo then some (v lo) else none
  | k + 1, lo =>
    match treeFold op n v k lo, treeFold op n v k (lo + 2 ^ k) with
    | some a, some b => some (op a b)
    | some a, none => some a
    | none, b => b

/-! ### States that differ only in the books of an issue -/

/-- A warp without what its issue notes beside the instruction's effect: the prefixes spent, a wait that is over, the entry left by
sequential advance, the breakpoint comparison, what its register cache holds. -/
def Warp.shown (w : Warp) : Warp := { w.unwait with pfx := none, stop := none, seq := none, bp := none, cache := [] }

/-- A core without the slots charged, the greedy place, the active set and the useful slots of its tasks. -/
def Core.shown (c : Core) : Core :=
  { c with slots := [], greedy := none, active := [], tasks := Map.mapV c.tasks (fun _ t => { t with useful := [] }) }

/-- A grid without its counter set and the slots charged to it. -/
def Grid.shown (g : Grid) : Grid := { g with counters := none, slots := [] }

/-- Two states alike in everything but those books. -/
structure State.Alike (s t : State) : Prop where
  warps : ∀ v, (Map.get? t.warps v).map Warp.shown = (Map.get? s.warps v).map Warp.shown
  cores : ∀ c, (t.core c).shown = (s.core c).shown
  grids : ∀ g, (Map.get? t.grids g).map Grid.shown = (Map.get? s.grids g).map Grid.shown
  rest : { t with warps := [], cores := [], grids := [] } = { s with warps := [], cores := [], grids := [] }

/-- What an issued instruction does to a lane: a lane that takes part gets the effect f and, unless it is a helper, moves on; a lane of the
fragment whose guard is false only moves on (R21, R67). -/
def Iss.ran (i : Iss) (f : Nat → Lane → Lane) (l : Nat) (k : Lane) : Lane :=
  if i.act.contains l then (if (f l k).helper then f l k else (f l k).advance i.len)
  else if i.frag.contains l && !k.helper then k.advance i.len
  else k

/-- The same for a transfer of control: a lane that takes part goes where f sends it; helper lanes follow their quads (R14, R141). -/
def Iss.sent (i : Iss) (f : Nat → Lane → Lane) (l : Nat) (k : Lane) : Lane :=
  if i.act.contains l then (if k.helper then k else f l k)
  else if i.frag.contains l && !k.helper then k.advance i.len
  else k

/-- Of an instruction whose lanes have yet to move: only the lanes whose guard is false move on (R21, R22). -/
def Iss.rest (i : Iss) (l : Nat) (k : Lane) : Lane :=
  if i.frag.contains l && !i.act.contains l && !k.helper then k.advance i.len else k

/-- The state with the lanes of the agent changed. -/
def State.lanesTo (s : State) (u : Nat) (f : Nat → Lane → Lane) : State :=
  s.updWarp u (fun w => { w with lanes := Map.mapV w.lanes f })

/-- The lanes of a handler fragment that an instruction sends apart are fragments of their own after it (R360). -/
def State.parted (s : State) (i : Iss) : State := if i.handler then s.updWarp i.u (fun w => w.split i.frag) else s

/-- The state t is s with the effect f on the lanes of an issued instruction, and nothing else but the books of an issue. -/
def State.Did (s t : State) (i : Iss) (f : Nat → Lane → Lane) : Prop := State.Alike ((s.lanesTo i.u (i.ran f)).parted i) t

/-- Instruction x with the needs n, when it is ready and p holds, completes: the step's next state is `post`, which is written from the
state before, the agent's record and the issue, but for the books of the issue. -/
def Completes (x : Instr) (n : Need) (p : State → Warp → Iss → Prop) (post : State → Warp → Iss → State) : Prop :=
  ∀ s u w h, s.Ready u w h n → p s w (w.iss u h n.wlen) →
    ∃ t, exec x s = .next t ∧ State.Alike ((post s w (w.iss u h n.wlen)).parted (w.iss u h n.wlen)) t

/-- Instruction x with the needs n, when it is ready, completes with the effect f on each lane that takes part, and with no other. -/
def Acts (x : Instr) (n : Need) (f : State → Warp → Nat → Lane → Lane) : Prop :=
  Completes x n (fun _ _ _ => True) (fun s w i => s.lanesTo i.u (i.ran (f s w)))

/-- The lanes of N that raise a flag whose enable bit is set; `r` gives a lane's result and flags (R34). -/
def Iss.raising (i : Iss) (w : Warp) (r : Nat → Lane → Lane × Flags) : List Nat :=
  i.n.filter (fun l => (w.lane l).fpctl >>> 9 &&& (r l (w.lane l)).2.setWidth 14 != 0)

/-- What a floating instruction does to a lane where the lanes `ls` trap FP_EXCEPTION: they keep their destination, record their flags, and go to the
handler, to resume at the instruction; the others complete (R24, R34, R119, R358, R359). -/
def Iss.fpTrapped (i : Iss) (w : Warp) (ls : List Nat) (r : Nat → Lane → Lane × Flags) (l : Nat) (k : Lane) : Lane :=
  if ls.contains l then
    if k.helper then k.raise (r l k).2 else { k.raise (r l k).2 with
      tcause := 0x17, taddr := 0, tinfo := (r l (w.lane l)).2.setWidth 32, tlanes := maskOf ls, tpc := i.pc
      resumePc := i.pc, resumePrio := i.prio, resumePast := false
      pc := BitVec.ofNat 32 ((Config.runtimeSlot 0x17).toNat % 65536), past := false, prio := 63, place := .frontier
      frag := 1 + ls.headD 0, asked := none }
  else i.ran (fun l k => (r l k).1.raise (r l k).2) l k

/-- Floating instruction x with the needs n, when it is ready, completes: `r` gives each lane that takes part with its result written, and the flags,
which become sticky (R28, R34, R119). Where no lane of N raises a flag whose enable bit is set, all of them have their results; where some do, those, in
an ordinary fragment, trap FP_EXCEPTION without one, the other lanes complete, and what a SPAWN of theirs had begun is forgotten (R185). -/
def FpActs (x : Instr) (n : Need) (r : State → Warp → Nat → Lane → Lane × Flags) : Prop :=
  Completes x n (fun s w i => i.raising w (r s w) = [])
    (fun s w i => s.lanesTo i.u (i.ran (fun l k => (r s w l k).1.raise (r s w l k).2))) ∧
  Completes x n (fun s w i => i.handler = false ∧ i.raising w (r s w) ≠ [])
    (fun s w i => (s.updWarp i.u (fun x => x.unspawn (i.raising w (r s w)))).lanesTo i.u (i.fpTrapped w (i.raising w (r s w)) (r s w)))

end Machine
end Sys2Proof
end

