-- ==== Sys2Proof/Certificates/Slice0/Obligations.lean ====
section
/-! DEFINITION. The statements for the provers, from the numbered rules of the spec: the machine as a whole first, then the instructions by
family, then the device events. Completes, Acts, FpActs, Did and Ready are Safety.lean's: an instruction that is ready ANSWERS A NEXT STATE,
which is the one written here but for the books of an issue, so each such statement is a completion, a result and a frame at once. -/

open Sys2Proof Sys2Proof.Machine

/-- R64 to R85: words written out from the encoding tables, those of the routine at the end of 05_scalar_instructions.md among them,
decode to the instructions that they stand for; patterns that no table assigns decode to none. -/
def Obligations.DecodedWords : Prop :=  (∀ p ∈ ([(0x21D1, 0x0288, .addw 8 ⟨8, false⟩ ⟨10, false⟩), (0x1861, 0x0144, .divS 6 ⟨4, false, false⟩ ⟨5, false, false⟩),
    (0x0855, 0x0000, .movlo 8 0), (0x0865, 0x0001, .movhi 8 4), (0xC029, 0x0000, .call 3 0), (0x0387, 0x0051, .ld 7 ⟨8, false⟩ 5 0),
    (0x0975, 0x0003, .cmpi 1 1 ⟨12, false⟩ 0)] : List (BitVec 16 × BitVec 16 × Instr)), decode p.1 p.2.1 = some p.2.2) ∧
  (∀ p ∈ ([(0x001E, .exit16), (0x001A, .ret), (0x010E, .movi 4 0), (0x0A8E, .movi 10 1), (0x0002, .nop)] : List (BitVec 16 × Instr)),
    ∀ hi, decode p.1 hi = some p.2) ∧
  decode 0xFFFF 0xFFFF = none ∧ decode 0xFFFE 0x0000 = none

/-- R12, R13, R86, R151, R156: when the agent whose turn it is finds an instruction at the head of its frontier, the step is that
instruction's meaning with the agent acting, then the step's own end; where its fetch finds none, the fragment traps, or waits for a
parcel. -/
def Obligations.StepRunsInstruction : Prop := ∀ (s t : State) (u : Nat) (w : Warp) (h : Lane),
  s.fw.stopped = false → s.choose1 s.picks = (some (.agent u), t) → Map.get? t.warps u = some w → w.head = some h →
  let a : State := { t with cur := some u }
  { t with plan := s.plan } = s ∧ t.warps = s.warps ∧
  (∀ i, a.fetch w h = .instr i → step s = settled (exec i a)) ∧
  (a.fetch w h = .outside ∨ a.fetch w h = .prefixError → step s = settled (.next (a.fetchTrap u w h 0x01 0))) ∧
  (a.fetch w h = .absent → step s = settled (.next (a.fetchTrap u w h 0x06 h.pc))) ∧
  (a.fetch w h = .loading → step s = settled (.next a)) ∧
  (∀ n, a.fetch w h = .undefined n → step s = settled (.next (a.issueBy u w { wlen := n, lpb := 0 } (fun _ _ => trap1 0x01)))) ∧
  (∀ (p : Parcel) (off : Nat) (lo hi : BitVec 16) (r : List (BitVec 16)) (i : Instr), 2 ≤ p.state →
    (p.code.drop off = lo :: hi :: r → lo.getLsbD 0 = true → decode lo hi = some i → p.fetchAt off = .instr i) ∧
    (p.code.drop off = lo :: r → lo.getLsbD 0 = false → decode lo 0 = some i → p.fetchAt off = .instr i) ∧
    (p.code.drop off = [] → p.fetchAt off = .outside) ∧
    (p.code.drop off = [lo] → lo.getLsbD 0 = true → p.fetchAt off = .outside) ∧
    (p.code.drop off = lo :: hi :: r → lo.getLsbD 0 = true → decode lo hi = none → p.fetchAt off = .undefined 2)) ∧
  (∀ (o : Out) (x : State), o = .next x → settled o = .next x.settle ∧ x.settle.mem = x.mem ∧ x.settle.warps = x.warps ∧ x.settle.reqs = x.reqs ∧
    x.settle.choice = x.choice + 1)

/-- R9, R149, R152, R179, R195, R337, R424: what reset and every start leave. The clock stands at 1.3 GHz, no agent runs, memory has its
canonical form; a core that comes online has banks 0 to 31 as CACHE and 32 to 36 as SCRATCH, empty; a lane starts with every register 0
and full. That memory reads 0 where nothing has written it is the model's choice (log entry 1). -/
def Obligations.ResetState : Prop :=  State.reset.memOk ∧ State.reset.driven ∧ State.reset.namesOk ∧ State.reset.warps = [] ∧ State.reset.grids = [] ∧ State.reset.reqs = [] ∧ State.reset.tick = 0 ∧
  State.reset.fw.clockMhz = 1300 ∧ State.reset.fw.booted = false ∧ (∀ k, State.reset.byte k = 0) ∧ State.reset.runs ∧
  (∀ k, (Core.fresh.bankOf k).mode = if k < 32 then 0 else 1) ∧ Core.fresh.online = true ∧ Core.fresh.l1 = [] ∧ Core.fresh.parcels = [] ∧
  (∀ (pc : Word) (prio : BitVec 6) (r : Nat), let k := Lane.start pc prio
    k.cell r = ⟨0, .full⟩ ∧ k.p = 0 ∧ k.pc = pc ∧ k.prio = prio ∧ k.lprio = 0 ∧ k.fpctl = 0 ∧ k.helper = false) ∧
  (∀ (w : Warp) (j : Nat), Map.getD (Warp.start w.kind w.core w.ctx w.block w.wix w.stamp w.lanes).joins j 0 = 0)

/-- R64 to R85: decoding the halfwords of a well-formed instruction gives it back, with every operand at every value, whatever follows a
16-bit form. -/
def Obligations.EncodeDecode : Prop := ∀ i : Instr, i.wf = true →
  (∃ lo hi, encode i = [lo, hi] ∧ decode lo hi = some i) ∨ (∃ lo, encode i = [lo] ∧ ∀ hi, decode lo hi = some i)

/-- R64 to R85: what decodes is well-formed and has just the word it was read from: no bit is dropped, and no two patterns mean the same
instruction. -/
def Obligations.DecodeEncode : Prop := ∀ (lo hi : BitVec 16) (i : Instr), decode lo hi = some i →
  i.wf = true ∧ encode i = if lo.getLsbD 0 then [lo, hi] else [lo]

/-- R17, R20, R86 (every step of the model): a machine whose outside world makes device events only never stops: each step answers a next
state, whose outside world makes device events only. -/
def Obligations.EveryStepRuns : Prop := ∀ s : State, s.driven → s.runs ∧ ∀ t, step s = .next t → t.driven

/-- R6, R15, R226, R235, R398 (the canonical form of memory that the model keeps): a step from a state whose memory is in its form ends in
one. R188 (the names that the model gives grids): a step from a state whose grids stand under names given out before, rising, ends in one,
so that a new handle names no other grid. -/
def Obligations.MemoryFormKept : Prop :=
  (∀ s t : State, s.memOk → step s = .next t → t.memOk) ∧
  (∀ s t : State, s.namesOk → step s = .next t → t.namesOk)

/-- R6, R15: a byte reads as it was last written, whatever else is written elsewhere; values lie with their low byte at the lowest
address; each operation that writes memory keeps its form. -/
def Obligations.MemoryCells : Prop := ∀ (s : State) (k j n : Nat) (v : Byte) (bs : List Byte) (x : Nat) (cells : Map Byte),
  (isSp k = false → (s.setByte k v).byte k = v) ∧
  (isSp k = true → Map.has s.blocks (spBlock k) = true → (s.setByte k v).byte k = v) ∧
  (k ≠ j → (s.setByte k v).byte j = s.byte j) ∧
  (∀ y, bs[n]? = some y → k + bs.length ≤ 2 ^ 48 → (s.setBytes (cellsAt k bs)).byte (k + n) = y) ∧
  (j < k ∨ k + bs.length ≤ j → (s.setBytes (cellsAt k bs)).byte j = s.byte j) ∧
  (j < n → (leBytes n x)[j]? = some (BitVec.ofNat 8 (x / 256 ^ j))) ∧
  leNat (leBytes n x) = x % 256 ^ n ∧
  (s.memOk → (s.setByte k v).memOk ∧ (s.setBytes cells).memOk ∧ (s.setHost cells).memOk ∧ (s.toArray cells).memOk ∧ (s.copyPage k j).memOk)

/-- R18 to R21, R67, R85, R86, R157: what keeps an instruction of any meaning from its effect, in the order of the checks: a guard that
lets no lane take part (the lanes move on), an illegal form (ILLEGAL), a special of the handler (PRIVILEGE), then source by source in
field order an orphaned one (ORPHANED), or an empty one whose e-bit is set (EMPTY_READ), then an empty register that it names (it waits,
and out of the active set where a source's wait is long). That an instruction that acts once for the warp moves on too where its guard
lets only helper lanes take part is the model's reading (log entry 15). -/
def Obligations.IssueChecks : Prop := ∀ (s : State) (u : Nat) (w : Warp) (h : Lane) (n : Need) (k : Iss → State → Eff),
  let i := w.iss u h n.wlen
  let quiet (o : Opd) : Prop := match o with
    | .scope _ => True
    | .regs rs e => ∀ l ∈ i.n, ∀ r ∈ rs, ((w.lane l).cell r).fe ≠ .orphan ∧ (e = true → ∀ b, ((w.lane l).cell r).fe ≠ .empty b)
  s.acts u w → w.busy = false → w.head = some h → (∀ j < 8, i.wait.getLsbD j = true → w.tokBusy j = false) →
  (i.act = [] ∨ (n.perWarp = true ∧ i.n = []) → (s.core w.core).trace = none →
    ∃ t, issue s n k = .next t ∧ State.Alike (s.lanesTo u (i.ran (fun _ y => y))) t) ∧
  (i.n ≠ [] → s.illegal w i n = true → issue s n k = .next (s.fragTrap i 0x01 (fun _ => ⟨0x01, 0, 0⟩))) ∧
  (i.n ≠ [] → s.illegal w i n = false → n.handler = true → i.handler = false →
    issue s n k = .next (s.fragTrap i 0x18 (fun _ => ⟨0x18, 0, 0⟩))) ∧
  (i.n ≠ [] → s.illegal w i n = false → (n.handler = true → i.handler = true) → (n.atHead = true → s.waitingTasks w i.act = []) → w.qmaps = [] →
    (∀ os rs e os' r l, n.srcs = os ++ .regs rs e :: os' → (∀ o ∈ os, quiet o) → r ∈ rs → l ∈ i.n → ((w.lane l).cell r).fe = .orphan →
      issue s n k = .next (s.fragTrap i 0x03 (fun _ => ⟨0x03, 0, 0⟩))) ∧
    (∀ os rs os' r l b, n.srcs = os ++ .regs rs true :: os' → (∀ o ∈ os, quiet o) → quiet (.regs rs false) → r ∈ rs → l ∈ i.n →
      ((w.lane l).cell r).fe = .empty b → issue s n k = .next (s.fragTrap i 0x02 (fun _ => ⟨0x02, 0, 0⟩))) ∧
    ((∀ o ∈ n.srcs, quiet o) → (∀ r l, l ∈ i.n → r ∈ n.also l (w.lane l) → ((w.lane l).cell r).fe = .orphan →
      issue s n k = .next (s.fragTrap i 0x03 (fun _ => ⟨0x03, 0, 0⟩)))) ∧
    ((∀ o ∈ n.srcs, quiet o) → (∀ x y, n.also x y = []) → (n.mem = true → w.acquiring = false) →
      (∀ r l, (∀ l ∈ i.act, ∀ r ∈ n.names, ((w.lane l).cell r).fe ≠ .empty true) → r ∈ n.names → l ∈ i.act → ((w.lane l).cell r).fe = .empty false →
        issue s n k = .next s) ∧
      (∀ rs e r l, Opd.regs rs e ∈ n.srcs → r ∈ rs → l ∈ i.act → ((w.lane l).cell r).fe = .empty true →
        ∃ t, issue s n k = .next t ∧ (t.warp u).lanes = w.lanes ∧ (t.core w.core).active.contains u = false ∧ t.mem = s.mem ∧ t.reqs = s.reqs))) ∧
  (∀ os rs e os' r, n.srcs = os ++ .regs rs e :: os' → r ∈ rs → nameable (s.nregs w) r = false → s.illegal w i n = true)

/-- R21, R24, R359 to R361, R364: a trap before or at issue takes every lane of the fragment whose guard lets it take part, the others
moving on. A trap of an ordinary fragment saves cause, address, lanes, place and detail in each of its lanes, with where they resume, and
sends them as one fragment to the cause's handler at priority 63; a helper lane never traps (R358); in a handler fragment it ends the
grid, or halts the scalar control core. RETT goes back. -/
def Obligations.TrapEntry : Prop := ∀ (s : State) (u cause : Nat) (w : Warp) (ls : List Nat) (f : Nat → Trap) (tpc : Word)
    (resume : Lane → Resume) (l : Nat) (k : Lane), Map.get? s.warps u = some w →
  (w.isAe = false → Map.get? w.lanes l = some k →
    let t := s.takeTrap u false ls cause f tpc resume
    (l ∈ ls → k.helper = false → (t.warp u).lane l = { k with
      tcause := BitVec.ofNat 32 cause, taddr := (f l).addr, tinfo := (f l).info, tpc := tpc, tlanes := maskOf ls
      resumePc := (resume k).pc, resumePrio := (resume k).prio, resumePast := (resume k).past, asked := none
      pc := BitVec.ofNat 32 ((Config.runtimeSlot cause).toNat % 65536), past := false, prio := 63, place := .frontier
      frag := 1 + (ls.filter (fun j => !(w.lane j).helper)).headD 0 }) ∧
    (l ∉ ls ∨ k.helper = true → (t.warp u).lane l = k) ∧ t.mem = s.mem ∧ t.blocks = s.blocks) ∧
  (∀ c, w.kind = .scc c → s.takeTrap u true ls cause f tpc resume = s.haltScc u c ∧ c ∈ (s.haltScc u c).sccHalted) ∧
  (w.kind = .warp → s.takeTrap u true ls cause f tpc resume = s.kill (s.gridOf w) 2 cause) ∧
  (∀ i : Iss, i.n ≠ [] → cause ≠ 0x12 → cause ≠ 0x13 → s.fragTrap i cause f =
    (s.lanesTo i.u i.rest).takeTrap i.u i.handler i.act cause f i.pc (fun k => ⟨i.pc, i.prio, k.past⟩)) ∧
  k.rett = { k with pc := k.resumePc, past := k.resumePast, prio := k.resumePrio, frag := if k.resumePrio = 63 then k.frag else 0 }

/-- R92: ADD, SUB, MUL, MULH, MAD, MIN, MAX and ABS complete with the value that the rule gives in d, in every active lane. -/
def Obligations.IntegerArithmetic : Prop := ∀ (d : BitVec 6) (a b : Src),
  let n2 : Need := { srcs := [a.opd, b.opd], dsts := [d.toNat] }
  let res (v : Word → Word → Word) := fun (s : State) (w : Warp) (l : Nat) (k : Lane) => k.put d.toNat (v (s.get w l k a) (s.get w l k b))
  Acts (.add d a b) n2 (res (fun x y => BitVec.ofNat 32 (x.toNat + y.toNat))) ∧
  Acts (.sub d a b) n2 (res (fun x y => BitVec.ofInt 32 (x.toInt - y.toInt))) ∧
  Acts (.mul d a b) n2 (res (fun x y => BitVec.ofNat 32 (x.toNat * y.toNat))) ∧
  Acts (.mulhS d a b) n2 (res (fun x y => BitVec.extractLsb' 32 32 (BitVec.ofInt 64 (x.toInt * y.toInt)))) ∧
  Acts (.mulhZ d a b) n2 (res (fun x y => BitVec.extractLsb' 32 32 (BitVec.ofNat 64 (x.toNat * y.toNat)))) ∧
  Acts (.mad d a b) { srcs := [a.opd, b.opd, .regs [d.toNat] false], dsts := [d.toNat] } (fun s w l k =>
    k.put d.toNat (BitVec.ofNat 32 ((s.get w l k a).toNat * (s.get w l k b).toNat + (k.val d.toNat).toNat))) ∧
  Acts (.minS d a b) n2 (res (fun x y => BitVec.ofInt 32 (min x.toInt y.toInt))) ∧
  Acts (.maxS d a b) n2 (res (fun x y => BitVec.ofInt 32 (max x.toInt y.toInt))) ∧
  Acts (.minZ d a b) n2 (res (fun x y => BitVec.ofNat 32 (min x.toNat y.toNat))) ∧
  Acts (.maxZ d a b) n2 (res (fun x y => BitVec.ofNat 32 (max x.toNat y.toNat))) ∧
  Acts (.absS d a) { srcs := [a.opd], dsts := [d.toNat] } (fun s w l k =>
    k.put d.toNat (if (s.get w l k a).toInt < 0 then 0 - s.get w l k a else s.get w l k a))

/-- R93: the quotient is truncated toward zero, the remainder takes the sign of the dividend, and division by zero and the overflowing
case have the results that the rule gives; nothing traps. -/
def Obligations.IntegerDivision : Prop := ∀ (d : BitVec 6) (a b : Src),
  let n : Need := { srcs := [a.opd, b.opd], dsts := [d.toNat] }
  let res (v : Word → Word → Word) := fun (s : State) (w : Warp) (l : Nat) (k : Lane) => k.put d.toNat (v (s.get w l k a) (s.get w l k b))
  Acts (.divZ d a b) n (res (fun x y => if y = 0 then 0xFFFFFFFF else BitVec.ofNat 32 (x.toNat / y.toNat))) ∧
  Acts (.remZ d a b) n (res (fun x y => if y = 0 then x else BitVec.ofNat 32 (x.toNat % y.toNat))) ∧
  Acts (.divS d a b) n (res (fun x y =>
    if y = 0 then 0xFFFFFFFF
    else if x = 0x80000000 ∧ y = 0xFFFFFFFF then 0x80000000
    else BitVec.ofInt 32 (x.toInt.tdiv y.toInt))) ∧
  Acts (.remS d a b) n (res (fun x y =>
    if y = 0 then x
    else if x = 0x80000000 ∧ y = 0xFFFFFFFF then 0
    else BitVec.ofInt 32 (x.toInt - y.toInt * x.toInt.tdiv y.toInt)))

/-- R94: the logic operations, and the shifts by B[4:0]. -/
def Obligations.LogicAndShifts : Prop := ∀ (d : BitVec 6) (a b : Src),
  let n : Need := { srcs := [a.opd, b.opd], dsts := [d.toNat] }
  let res (v : Word → Word → Word) := fun (s : State) (w : Warp) (l : Nat) (k : Lane) => k.put d.toNat (v (s.get w l k a) (s.get w l k b))
  let c (y : Word) : Nat := (y.extractLsb' 0 5).toNat
  Acts (.and d a b) n (res (fun x y => x &&& y)) ∧
  Acts (.or d a b) n (res (fun x y => x ||| y)) ∧
  Acts (.xor d a b) n (res (fun x y => x ^^^ y)) ∧
  Acts (.andn d a b) n (res (fun x y => x &&& ~~~ y)) ∧
  Acts (.shl d a b) n (res (fun x y => BitVec.ofNat 32 (x.toNat * 2 ^ c y))) ∧
  Acts (.shr d a b) n (res (fun x y => BitVec.ofNat 32 (x.toNat / 2 ^ c y))) ∧
  Acts (.sra d a b) n (res (fun x y => BitVec.ofInt 32 (x.toInt / 2 ^ c y))) ∧
  Acts (.rol d a b) n (res (fun x y => (x <<< c y) ||| (x >>> (32 - c y))))

/-- R95: POPC, CLZ, BREV, and the bit fields at B[4:0] of length B[10:5], clipped at bit 31. -/
def Obligations.BitFields : Prop := ∀ (d : BitVec 6) (a b : Src),
  let n1 : Need := { srcs := [a.opd], dsts := [d.toNat] }
  let n2 : Need := { srcs := [a.opd, b.opd], dsts := [d.toNat] }
  let pos (y : Word) : Nat := y.toNat % 32
  let len (y : Word) : Nat := min (y.toNat / 32 % 64) (32 - pos y)
  let one (v : Word → Word) := fun (s : State) (w : Warp) (l : Nat) (k : Lane) => k.put d.toNat (v (s.get w l k a))
  Acts (.popc d a) n1 (one (fun x => BitVec.ofNat 32 ((List.range 32).countP (fun i => x.getLsbD i)))) ∧
  Acts (.clz d a) n1 (one (fun x => BitVec.ofNat 32 (((List.range 32).reverse.takeWhile (fun i => !x.getLsbD i)).length))) ∧
  (∃ v : Word → Word, (∀ x i, i < 32 → (v x).getLsbD i = x.getLsbD (31 - i)) ∧ Acts (.brev d a) n1 (one v)) ∧
  Acts (.bfxZ d a b) n2 (fun s w l k => k.put d.toNat
    (BitVec.ofNat 32 ((s.get w l k a).toNat / 2 ^ pos (s.get w l k b) % 2 ^ len (s.get w l k b)))) ∧
  Acts (.bfxS d a b) n2 (fun s w l k => k.put d.toNat
    (BitVec.ofInt 32 (BitVec.ofNat (len (s.get w l k b)) ((s.get w l k a).toNat / 2 ^ pos (s.get w l k b))).toInt)) ∧
  (∃ v : Word → Word → Word → Word,
    (∀ x y c i, i < 32 → (v x y c).getLsbD i =
      if pos y ≤ i ∧ i < pos y + len y then x.getLsbD (i - pos y) else c.getLsbD i) ∧
    Acts (.bfi d a b) { srcs := [a.opd, b.opd, .regs [d.toNat] false], dsts := [d.toNat] } (fun s w l k =>
      k.put d.toNat (v (s.get w l k a) (s.get w l k b) (k.val d.toNat))))

/-- R96: the pair instructions; a pair holds its low word in the even register. -/
def Obligations.PairArithmetic : Prop := ∀ (d : BitVec 6) (a b : RegE) (c e : Src),
  let two (r : RegE) : Opd := .regs [r.r.toNat, r.r.toNat + 1] r.e
  let dst : List Nat := [d.toNat, d.toNat + 1]
  let v (k : Lane) (r : RegE) : BitVec 64 := k.val (r.r.toNat + 1) ++ k.val r.r.toNat
  let res (k : Lane) (x : BitVec 64) : Lane := (k.put d.toNat (x.setWidth 32)).put (d.toNat + 1) ((x >>> 32).setWidth 32)
  let n (s : State) (w : Warp) (l : Nat) (k : Lane) : Nat := (s.get w l k c).toNat % 64
  Acts (.addw d a b) { srcs := [two a, two b], dsts := dst } (fun _ _ _ k => res k (v k a + v k b)) ∧
  Acts (.subw d a b) { srcs := [two a, two b], dsts := dst } (fun _ _ _ k => res k (v k a - v k b)) ∧
  Acts (.shlw d a c) { srcs := [two a, c.opd], dsts := dst } (fun s w l k => res k (v k a <<< n s w l k)) ∧
  Acts (.shrw d a c) { srcs := [two a, c.opd], dsts := dst } (fun s w l k => res k (v k a >>> n s w l k)) ∧
  Acts (.sraw d a c) { srcs := [two a, c.opd], dsts := dst } (fun s w l k => res k ((v k a).sshiftRight (n s w l k))) ∧
  Acts (.mulwS d c e) { srcs := [c.opd, e.opd], dsts := dst } (fun s w l k =>
    res k (BitVec.ofInt 64 ((s.get w l k c).toInt * (s.get w l k e).toInt))) ∧
  Acts (.mulwZ d c e) { srcs := [c.opd, e.opd], dsts := dst } (fun s w l k =>
    res k (BitVec.ofNat 64 ((s.get w l k c).toNat * (s.get w l k e).toNat)))

/-- R97, R98, R101: comparisons and truth values. The result goes to pd by PutP, which discards it for p7; P(p7) is 1. R99, R100, R102:
the immediates, MOVLO and MOVHI, and SEL, which reads both sources. -/
def Obligations.PredicatesAndImmediates : Prop :=
  (∀ (c p q r : BitVec 3) (d : BitVec 6) (a b : Src) (x y : RegE) (i : BitVec 11),
  let v (k : Lane) (r : RegE) : BitVec 64 := k.val (r.r.toNat + 1) ++ k.val r.r.toNat
  let two (r : RegE) : Opd := .regs [r.r.toNat, r.r.toNat + 1] r.e
  let holds (x y : Int) : Bool := if c = 0 then x == y else if c = 1 then x != y else if c = 2 then x < y else if c = 3 then x ≤ y
    else if c = 4 then y < x else y ≤ x
  let K : Word := BitVec.ofInt 32 i.toInt
  Acts (.cmpS c p a b) { srcs := [a.opd, b.opd] } (fun s w l k => k.putP p (holds (s.get w l k a).toInt (s.get w l k b).toInt)) ∧
  Acts (.cmpZ c p a b) { srcs := [a.opd, b.opd] } (fun s w l k => k.putP p (holds (s.get w l k a).toNat (s.get w l k b).toNat)) ∧
  Acts (.cmpwS c p x y) { srcs := [two x, two y] } (fun _ _ _ k => k.putP p (holds (v k x).toInt (v k y).toInt)) ∧
  Acts (.cmpwZ c p x y) { srcs := [two x, two y] } (fun _ _ _ k => k.putP p (holds (v k x).toNat (v k y).toNat)) ∧
  Acts (.cmpi c p x i) { srcs := [x.opd] } (fun _ _ _ k =>
    let A : Word := k.val x.r.toNat
    k.putP p (match c with
      | 0 => A == K | 1 => A != K | 2 => decide (A.toInt < K.toInt) | 3 => decide (K.toInt ≤ A.toInt)
      | 4 => decide (A.toNat < K.toNat) | 5 => decide (K.toNat ≤ A.toNat) | 6 => decide (A.toInt ≤ K.toInt) | _ => decide (K.toInt < A.toInt))) ∧
  Acts (.plog c p r q) {} (fun _ _ _ k => k.putP p (match c with
      | 0 => k.pred r && k.pred q | 1 => k.pred r || k.pred q | 2 => k.pred r ^^ k.pred q | 3 => k.pred r && !k.pred q
      | 4 => !(k.pred r && k.pred q) | 5 => !(k.pred r || k.pred q) | _ => !(k.pred r ^^ k.pred q))) ∧
  Acts (.ptox d r) { dsts := [d.toNat] } (fun _ _ _ k => k.put d.toNat (if k.pred r then 1 else 0)) ∧
  Acts (.xtop p a) { srcs := [a.opd] } (fun s w l k => k.putP p (s.get w l k a != 0)) ∧
  (∀ (k : Lane) (t : Bool) (j : BitVec 3), k.pred 7 = true ∧ (k.putP 7 t) = k ∧
    (p ≠ 7 → (k.putP p t).pred j = if j = p then t else k.pred j))) ∧
  (∀ (d : BitVec 6) (a b : RegE) (i : BitVec 11) (h : BitVec 16) (kind : BitVec 2) (n : BitVec 5)
    (p : BitVec 3) (neg : Bool),
  let nd : Need := { srcs := [.regs [a.r.toNat] a.e], dsts := [d.toNat] }
  let K : Word := BitVec.ofInt 32 i.toInt
  let res (v : Word → Word) := fun (_ : State) (_ : Warp) (_ : Nat) (k : Lane) => k.put d.toNat (v (k.val a.r.toNat))
  Acts (.addi d a i) nd (res (fun x => x + K)) ∧
  Acts (.andi d a i) nd (res (fun x => x &&& K)) ∧
  Acts (.ori d a i) nd (res (fun x => x ||| K)) ∧
  Acts (.xori d a i) nd (res (fun x => x ^^^ K)) ∧
  Acts (.muli d a i) nd (res (fun x => x * K)) ∧
  Acts (.shi d a kind n) nd (res (fun x => match kind with
    | 0 => x <<< n.toNat | 1 => x >>> n.toNat | 2 => x.sshiftRight n.toNat | _ => (x <<< n.toNat) ||| (x >>> (32 - n.toNat)))) ∧
  Acts (.movlo d h) { dsts := [d.toNat] } (fun _ _ _ k => k.put d.toNat (BitVec.ofNat 32 h.toNat)) ∧
  Acts (.movhi d h) { srcs := [.regs [d.toNat] false], dsts := [d.toNat] } (fun _ _ _ k =>
    k.put d.toNat (h ++ (k.val d.toNat).extractLsb' 0 16)) ∧
  Acts (.sel d a b p neg) { srcs := [a.opd, b.opd], dsts := [d.toNat] } (fun _ _ _ k =>
    k.put d.toNat (if k.pred p ^^ neg then k.val a.r.toNat else k.val b.r.toNat)))

/-- R117: the 16-bit integer forms, whose sources always wait: d is the first source and the destination. R117: the 16-bit floating forms
are the F32 operations on d and b, with d as first source and destination. -/
def Obligations.HalfwordForms : Prop :=
  (∀ (d b i : BitVec 5),
  let w1 (r : BitVec 5) : Opd := .regs [r.toNat] false
  let n : Need := { srcs := [w1 d, w1 b], dsts := [d.toNat], wlen := 1 }
  let res (v : Word → Word → Word) := fun (_ : State) (_ : Warp) (_ : Nat) (k : Lane) => k.put d.toNat (v (k.val d.toNat) (k.val b.toNat))
  let c (y : Word) : Nat := y.toNat % 32
  Acts (.mov16 d b) { srcs := [w1 b], dsts := [d.toNat], wlen := 1 } (fun _ _ _ k => k.put d.toNat (k.val b.toNat)) ∧
  Acts (.add16 d b) n (res (fun x y => x + y)) ∧
  Acts (.sub16 d b) n (res (fun x y => x - y)) ∧
  Acts (.mul16 d b) n (res (fun x y => x * y)) ∧
  Acts (.and16 d b) n (res (fun x y => x &&& y)) ∧
  Acts (.or16 d b) n (res (fun x y => x ||| y)) ∧
  Acts (.xor16 d b) n (res (fun x y => x ^^^ y)) ∧
  Acts (.andn16 d b) n (res (fun x y => x &&& ~~~ y)) ∧
  Acts (.shl16 d b) n (res (fun x y => x <<< c y)) ∧
  Acts (.shr16 d b) n (res (fun x y => x >>> c y)) ∧
  Acts (.sra16 d b) n (res (fun x y => x.sshiftRight (c y))) ∧
  Acts (.movi d i) { dsts := [d.toNat], wlen := 1 } (fun _ _ _ k => k.put d.toNat (BitVec.ofInt 32 i.toInt)) ∧
  Acts (.addi16 d i) { srcs := [w1 d], dsts := [d.toNat], wlen := 1 } (fun _ _ _ k =>
    k.put d.toNat (k.val d.toNat + BitVec.ofInt 32 i.toInt))) ∧
  (∀ (d b : BitVec 5),
  let n : Need := { srcs := [.regs [d.toNat] false, .regs [b.toNat] false], dsts := [d.toNat], wlen := 1, ae := false }
  let res (f : FEnv → Nat → Nat → FRes) := fun (_ : State) (_ : Warp) (_ : Nat) (k : Lane) =>
    (k.put d.toNat (BitVec.ofNat 32 (f k.env (k.val d.toNat).toNat (k.val b.toNat).toNat).bits),
      (f k.env (k.val d.toNat).toNat (k.val b.toNat).toNat).flags)
  FpActs (.fadd16 d b) n (res f32.add) ∧ FpActs (.fsub16 d b) n (res f32.sub) ∧ FpActs (.fmul16 d b) n (res f32.mul) ∧
  FpActs (.fmin16 d b) n (res (fun e => f32.minmax e.daz false)) ∧ FpActs (.fmax16 d b) n (res (fun e => f32.minmax e.daz true)))

/-- R121 to R124: the F32 and F64 instructions complete with the correctly rounded result in d, or the comparison in pd, and their flags
sticky in each lane's fpctl, when no lane raises a flag whose trap is enabled. The operations are those of the model's number formats.
R29, R30, R32, R34: rounding to F64, F32, F16 and BF16. The exact value (−1)^neg × m × 2^x, plus a part below m's last bit when sticky,
lies from pattern lo up to the next, of magnitudes ml and ml + 1 in units of 2^xl. The result is the one or the other by the mode: the
nearer, on a tie the even one; toward zero; toward −∞; toward +∞. It raises nx where it is inexact, uf where it is also tiny: rounded with
an unbounded exponent it stays below the smallest normal. Past the largest finite value the mode decides, with of and nx. With ftz a
result that would be subnormal is a zero of its sign, with uf and nx. R27, R31 to R33, R36, R41: special values of F32: an operand NaN
gives the canonical NaN, whatever its sign and payload; ∞ − ∞, 0 × ∞ and 0 ÷ 0 give it with nv; x ÷ 0 gives ∞ of the product sign with dz;
x − x is +0, and −0 under RDN; √−0 is −0 and the root of a value below it a NaN with nv; 0 × ∞ + c is one whatever c is; FMIN and FMAX
take −0 for less than +0, and the other operand of a NaN; CVT to an integer gives 0 for a NaN and the format's end for an infinity, with
nv; SCALE by 0xFF gives a NaN with nv, by 127 its operand. -/
def Obligations.FloatResults : Prop :=
  (∀ (d : BitVec 6) (a b : Src) (x y : RegE) (c p : BitVec 3),
  let n1 (beats : Nat) : Need := { srcs := [a.opd], dsts := [d.toNat], lpb := beats, ae := false }
  let n2 (beats : Nat) : Need := { srcs := [a.opd, b.opd], dsts := [d.toNat], lpb := beats, ae := false }
  let n3 : Need := { srcs := [a.opd, b.opd, .regs [d.toNat] false], dsts := [d.toNat], ae := false }
  let w1 (beats : Nat) : Need := { srcs := [x.opd2], dsts := [d.toNat, d.toNat + 1], lpb := beats, ae := false }
  let w2 (beats : Nat) : Need := { srcs := [x.opd2, y.opd2], dsts := [d.toNat, d.toNat + 1], lpb := beats, ae := false }
  let w3 : Need := { srcs := [x.opd2, y.opd2, .regs [d.toNat, d.toNat + 1] false], dsts := [d.toNat, d.toNat + 1], ae := false }
  let A (s : State) (w : Warp) (l : Nat) (k : Lane) : Nat := (s.get w l k a).toNat
  let B (s : State) (w : Warp) (l : Nat) (k : Lane) : Nat := (s.get w l k b).toNat
  let P (k : Lane) (r : BitVec 6) : Nat := (k.pairVal r).toNat
  let res (k : Lane) (r : FRes) : Lane × Flags := (k.put d.toNat (BitVec.ofNat 32 r.bits), r.flags)
  let to2 (k : Lane) (r : FRes) : Lane × Flags := (k.putPair d.toNat (BitVec.ofNat 64 r.bits), r.flags)
  let f1 (f : FEnv → Nat → FRes) (s : State) (w : Warp) (l : Nat) (k : Lane) := res k (f k.env (A s w l k))
  let f2 (f : FEnv → Nat → Nat → FRes) (s : State) (w : Warp) (l : Nat) (k : Lane) := res k (f k.env (A s w l k) (B s w l k))
  let f3 (f : FEnv → Nat → Nat → Nat → FRes) (s : State) (w : Warp) (l : Nat) (k : Lane) :=
    res k (f k.env (A s w l k) (B s w l k) (k.val d.toNat).toNat)
  let g1 (f : FEnv → Nat → FRes) (_ : State) (_ : Warp) (_ : Nat) (k : Lane) := to2 k (f k.env (P k x.r))
  let g2 (f : FEnv → Nat → Nat → FRes) (_ : State) (_ : Warp) (_ : Nat) (k : Lane) := to2 k (f k.env (P k x.r) (P k y.r))
  let g3 (f : FEnv → Nat → Nat → Nat → FRes) (_ : State) (_ : Warp) (_ : Nat) (k : Lane) := to2 k (f k.env (P k x.r) (P k y.r) (P k d))
  (FpActs (.fadd d a b) (n2 8) (f2 f32.add) ∧ FpActs (.fsub d a b) (n2 8) (f2 f32.sub) ∧ FpActs (.fmul d a b) (n2 8) (f2 f32.mul) ∧
    FpActs (.fdiv d a b) (n2 2) (f2 f32.div) ∧ FpActs (.ffma d a b) n3 (f3 (fun e => f32.fma e false)) ∧
    FpActs (.ffms d a b) n3 (f3 (fun e => f32.fma e true)) ∧ FpActs (.fmin d a b) (n2 8) (f2 (fun e => f32.minmax e.daz false)) ∧
    FpActs (.fmax d a b) (n2 8) (f2 (fun e => f32.minmax e.daz true)) ∧ FpActs (.fsqrt d a) (n1 2) (f1 f32.sqrt) ∧
    FpActs (.frcp d a) (n1 4) (f1 frcp) ∧ FpActs (.frsq d a) (n1 4) (f1 frsq) ∧ FpActs (.fex2 d a) (n1 4) (f1 fex2) ∧
    FpActs (.flg2 d a) (n1 4) (f1 flg2) ∧ FpActs (.fabs d a) (n1 8) (f1 (fun e x => ⟨f32.absneg e.daz false x, 0⟩)) ∧
    FpActs (.fneg d a) (n1 8) (f1 (fun e x => ⟨f32.absneg e.daz true x, 0⟩)) ∧
    FpActs (.fcmp c p a b) { srcs := [a.opd, b.opd], ae := false } (fun s w l k =>
      (k.putP p (f32.cmp k.env.daz c (A s w l k) (B s w l k)).1, (f32.cmp k.env.daz c (A s w l k) (B s w l k)).2)) ∧
    Acts (.fclass d a) (n1 8) (fun s w l k => k.put d.toNat (BitVec.ofNat 32 (fclass (A s w l k))))) ∧
  (FpActs (.dadd d x y) (w2 8) (g2 f64.add) ∧ FpActs (.dsub d x y) (w2 8) (g2 f64.sub) ∧ FpActs (.dmul d x y) (w2 8) (g2 f64.mul) ∧
    FpActs (.ddiv d x y) (w2 2) (g2 f64.div) ∧ FpActs (.dfma d x y) w3 (g3 (fun e => f64.fma e false)) ∧
    FpActs (.dfms d x y) w3 (g3 (fun e => f64.fma e true)) ∧ FpActs (.dmin d x y) (w2 8) (g2 (fun e => f64.minmax e.daz false)) ∧
    FpActs (.dmax d x y) (w2 8) (g2 (fun e => f64.minmax e.daz true)) ∧ FpActs (.dsqrt d x) (w1 2) (g1 f64.sqrt) ∧
    FpActs (.dabs d x) (w1 8) (g1 (fun e v => ⟨f64.absneg e.daz false v, 0⟩)) ∧
    FpActs (.dneg d x) (w1 8) (g1 (fun e v => ⟨f64.absneg e.daz true v, 0⟩)) ∧
    FpActs (.dcmp c p x y) { srcs := [x.opd2, y.opd2], ae := false } (fun _ _ _ k =>
      (k.putP p (f64.cmp k.env.daz c (P k x.r) (P k y.r)).1, (f64.cmp k.env.daz c (P k x.r) (P k y.r)).2)))) ∧
  (∀ k ∈ [f64, f32, f16, bf16], ∀ (rm : Rm) (neg sticky : Bool) (m lo : Nat) (x : Int), 0 < m →
  (sticky = true → 2 ^ (k.f + 3) ≤ m) →
  let inf : Nat := (2 ^ k.e - 1) * 2 ^ k.f
  let lsb : Int := 2 - (2 ^ (k.e - 1) : Nat) - (k.f : Int)
  let sign : Nat := if neg then 2 ^ (k.e + k.f) else 0
  let large : FRes := ⟨sign + (match rm with
    | .rne => inf
    | .rtz => inf - 1
    | .rdn => if neg then inf else inf - 1
    | .rup => if neg then inf - 1 else inf), 20⟩
  let xl : Int := lsb + (lo / 2 ^ k.f - 1 : Nat)
  let ml : Nat := lo % 2 ^ k.f + (if lo / 2 ^ k.f = 0 then 0 else 2 ^ k.f)
  let V : Nat := m * 2 ^ (x - min x xl).toNat
  let U : Nat := 2 ^ (xl - min x xl).toNat
  let rem : Nat := V - ml * U
  let inexact : Prop := rem ≠ 0 ∨ sticky = true
  let up : Prop := match rm with
    | .rne => U < 2 * rem ∨ (2 * rem = U ∧ (sticky = true ∨ lo % 2 = 1))
    | .rtz => False
    | .rdn => neg = true ∧ inexact
    | .rup => neg = false ∧ inexact
  let tiny : Prop := lo + 1 < 2 ^ k.f ∨ (lo + 1 = 2 ^ k.f ∧ match rm with
    | .rne => 4 * V < (4 * ml + 3) * U
    | .rtz => True
    | .rdn => neg = true → 2 * V + sticky.toNat ≤ (2 * ml + 1) * U
    | .rup => neg = false → 2 * V + sticky.toNat ≤ (2 * ml + 1) * U)
  let result (b : Nat) : Prop :=
    let r := k.round rm false neg m x sticky
    r.bits = sign + b ∧ (r.flags.getLsbD 4 = true ↔ inexact) ∧ (r.flags.getLsbD 3 = true ↔ inexact ∧ tiny) ∧ r.flags &&& 7 = 0
  (lo < inf → ml * U ≤ V → V < (ml + 1) * U →
    (up → (lo + 1 < inf → result (lo + 1)) ∧ (lo + 1 = inf → k.round rm false neg m x sticky = large)) ∧ (¬ up → result lo)) ∧
  (lo = inf → ml * U ≤ V → ∀ ftz, k.round rm ftz neg m x sticky = large) ∧
  k.round rm true neg m x sticky =
    (if (k.round rm false neg m x sticky).bits ≠ sign ∧ (k.round rm false neg m x sticky).bits < sign + 2 ^ k.f then ⟨sign, 24⟩
      else k.round rm false neg m x sticky) ∧
  (∀ ftz, k.round rm ftz neg 0 x sticky = ⟨sign, 0⟩)) ∧
  (∀ (e : FEnv) (a b : Nat),
  let nan (x : Nat) : Prop := x / 2 ^ 23 % 256 = 255 ∧ x % 2 ^ 23 ≠ 0
  let inf (n : Nat) : Nat := n * 2 ^ 31 + 0x7F800000
  let finite (x : Nat) : Prop := x < 2 ^ 32 ∧ x / 2 ^ 23 % 256 ≠ 255
  let normal (x : Nat) : Prop := finite x ∧ x / 2 ^ 23 % 256 ≠ 0
  (nan a ∨ nan b → (f32.add e a b).bits = 0x7FC00000 ∧ (f32.mul e a b).bits = 0x7FC00000 ∧ (f32.div e a b).bits = 0x7FC00000) ∧
  f32.add e (inf 0) (inf 1) = ⟨0x7FC00000, 1⟩ ∧ f32.add e (inf 1) (inf 0) = ⟨0x7FC00000, 1⟩ ∧
  f32.mul e 0 (inf 0) = ⟨0x7FC00000, 1⟩ ∧ f32.div e 0 0 = ⟨0x7FC00000, 1⟩ ∧
  (normal a → f32.div e a 0 = ⟨inf (a / 2 ^ 31), 2⟩) ∧
  (finite a → f32.sub e a a = ⟨if e.rm = .rdn then 0x80000000 else 0, 0⟩) ∧
  f32.sqrt e 0x80000000 = ⟨0x80000000, 0⟩ ∧ f32.sqrt e 0 = ⟨0, 0⟩ ∧ f32.sqrt e (inf 0) = ⟨inf 0, 0⟩ ∧ f32.sqrt e (inf 1) = ⟨0x7FC00000, 1⟩ ∧
  (normal a → 2 ^ 31 ≤ a → f32.sqrt e a = ⟨0x7FC00000, 1⟩) ∧ (nan a → (f32.sqrt e a).bits = 0x7FC00000) ∧
  (∀ neg, f32.fma e neg (inf 0) 0 a = ⟨0x7FC00000, 1⟩ ∧ f32.fma e neg 0 (inf 1) a = ⟨0x7FC00000, 1⟩ ∧
    (nan a ∨ nan b → (f32.fma e neg a b 0).bits = 0x7FC00000 ∧ (f32.fma e neg 0 b a).bits = 0x7FC00000)) ∧
  f32.fma e true (inf 0) 0x3F800000 (inf 0) = ⟨0x7FC00000, 1⟩ ∧ f32.fma e false (inf 1) 0x3F800000 (inf 0) = ⟨0x7FC00000, 1⟩ ∧
  (∀ z, f32.minmax z false 0 0x80000000 = ⟨0x80000000, 0⟩ ∧ f32.minmax z false 0x80000000 0 = ⟨0x80000000, 0⟩ ∧
    f32.minmax z true 0 0x80000000 = ⟨0, 0⟩ ∧ f32.minmax z true 0x80000000 0 = ⟨0, 0⟩ ∧
    ∀ x, (nan a → normal b → (f32.minmax z x a b).bits = b ∧ (f32.minmax z x b a).bits = b) ∧
      (nan a → nan b → (f32.minmax z x a b).bits = 0x7FC00000)) ∧
  (∀ (r : BitVec 2) (s : Bool), (nan a → a < 2 ^ 32 → cvt e 2 0 r s a = ⟨0, 1⟩ ∧ cvt e 2 1 r s a = ⟨0, 1⟩) ∧
    cvt e 2 0 r s (inf 0) = ⟨0x7FFFFFFF, 1⟩ ∧ cvt e 2 0 r s (inf 1) = ⟨0x80000000, 1⟩ ∧
    cvt e 2 1 r s (inf 0) = ⟨0xFFFFFFFF, 1⟩ ∧ cvt e 2 1 r s (inf 1) = ⟨0, 1⟩) ∧
  fscale e a 255 = ⟨0x7FC00000, 1⟩ ∧ (normal a → fscale e a 127 = ⟨a, 0⟩) ∧ (∀ x < 255, fscale e (inf 0) x = ⟨inf 0, 0⟩ ∧
    fscale e (inf 1) x = ⟨inf 1, 0⟩ ∧ fscale e 0 x = ⟨0, 0⟩ ∧ (nan a → (fscale e a x).bits = 0x7FC00000)))

/-- R126 to R131: the packed 16-bit forms work on the halves of their operands and join their flags; CVT, SCALE, PKN and UPKN. R132, R43:
the integer dot products sum every signed product and the addend, wrapping; the floating ones round the exact sum of products and addend
once, to nearest, and raise no flag. -/
def Obligations.ConversionsAndDotProducts : Prop :=
  (∀ (d e g : BitVec 6) (a b : Src) (x y : RegE) (f t : BitVec 3) (r q pos nf : BitVec 2) (sat : Bool),
  let n2 : Need := { srcs := [a.opd, b.opd], dsts := [d.toNat], ae := false }
  let n3 : Need := { srcs := [a.opd, b.opd, .regs [d.toNat] false], dsts := [d.toNat], ae := false }
  let half (v : Word) (i : Nat) : Nat := (v.extractLsb' (16 * i) 16).toNat
  let join (k : Lane) (u v : FRes) : Lane × Flags := (k.put d.toNat (BitVec.ofNat 32 (u.bits + 65536 * v.bits)), u.flags ||| v.flags)
  let h2 (op : FEnv → Nat → Nat → FRes) (s : State) (w : Warp) (l : Nat) (k : Lane) :=
    let A := s.get w l k a; let B := s.get w l k b
    join k (op k.env (half A 0) (half B 0)) (op k.env (half A 1) (half B 1))
  let h3 (op : FEnv → Nat → Nat → Nat → FRes) (s : State) (w : Warp) (l : Nat) (k : Lane) :=
    let A := s.get w l k a; let B := s.get w l k b; let D := k.val d.toNat
    join k (op k.env (half A 0) (half B 0) (half D 0)) (op k.env (half A 1) (half B 1) (half D 1))
  FpActs (.hadd2 d a b) n2 (h2 f16.add) ∧ FpActs (.hmul2 d a b) n2 (h2 f16.mul) ∧ FpActs (.hfma2 d a b) n3 (h3 (fun e => f16.fma e false)) ∧
  FpActs (.badd2 d a b) n2 (h2 bf16.add) ∧ FpActs (.bmul2 d a b) n2 (h2 bf16.mul) ∧
  FpActs (.bfma2 d a b) n3 (h3 (fun e => bf16.fma e false)) ∧
  FpActs (.cvt d x f t r sat)
    { srcs := [if cvtWide f then x.opd2 else x.opd], dsts := if cvtWide t then [d.toNat, d.toNat + 1] else [d.toNat], ae := false } (fun _ _ _ k =>
      let v := cvt k.env f t r sat (if cvtWide f then (k.pairVal x.r).toNat else (k.val x.r.toNat).toNat)
      (if cvtWide t then k.putPair d.toNat (BitVec.ofNat 64 v.bits) else k.put d.toNat (BitVec.ofNat 32 v.bits), v.flags)) ∧
  FpActs (.scale d x y q) { srcs := [x.opd, y.opd], dsts := [d.toNat], ae := false } (fun _ _ _ k =>
    let v := fscale k.env (k.val x.r.toNat).toNat ((k.val y.r.toNat).extractLsb' (8 * q.toNat) 8).toNat
    (k.put d.toNat (BitVec.ofNat 32 v.bits), v.flags)) ∧
  Acts (.pkn d e g pos nf)
    { srcs := [if nf = 2 then .regs [e.toNat, e.toNat + 1] false else .regs [e.toNat] false, .regs [g.toNat] false], dsts := [d.toNat],
      ae := false } (fun _ _ _ k => k.put d.toNat (pkn nf pos (k.val e.toNat) (k.val (e.toNat + 1)) (k.val g.toNat))) ∧
  Acts (.upkn d e f nf) { srcs := [.regs [e.toNat] false], dsts := [d.toNat], ae := false } (fun _ _ _ k =>
    k.put d.toNat (upkn nf f (k.val e.toNat)))) ∧
  (∀ (d : BitVec 6) (a b : Src),
  let n : Need := { srcs := [a.opd, b.opd, .regs [d.toNat] false], dsts := [d.toNat], ae := false }
  let el (v : Word) (w i : Nat) : Nat := v.toNat / 2 ^ (w * i) % 2 ^ w
  let int (w i : Nat) (x y : Word) : Int := (BitVec.ofNat w (el x w i)).toInt * (BitVec.ofNat w (el y w i)).toInt
  let res (v : Word → Word → Word → Word) := fun (s : State) (w : Warp) (l : Nat) (k : Lane) =>
    k.put d.toNat (v (s.get w l k a) (s.get w l k b) (k.val d.toNat))
  let fdot (m w : Nat) (u : Nat → FVal) (x y c : Word) : Word :=
    BitVec.ofNat 32 (dotF ((List.range m).map (fun i => (u (el x w i), u (el y w i)))) c.toNat)
  Acts (.dot4S8 d a b) n (res (fun x y c => BitVec.ofInt 32 (((List.range 4).map (fun i => int 8 i x y)).sum + c.toInt))) ∧
  Acts (.dot8S4 d a b) n (res (fun x y c => BitVec.ofInt 32 (((List.range 8).map (fun i => int 4 i x y)).sum + c.toInt))) ∧
  Acts (.dot4E4m3 d a b) n (res (fdot 4 8 Narrow.e4m3.unpack)) ∧
  Acts (.dot4E5m2 d a b) n (res (fdot 4 8 Narrow.e5m2.unpack)) ∧
  Acts (.dot8E2m1 d a b) n (res (fdot 8 4 Narrow.e2m1.unpack)) ∧
  Acts (.dot2Bf16 d a b) n (res (fdot 2 16 (bf16.unpack false))) ∧
  Acts (.dot2F16 d a b) n (res (fdot 2 16 (f16.unpack false))))

/-- R45 to R47, R134 to R137: each active non-helper lane's terms are added to the warp's accumulator, whose other copy stays; XCLR clears
it; XRND delivers its rounded value to every active lane and leaves it as it is. R138, R139, R50, R51: RNG advances the state pair of a by
one step, then writes the output to d; RNGJ advances it by the count in b, as that many steps would. -/
def Obligations.AccumulatorsAndRandomNumbers : Prop :=
  (∀ (c : Bool) (a b d : BitVec 6),
  let two (r : BitVec 6) : Opd := .regs [r.toNat, r.toNat + 1] false
  let v (k : Lane) (r : BitVec 6) : BitVec 64 := k.val (r.toNat + 1) ++ k.val r.toNat
  let n (srcs : List Opd) : Need := { srcs := srcs, scc := false, ae := false, exact := true }
  let idle (_ : State) (w : Warp) (_ : Iss) : Prop := w.xaWait.contains c = false
  let set (w : Warp) (x : Acc) : Warp := if c then { w with xa1 := x } else { w with xa0 := x }
  let cur (w : Warp) : Acc := if c then w.xa1 else w.xa0
  let with_ (s : State) (i : Iss) (x : Acc) : State := (s.updWarp i.u (fun w => set w x)).lanesTo i.u (i.ran (fun _ k => k))
  let sum (w : Warp) (i : Iss) (ts : Lane → List FVal) : Acc := (i.n.flatMap (fun l => ts (w.lane l))).foldl Acc.add (cur w)
  Completes (.xaccf c a) (n [two a]) idle (fun s w i => with_ s i (sum w i (fun k => [accTerm (v k a)]))) ∧
  Completes (.xacc c a b) (n [two a, two b]) idle (fun s w i => with_ s i (sum w i (fun k => [accTerm (v k a), accTerm (v k b)]))) ∧
  Completes (.xfma c a b) (n [two a, two b]) idle (fun s w i => with_ s i (sum w i (fun k => [accProduct (v k a) (v k b)]))) ∧
  Completes (.xclr c) (n []) idle (fun s _ i => with_ s i ⟨0, false, false, false⟩) ∧
  (∀ (s : State) (u : Nat) (w : Warp) (h : Lane), s.Ready u w h { dsts := [d.toNat, d.toNat + 1], scc := false, ae := false, exact := true } → w.xaWait.contains c = false →
    (∀ l ∈ (w.iss u h 2).n, ((w.lane l).fpctl >>> 9 : BitVec 14) &&& (BitVec.setWidth 14 (cur w).round.flags : BitVec 14) = (0 : BitVec 14)) →
    ∃ t, exec (.xrnd d c) s = .next t ∧ s.Did t (w.iss u h 2) (fun _ k =>
      { k.putPair d.toNat (BitVec.ofNat 64 (cur w).round.bits) with fpctl := k.fpctl ||| (BitVec.setWidth 14 (cur w).round.flags <<< 4) }))) ∧
  (∀ (d : BitVec 6) (a b : RegE),
  let two (r : RegE) : Opd := .regs [r.r.toNat, r.r.toNat + 1] r.e
  let v (k : Lane) (r : RegE) : BitVec 64 := k.val (r.r.toNat + 1) ++ k.val r.r.toNat
  let res (k : Lane) (x : BitVec 64) : Lane := (k.put a.r.toNat (x.setWidth 32)).put (a.r.toNat + 1) ((x >>> 32).setWidth 32)
  let next (x : BitVec 64) : BitVec 64 := x * 0x9E3D7A51C4F82B65 + 0x14E6B
  let out (x : BitVec 64) : Word := (x ^^^ (x >>> 29)).extractLsb' 32 32
  Acts (.rng d a) { srcs := [two a], dsts := [a.r.toNat, a.r.toNat + 1, d.toNat] } (fun _ _ _ k =>
    (res k (next (v k a))).put d.toNat (out (next (v k a)))) ∧
  Acts (.rngj a b) { srcs := [two a, two b], dsts := [a.r.toNat, a.r.toNat + 1] } (fun _ _ _ k =>
    res k (Nat.repeat next (v k b).toNat (v k a))))

/-- R34, R119, R137, R358: where lanes of an ordinary fragment raise enabled flags, they keep their destination, record their flags, and
trap FP_EXCEPTION with the raised flags as detail, to resume at the instruction; the other lanes complete. So XRND, and so every floating
instruction: that each F32, F64, packed, conversion, SCALE and 16-bit form traps so is the second clause of its FpActs, and what that
clause leaves in each lane is read off it here, register by register. R24, R111, R358, R359, R384: TRAP and BRK take their trap in every
lane of the fragment that is no helper: cause, detail and lanes are recorded, the lane resumes after the instruction at its priority, and
goes on at the handler's entry at priority 63; lanes whose guard is false move on; what a SPAWN of these lanes had begun is forgotten
(R185). After the last halfword of a parcel of 65,536 there is no such place (R13: offsets do not wrap): the lane's next fetch after RETT
traps, and what the register shows there, the offset mod 2^16, is the model's choice (log entry 14). -/
def Obligations.InstructionTraps : Prop :=
  ((∀ (s : State) (u : Nat) (w : Warp) (h : Lane) (d : BitVec 6) (c : Bool), let i := w.iss u h 2
    let a : FRes := (if c then w.xa1 else w.xa0).round
    let r (_ : Nat) (k : Lane) : Lane × Flags := (k.putPair d.toNat (BitVec.ofNat 64 a.bits), a.flags)
    s.Ready u w h { dsts := [d.toNat, d.toNat + 1], scc := false, ae := false, exact := true } → w.xaWait.contains c = false →
    i.handler = false → i.raising w r ≠ [] →
    ∃ t, exec (.xrnd d c) s = .next t ∧
      State.Alike ((s.updWarp u (fun x => x.unspawn (i.raising w r))).lanesTo u (i.fpTrapped w (i.raising w r) r)) t) ∧
  (∀ (x : Instr) (n : Need) (r : State → Warp → Nat → Lane → Lane × Flags), FpActs x n r →
    ∀ (s : State) (u : Nat) (w : Warp) (h : Lane), let i := w.iss u h n.wlen
    let bad := i.n.filter (fun l => (w.lane l).fpctl >>> 9 &&& (r s w l (w.lane l)).2.setWidth 14 ≠ 0)
    s.Ready u w h n → i.handler = false → bad ≠ [] →
    ∃ t, exec x s = .next t ∧ ∀ l ∈ i.n,
      let k := w.lane l
      let k' := (t.warp u).lane l
      let f := (r s w l k).2
      (l ∈ bad → k'.x = k.x ∧ k'.p = k.p ∧ k'.tcause = 0x17 ∧ k'.taddr = 0 ∧ k'.tinfo = f.setWidth 32 ∧ k'.tlanes = maskOf bad ∧ k'.tpc = h.pc ∧
        k'.resumePc = h.pc ∧ k'.resumePrio = h.prio ∧ k'.prio = 63 ∧ k'.pc = BitVec.ofNat 32 ((Config.runtimeSlot 0x17).toNat % 65536) ∧
        k'.fpctl = k.fpctl ||| (f.setWidth 14 <<< 4)) ∧
      (l ∉ bad → (r s w l k).1.helper = false → k' = ({ (r s w l k).1 with
        fpctl := (r s w l k).1.fpctl ||| (f.setWidth 14 <<< 4) } : Lane).advance i.len))) ∧
  (∀ (c : BitVec 16),
  let after (i : Iss) : Word := BitVec.ofNat 32 (i.pc.toNat / 65536 * 65536 + (i.pc.toNat % 65536 + i.len) % 65536)
  let entry (cause : Nat) : Word := BitVec.ofNat 32 ((Config.runtimeSlot cause).toNat % 65536)
  let plain (_ : State) (w : Warp) (i : Iss) : Prop := w.isAe = false ∧ i.handler = false
  let trap (cause : Nat) (info : Word) (s : State) (_ : Warp) (i : Iss) : State := (s.updWarp i.u (fun w => { w with
      spawning := w.spawning &&& ~~~ maskOf i.act, spawned := w.spawned &&& ~~~ maskOf i.act })).lanesTo i.u (fun l k =>
    if i.act.contains l then if k.helper then k else { k with
      tcause := BitVec.ofNat 32 cause, taddr := 0, tinfo := info, tlanes := maskOf i.act, tpc := i.pc
      resumePc := after i, resumePrio := i.prio, resumePast := decide (65536 ≤ i.pc.toNat % 65536 + i.len)
      pc := entry cause, past := false, prio := 63, place := .frontier, frag := 1 + i.n.headD 0, asked := none }
    else if i.frag.contains l && !k.helper then k.advance i.len else k)
  Completes (.trap c) { lpb := 0, ae := false } plain (trap 0x12 (c.setWidth 32)) ∧
  Completes .brk { lpb := 0, ae := false, scc := false } plain (trap 0x13 0))

/-- R104, R105, R301: SRD gives each lane of a warp the value that the table names, and the scalar control core what its list names; the
address engine, whose subset leaves SRD out, ends with ILLEGAL. Which block coordinate runs fastest is the model's choice (log entry 20).
R104, R105: SRW. A register that each lane holds takes the lane's own value, under its write rule; the block's and the core's registers
take the one value on which the lanes of N agree, bintmr clamped to 8 to 4096. -/
def Obligations.SystemRegisters : Prop :=
  (∀ (d : BitVec 6) (sr : BitVec 8), srReadable sr = true →
  (∀ (s : State) (u : Nat) (w : Warp) (h : Lane) (b : List (Option Nat)) (st : Dword) (g : Nat), let i := w.iss u h 2
    s.acts u w → w.busy = false → w.head = some h → i.n ≠ [] → w.kind = .ae b st none g →
      exec (.srd d sr) s = .next (((s.lanesTo u i.rest).aeEnd u 0x101).sweep)) ∧
  (∀ c, Completes (.srd d sr) { dsts := [d.toNat], lpb := 0, ae := false } (fun _ w _ => w.kind = .scc c)
    (fun s w i => s.lanesTo i.u (i.ran (fun _ k => k.put d.toNat (
      let n (v : Nat) : Word := BitVec.ofNat 32 v
      let ix := sr.toNat
      if ix ≤ 0x02 ∨ (0x04 ≤ ix ∧ ix ≤ 0x0A) ∨ ix = 0x13 ∨ ix = 0x14 then 0
      else if ix = 0x03 ∨ ix = 0x12 then 1
      else if ix = 0x0B then n (w.core % 8) else if ix = 0x0C then n (w.core / 8 % 4)
      else if ix = 0x0D then n (w.core / 32) else if ix = 0x0E then n w.ctx else if ix = 0x0F then n (Map.getD s.sccGrid c 0)
      else if ix = 0x10 then k.fpctl.setWidth 32 else if ix = 0x11 then k.lprio.setWidth 32 else if ix = 0x15 then n w.bintmr
      else if ix = 0x18 then k.tcause else if ix = 0x19 then k.taddr.extractLsb' 0 32 else if ix = 0x1A then k.taddr.extractLsb' 32 32
      else if ix = 0x1B then k.tlanes else if ix = 0x1C then k.tpc else if ix = 0x1D then k.tinfo
      else if ix < 0x30 then ((s.core w.core).watch (ix - 0x20)).ctl
      else (s.core w.core).bpAt (ix - 0x30)))))) ∧
  Completes (.srd d sr) { dsts := [d.toNat], lpb := 0, ae := false } (fun _ w _ => w.kind = .warp)
    (fun s w i => s.lanesTo i.u (i.ran (fun l k => k.put d.toNat (
      let b := s.block w.block
      let g := s.grid b.grid
      let n (v : Nat) : Word := BitVec.ofNat 32 v
      let ix := sr.toNat
      if ix = 0x00 then n l else if ix = 0x01 then n (l / 4) else if ix = 0x02 then n w.wix else if ix = 0x03 then n b.wcnt
      else if ix = 0x04 then n (b.bix % g.info.dimx) else if ix = 0x05 then n (b.bix / g.info.dimx % g.info.dimy)
      else if ix = 0x06 then n (b.bix / (g.info.dimx * g.info.dimy))
      else if ix = 0x07 then n g.info.dimx else if ix = 0x08 then n g.info.dimy else if ix = 0x09 then n g.info.dimz
      else if ix = 0x0A then n (positionOf w.core) else if ix = 0x0B then n (w.core % 8) else if ix = 0x0C then n (w.core / 8 % 4)
      else if ix = 0x0D then n (w.core / 32) else if ix = 0x0E then n w.ctx else if ix = 0x0F then n b.grid
      else if ix = 0x10 then k.fpctl.setWidth 32 else if ix = 0x11 then k.lprio.setWidth 32 else if ix = 0x12 then maskOf i.act
      else if ix = 0x13 then (if k.helper then 1 else 0) else if ix = 0x14 then (if b.det then 1 else 0) else if ix = 0x15 then n b.bintmr
      else if ix = 0x18 then k.tcause else if ix = 0x19 then k.taddr.extractLsb' 0 32 else if ix = 0x1A then k.taddr.extractLsb' 32 32
      else if ix = 0x1B then k.tlanes else if ix = 0x1C then k.tpc else if ix = 0x1D then k.tinfo
      else if ix < 0x30 then ((s.core w.core).watch (ix - 0x20)).ctl
      else (s.core w.core).bpAt (ix - 0x30)))))) ∧
  (∀ (a : RegE) (j : BitVec 8),
  let n (h : Bool) : Need := { srcs := [a.opd], lpb := 0, ae := false, handler := h }
  let v (k : Lane) : Word := k.val a.r.toNat
  let one (w : Warp) (i : Iss) : Word := v (w.lane (i.n.headD 0))
  let agree (_ : State) (w : Warp) (i : Iss) : Prop := ∀ l ∈ i.n, v (w.lane l) = one w i
  let each (f : Lane → Lane) (s : State) (_ : Warp) (i : Iss) : State := s.lanesTo i.u (i.ran (fun _ k => f k))
  let always (_ : State) (_ : Warp) (_ : Iss) : Prop := True
  Completes (.srw a 0x10) (n false) always (each (fun k => { k with fpctl := (v k).extractLsb' 0 14 })) ∧
  Completes (.srw a 0x11) (n false) (fun _ w i => i.handler = true ∨ ∀ l ∈ i.n, (v (w.lane l)).extractLsb' 0 6 ≠ 63)
    (each (fun k => { k with lprio := (v k).extractLsb' 0 6 })) ∧
  Completes (.srw a 0x18) (n true) always (each (fun k => { k with tcause := v k })) ∧
  Completes (.srw a 0x19) (n true) always (each (fun k => { k with taddr := k.taddr.extractLsb' 32 32 ++ v k })) ∧
  Completes (.srw a 0x1A) (n true) always (each (fun k => { k with taddr := v k ++ k.taddr.extractLsb' 0 32 })) ∧
  Completes (.srw a 0x1B) (n true) always (each (fun k => { k with tlanes := v k })) ∧
  Completes (.srw a 0x1C) (n true) always (each (fun k => { k with tpc := v k })) ∧
  Completes (.srw a 0x1D) (n true) always (each (fun k => { k with tinfo := v k })) ∧
  Completes (.srw a 0x15) (n false) (fun s w i => agree s w i ∧ w.kind = .warp ∧ (s.block w.block).det = false) (fun s w i =>
    each id (s.updBlock w.block (fun b => { b with bintmr := max 8 (min 4096 (one w i).toNat) })) w i) ∧
  (0x20 ≤ j.toNat → j.toNat < 0x30 → Completes (.srw a j) (n true) agree (fun s w i =>
    each id (s.updCore w.core (fun c => { c with
      watches := Map.put c.watches (j.toNat - 0x20) { c.watch (j.toNat - 0x20) with ctl := one w i &&& 0xE000FFFF } })) w i)) ∧
  (0x30 ≤ j.toNat → j.toNat < 0x38 → Completes (.srw a j) (n true) agree (fun s w i =>
    each id (s.updCore w.core (fun c => { c with bps := Map.setD c.bps (j.toNat - 0x30) (one w i) 0 })) w i)))

/-- R13, R103, R106: LDCA gives the code address `off` halfwords from itself; BRA, CALL and a taken BRC go there with the priority given,
where it lies in the resident length, and trap ILLEGAL where it does not; CALL links in x63 and lprio; a BRC that is not taken moves on.
Helper lanes stay with their quads. A CALL whose link would lie past offset 0xFFFF leaves a value in x63 that nothing constrains, the
model's choice where R13 says that offsets do not wrap (log entry 14). R13, R107 to R109: transfers through a register or an entry slot. A
target in the lane's own parcel must lie inside its resident length; one in another parcel must be mapped, resident or closing, and
inside; a call reopens a closing parcel. The return goes to lprio. The first lane whose target does not pass decides: outside the length
of its parcel, unmapped, or an entry slot that is empty, is ILLEGAL; an absent parcel is PARCEL_ABSENT; for a LOADING one the fragment
waits. The detail is each lane's own address where it is absent or unmapped: that it is so lane by lane is the model's choice (log entry
88), and so is a link past offset 0xFFFF (log entry 14). -/
def Obligations.ControlTransfers : Prop :=
  (∀ (d p : BitVec 6) (o16 : BitVec 16) (o18 : BitVec 18) (o14 : BitVec 14) (neg : Bool) (c : BitVec 3),
  let at_ (i : Iss) (off : Int) : Int := ((i.pc.toNat % 65536 + (i.len - 2) : Nat) : Int) + off
  let addr (i : Iss) (off : Int) : Word := BitVec.ofNat 32 (i.pc.toNat / 65536 * 65536 + (at_ i off).toNat)
  let inside (off : Int) (s : State) (w : Warp) (i : Iss) : Prop :=
    0 ≤ at_ i off ∧ at_ i off < (s.parcel w.core w.ctx (i.pc.toNat / 65536)).length
  let free (w : Warp) : Prop := w.isAe = false
  let goes (k : Lane) (t : Word) : Lane := { k with pc := t, past := false, prio := p, frag := if p = 63 then k.frag else 0 }
  let link (s : State) (i : Iss) (l : Nat) : Word :=
    if i.pc.toNat % 65536 + i.len < 65536 then BitVec.ofNat 32 (i.pc.toNat + i.len) else (Config.freeValue (s.free + l)).extractLsb' 0 32
  let spent (s : State) (i : Iss) : State := if i.pc.toNat % 65536 + i.len < 65536 then s else { s with free := s.free + 32 }
  let outside (x : Instr) (n : Need) (off : Int) (p : Warp → Iss → Prop) : Prop := ∀ (s : State) (u : Nat) (w : Warp) (h : Lane),
    let i := w.iss u h 2
    s.Ready u w h n → ¬ inside off s w i → p w i → exec x s = .next (s.fragTrap i 0x01 (fun _ => ⟨0x01, 0, 0⟩))
  let taken (k : Lane) : Bool := k.pred c ^^ neg
  Completes (.ldca d o16) { dsts := [d.toNat] } (inside o16.toInt) (fun s _ i =>
    s.lanesTo i.u (i.ran (fun _ k => k.put d.toNat (addr i o16.toInt)))) ∧
  Completes (.bra o18 p) { lpb := 0, prio := p, jump := 1, branch := true, sent := fun _ => some 0 } (fun s w i => inside o18.toInt s w i ∧ free w)
    (fun s _ i => s.lanesTo i.u (i.sent (fun _ k => goes k (addr i o18.toInt)))) ∧
  Completes (.call o18 p) { dsts := [63], lpb := 0, prio := p, jump := 1, branch := true, sent := fun _ => some 0 } (fun s w i => inside o18.toInt s w i ∧ free w)
    (fun s _ i => (spent s i).lanesTo i.u (fun l k => if i.act.contains l then
        (let k' : Lane := { k.put 63 (link s i l) with lprio := i.prio }
          if k.helper then k' else goes k' (addr i o18.toInt))
      else i.sent (fun _ k => k) l k)) ∧
  Completes (.brc o14 p neg c) { lpb := 0, prio := p, jump := 2, branch := true, sent := fun k => if k.pred c != neg then some 0 else none }
    (fun s w i => inside o14.toInt s w i ∧ free w) (fun s w i => s.lanesTo i.u (i.sent (fun l k =>
      if taken (w.lane l) then goes k (addr i o14.toInt) else k.advance i.len))) ∧
  Completes (.brc o14 p neg c) { lpb := 0, prio := p, jump := 2, branch := true, sent := fun k => if k.pred c != neg then some 0 else none }
    (fun _ w i => free w ∧ ∀ l ∈ i.act, taken (w.lane l) = false) (fun s _ i => s.lanesTo i.u (i.sent (fun _ k => k.advance i.len))) ∧
  outside (.ldca d o16) { dsts := [d.toNat] } o16.toInt (fun _ _ => True) ∧
  outside (.bra o18 p) { lpb := 0, prio := p, jump := 1, branch := true, sent := fun _ => some 0 } o18.toInt (fun _ _ => True) ∧
  outside (.call o18 p) { dsts := [63], lpb := 0, prio := p, jump := 1, branch := true, sent := fun _ => some 0 } o18.toInt (fun _ _ => True) ∧
  outside (.brc o14 p neg c) { lpb := 0, prio := p, jump := 2, branch := true, sent := fun k => if k.pred c != neg then some 0 else none } o14.toInt
    (fun w i => free w ∧ ∃ l ∈ i.n, taken (w.lane l) = true)) ∧
  (∀ (a : RegE) (r p e : BitVec 6) (q : BitVec 16),
  let t (w : Warp) (r : Nat) (l : Nat) : Word := (w.lane l).val r
  let ok (s : State) (w : Warp) (i : Iss) (x : Word) : Prop := x.toNat % 65536 < (s.parcel w.core w.ctx (x.toNat / 65536)).length ∧
    (x.toNat / 65536 = i.pc.toNat / 65536 ∨ (s.mapped w.ctx (x.toNat / 65536) = true ∧ 2 ≤ (s.parcel w.core w.ctx (x.toNat / 65536)).state))
  let may (r : Nat) (s : State) (w : Warp) (i : Iss) : Prop := w.isAe = false ∧ ∀ l ∈ i.n, ok s w i (t w r l)
  let link (s : State) (i : Iss) (l : Nat) : Word :=
    if i.pc.toNat % 65536 + i.len < 65536 then BitVec.ofNat 32 (i.pc.toNat + i.len) else (Config.freeValue (s.free + l)).extractLsb' 0 32
  let spent (i : Iss) (s : State) : State := if i.pc.toNat % 65536 + i.len < 65536 then s else { s with free := s.free + 32 }
  let call (s : State) (i : Iss) (f : Nat → Lane → Lane) (l : Nat) (k : Lane) : Lane :=
    if i.act.contains l then
      (let k' : Lane := { k.put 63 (link s i l) with lprio := i.prio }
        if k.helper then k' else f l k')
    else i.sent f l k
  let away (i : Iss) (x : Word) : Prop := x.toNat / 65536 ≠ i.pc.toNat / 65536
  let parcelOf (s : State) (w : Warp) (x : Word) : Parcel := s.parcel w.core w.ctx (x.toNat / 65536)
  let illegal (s : State) (w : Warp) (i : Iss) (x : Word) : Prop :=
    (away i x ∧ s.mapped w.ctx (x.toNat / 65536) = false) ∨
    ((away i x → 2 ≤ (parcelOf s w x).state) ∧ (parcelOf s w x).length ≤ x.toNat % 65536)
  let absent (s : State) (w : Warp) (i : Iss) (x : Word) : Prop :=
    away i x ∧ s.mapped w.ctx (x.toNat / 65536) = true ∧ (parcelOf s w x).state = 0
  let loading (s : State) (w : Warp) (i : Iss) (x : Word) : Prop :=
    away i x ∧ s.mapped w.ctx (x.toNat / 65536) = true ∧ (parcelOf s w x).state = 1
  let detail (s : State) (w : Warp) (i : Iss) (x : Nat → Word) (info : Nat → Word) (l : Nat) : Word :=
    if i.n.contains l && !(s.mapped w.ctx ((x l).toNat / 65536) && (parcelOf s w (x l)).state != 0) then info l else 0
  let fails (x : Instr) (n : Need) (x_ : Warp → Nat → Word) (info : Warp → Nat → Word) : Prop := ∀ (s : State) (u : Nat) (w : Warp) (h : Lane) (l : Nat) (ls ms : List Nat),
    let i := w.iss u h n.wlen
    s.Ready u w h n → w.isAe = false → i.n = ls ++ l :: ms → (∀ j ∈ ls, ok s w i (x_ w j)) →
    (illegal s w i (x_ w l) → exec x s = .next (s.fragTrap i 0x01 (fun j => ⟨0x01, 0, detail s w i (x_ w) (info w) j⟩))) ∧
    (absent s w i (x_ w l) → exec x s = .next (s.fragTrap i 0x06 (fun j => ⟨0x06, 0, detail s w i (x_ w) (info w) j⟩))) ∧
    (loading s w i (x_ w l) → exec x s = .next s)
  let jmpr : Need := { srcs := [a.opd], lpb := 0, prio := p, jump := 8, branch := true, sent := fun k => some (k.val a.r.toNat) }
  let callr : Need := { srcs := [a.opd], dsts := [63], lpb := 0, prio := p, jump := 8, branch := true, sent := fun k => some (k.val a.r.toNat) }
  let retr : Need := { srcs := [.regs [r.toNat] false], lpb := 0, jump := 8, branch := true, sent := fun k => some (k.val r.toNat) }
  let ret : Need := { srcs := [.regs [63] false], lpb := 0, wlen := 1, jump := 8, branch := true, sent := fun k => some (k.val 63) }
  let callp : Need := { dsts := [63], lpb := 0, ae := false, jump := 1, branch := true, sent := fun _ => some 0 }
  let reopened (s : State) (w : Warp) (i : Iss) (xs : List Word) : State := xs.foldl (fun s x =>
    if x.toNat / 65536 = i.pc.toNat / 65536 then s else s.updCore w.core (fun c => { c with
      parcels := Map.upd c.parcels (parcelKey w.ctx (x.toNat / 65536)) (fun y => if y.state = 3 then { y with state := 2 } else y) })) s
  Completes (.jmpr a p) jmpr (may a.r.toNat) (fun s w i => s.lanesTo i.u (i.sent (fun l k => k.goto (t w a.r.toNat l) p))) ∧
  Completes (.retr r) retr (may r.toNat) (fun s w i => s.lanesTo i.u (i.sent (fun l k => k.goto (t w r.toNat l) k.lprio))) ∧
  Completes .ret ret (may 63) (fun s w i => s.lanesTo i.u (i.sent (fun l k => k.goto (t w 63 l) k.lprio))) ∧
  Completes (.callr a p) callr (may a.r.toNat) (fun s w i => (spent i (reopened s w i (i.n.map (t w a.r.toNat)))).lanesTo i.u
    (call s i (fun l k => k.goto (t w a.r.toNat l) p))) ∧
  Completes (.callp q e) callp
    (fun s w i => ok s w i (q.setWidth 32 <<< 16) ∧ (s.entrySlot w.core w.ctx q.toNat e.toNat).isSome = true)
    (fun s w i =>
      let x := (s.entrySlot w.core w.ctx q.toNat e.toNat).getD (0, 0)
      (spent i (reopened s w i (i.n.map (fun _ => q.setWidth 32 <<< 16)))).lanesTo i.u
        (call s i (fun _ k => k.goto (q.setWidth 32 <<< 16 ||| BitVec.ofNat 32 x.1) (BitVec.ofNat 6 x.2)))) ∧
  fails (.jmpr a p) jmpr (fun w => t w a.r.toNat) (fun w => t w a.r.toNat) ∧
  fails (.callr a p) callr (fun w => t w a.r.toNat) (fun w => t w a.r.toNat) ∧
  fails (.retr r) retr (fun w => t w r.toNat) (fun w => t w r.toNat) ∧
  fails .ret ret (fun w => t w 63) (fun w => t w 63) ∧
  fails (.callp q e) callp (fun _ _ => q.setWidth 32 <<< 16) (fun _ _ => q.setWidth 32 <<< 16 ||| e.setWidth 32) ∧
  (∀ (s : State) (u : Nat) (w : Warp) (h : Lane), let i := w.iss u h 2
    s.Ready u w h callp → ok s w i (q.setWidth 32 <<< 16) → s.entrySlot w.core w.ctx q.toNat e.toNat = none →
      exec (.callp q e) s = .next (s.fragTrap i 0x01 (fun _ => ⟨0x01, 0, 0⟩))))

/-- R67, R112: NOP and YIELD change no visible state but the place; a prefix is kept for its group, once of each kind, and is no part of
the instruction's own effect. R152, R177, R178: JENROL adds the lanes of N to E, JLEAVE takes them out; JWAIT parks the lanes of N that E
holds, with the priority it names, and lets the others move on. R110, R191, R366: EXIT ends the lanes of N of an ordinary fragment (a lane
of a grid with helper-on-exit may stay as a helper), TEXIT and an EXIT of a handler the lanes they name; a warp that loses its block goes
with it. EXIT halts the scalar control core, and ends the address engine with status 1 (R303). That EXIT goes on over an orphaned register
is the model's choice (log entry 105), and that an EXIT of a handler ends its lanes' tasks its reading (log entry 39). -/
def Obligations.LanesAndJoins : Prop :=
  (Acts .nop { lpb := 0, wlen := 1 } (fun _ _ _ k => k) ∧
  Acts .yield { lpb := 0, wlen := 1, ae := false, yields := true } (fun _ _ _ k => k) ∧
  (∀ (s : State) (u : Nat) (w : Warp) (h : Lane) (n : Bool) (p : BitVec 3) (m : BitVec 8), s.acts u w → w.busy = false → w.head = some h →
    (w.prefixAt h).len + h.pc.toNat % 65536 + 1 < (s.parcel w.core w.ctx (h.pc.toNat / 65536)).length →
    let q := w.prefixAt h
    (q.guard = none → exec (.guard n p) s =
      .next (s.updWarp u (fun x => { x with pfx := some ⟨q.pc, q.prio, q.len + 1, some (n, p), q.wait⟩ }))) ∧
    (q.wait = none → exec (.waitk m) s =
      .next (s.updWarp u (fun x => { x with pfx := some ⟨q.pc, q.prio, q.len + 1, q.guard, some m⟩ }))))) ∧
  (∀ (j : BitVec 3) (p : BitVec 6),
  let e (w : Warp) : Word := Map.getD w.joins j.toNat 0
  let set (s : State) (i : Iss) (v : Word) : State :=
    (s.updWarp i.u (fun w => { w with joins := Map.setD w.joins j.toNat v 0 })).lanesTo i.u (i.ran (fun _ k => k))
  let park (s : State) (w : Warp) (i : Iss) : State := s.lanesTo i.u (i.ran (fun l k =>
    if i.n.contains l && (e w).getLsbD l then { k with place := .join j.toNat, prio := p, frag := if p = 63 then k.frag else 0 } else k))
  let always (_ : State) (_ : Warp) (_ : Iss) : Prop := True
  Completes (.jenrol j) { lpb := 0, scc := false, ae := false } always (fun s w i => set s i (e w ||| maskOf i.n)) ∧
  Completes (.jleave j) { lpb := 0, scc := false, ae := false } always (fun s w i => set s i (e w &&& ~~~ maskOf i.n)) ∧
  Completes (.jwait j p) { lpb := 0, scc := false, ae := false, prio := p } always park ∧
  Completes (.jwait16 j p) { lpb := 0, scc := false, ae := false, prio := p, wlen := 1 } always park) ∧
  (∀ (s : State) (u : Nat) (w : Warp) (h : Lane) (a : Src),
  let full (w : Warp) (ls : List Nat) : Prop := ∀ l ∈ ls, ∀ c ∈ (w.lane l).x, ∀ b, c.2.fe ≠ .empty b
  let gone (t : State) (l : Nat) : Prop := Map.get? t.warps u = none ∨ ((t.warp u).lane l).place = .ended
  (∀ x ∈ [(Instr.exit, 2), (Instr.exit16, 1)], s.Ready u w h { lpb := 0, wlen := x.2 } → full w (w.iss u h x.2).n →
    (∀ l ∈ (w.iss u h x.2).n, (w.lane l).task = none) →
    (∀ c, w.kind = .scc c → ∃ t, exec x.1 s = .next t ∧ c ∈ t.sccHalted ∧ ∀ l ∈ (w.iss u h x.2).n, gone t l) ∧
    (∀ b st g, w.kind = .ae b st none g → ∃ t, exec x.1 s = .next t ∧
      (Map.get? t.warps u = none ∨ ∃ b', (t.warp u).kind = .ae b' st (some 1) g))) ∧
  (w.kind = .warp →
  (∀ x ∈ [(Instr.exit, 2), (Instr.exit16, 1)], s.Ready u w h { lpb := 0, wlen := x.2 } → full w (w.iss u h x.2).n →
    (h.prio ≠ 63 → ∀ l ∈ (w.iss u h x.2).n, (w.lane l).task = none) →
    ∃ t, exec x.1 s = .next t ∧ ∀ l ∈ (w.iss u h x.2).n,
      gone t l ∨ (h.prio ≠ 63 ∧ (s.block w.block).helperExit = true ∧ ((t.warp u).lane l).helper = true)) ∧
  (s.Ready u w h { srcs := [a.opd], lpb := 0, ae := false, handler := true, perWarp := true } →
    (∀ l ∈ (w.iss u h 2).n, s.get w l (w.lane l) a = s.get w ((w.iss u h 2).n.headD 0) (w.lane ((w.iss u h 2).n.headD 0)) a) →
    ∃ t, exec (.texit a) s = .next t ∧ ∀ l ∈ (w.iss u h 2).act,
      (s.get w ((w.iss u h 2).n.headD 0) (w.lane ((w.iss u h 2).n.headD 0)) a).getLsbD l = true → gone t l)))

/-- R362 to R367: RETT sends each lane of a handler to its resume address and priority, with watchpoints off for the instruction of a
WATCHPOINT that it goes back to; SETRPC gives the lanes of a mask a resume address; TSVC takes the lanes of N off the frontier until the
firmware replies. -/
def Obligations.HandlerForms : Prop := ∀ (a b : Src),
  let n : Need := { lpb := 0, ae := false, handler := true }
  let m (s : State) (w : Warp) (i : Iss) : Word := s.get w (i.n.headD 0) (w.lane (i.n.headD 0)) a
  Completes .rett { lpb := 0, ae := false, handler := true, jump := 1, sent := fun _ => some 0 }
    (fun _ w i => ∀ l ∈ i.n, (w.lane l).task = none)
    (fun s _ i => s.lanesTo i.u (fun l k => if i.act.contains l then
        (if k.helper then k
          else { k with
            pc := k.resumePc, past := k.resumePast, prio := k.resumePrio, noWatch := decide (k.tcause = 0x14 ∧ k.resumePc = k.tpc)
            frag := if k.resumePrio = 63 then k.frag else 0 })
      else if i.frag.contains l && !k.helper then k.advance i.len else k)) ∧
  Completes (.setrpc a b) { srcs := [a.opd, b.opd], lpb := 0, ae := false, handler := true, perWarp := true }
    (fun s w i => ∀ l ∈ i.n, s.get w l (w.lane l) a = m s w i)
    (fun s w i => s.lanesTo i.u (i.ran (fun l k => if (m s w i).getLsbD l then { k with resumePc := s.get w l k b, resumePast := false } else k))) ∧
  Completes .tsvc n (fun s w _ => (s.ctx w.ctx).debug = false)
    (fun s _ i => s.lanesTo i.u (fun l k => if i.n.contains l then { k with place := .tsvc }
      else if i.frag.contains l && !i.act.contains l && !k.helper then k.advance i.len else k))

/-- R162 to R167, R171, R172: MOVU, MOVUF and REDU. A quad register takes, quad by quad, the value of the lowest lane of N or the fold of
N's values (R44) combined with what it held; a warp register the same for the whole warp; a write to a block, cluster or grid register
leaves for its register and takes effect by a later step; a DET block's register goes through the warp's buffer, and a migrated warp's is
its private copy, in a DET block too (R410). MOVU wants the lanes to agree. R161, R173: MOVS gives each lane its own view of the scope
index: its quad's register, its warp's, its block's, its cluster's, its grid's, and the four constants. -/
def Obligations.ScopeRegisters : Prop :=
  (∀ (d : BitVec 6) (a : Src),
  let n : Need := { srcs := [a.opd], lpb := 0, scc := false, ae := false, atHead := true, perWarp := true }
  let v (s : State) (w : Warp) (l : Nat) : Word := s.get w l (w.lane l) a
  let formed (s : State) (w : Warp) : Prop := w.walked = false ∨ (s.block w.block).det = false
  let low (s : State) (w : Warp) (i : Iss) : Word := v s w (i.n.headD 0)
  -- the register's own state after a value x arrives with the operation op (none: assignment)
  let f (op : Option Nat) (o x : Word) : Word := match op with
    | none => x
    | some 2 => o + x | some 3 => BitVec.ofNat 32 (f32.add .plain o.toNat x.toNat).bits
    | some 4 => BitVec.ofInt 32 (min o.toInt x.toInt) | some 5 => BitVec.ofInt 32 (max o.toInt x.toInt)
    | some 6 => BitVec.ofNat 32 (min o.toNat x.toNat) | some 7 => BitVec.ofNat 32 (max o.toNat x.toNat)
    | some 8 => o &&& x | some 9 => o ||| x | some 10 => o ^^^ x
    | some 11 => BitVec.ofNat 32 (f32.minmax false false o.toNat x.toNat).bits
    | some 12 => BitVec.ofNat 32 (f32.minmax false true o.toNat x.toNat).bits
    | some _ => BitVec.ofNat 32 (f32.minmax false true (o &&& 0x7FFFFFFF).toNat (x &&& 0x7FFFFFFF).toNat).bits
  let quads (op : Option Nat) (s : State) (w : Warp) (i : Iss) : State :=
    (s.updWarp i.u (fun x => { x with q := ((List.range 8).filter (fun k => i.n.any (fun l => l / 4 == k))).foldl (fun m k =>
      let y : Word := match op with
        | none => v s w ((i.n.filter (fun l => l / 4 == k)).headD 0)
        | some _ => (treeFold (f op) i.n (v s w) 2 (4 * k)).getD 0
      Map.setD m (k * 8 + d.toNat) (f op (Map.getD m (k * 8 + d.toNat) 0) y) 0) w.q })).lanesTo i.u (i.ran (fun _ k => k))
  let value (op : Option Nat) (s : State) (w : Warp) (i : Iss) : Word := match op with
    | none => low s w i
    | some _ => (treeFold (f op) i.n (v s w) 5 0).getD 0
  let put (op : Option Nat) (s : State) (w : Warp) (i : Iss) (m : Map Word) (r : Nat) : Map Word :=
    Map.setD m r (f op (Map.getD m r 0) (value op s w i)) 0
  let sent (op : Option Nat) (level owner r : Nat) (s : State) (w : Warp) (i : Iss) : State :=
    ({ s with
      scopeWrites := Map.put s.scopeWrites s.nextId ⟨level, owner, r, op, value op s w i, w.core, w.block, i.u, w.wix⟩
      nextId := s.nextId + 1 } : State).lanesTo i.u (i.ran (fun _ k => k))
  let redu (x : Instr) (op : Option Nat) (p : State → Warp → Iss → Prop) : Prop :=
    (d.toNat < 8 → Completes x n (fun s w i => formed s w ∧
      (x = .movu d a → ∀ l ∈ i.n, ∀ m ∈ i.n, l / 4 = m / 4 → v s w l = v s w m)) (quads op)) ∧
    (8 ≤ d.toNat → d.toNat < 24 → Completes x n (fun s w i => formed s w ∧ p s w i) (fun s w i =>
      (s.updWarp i.u (fun x => { x with w := put op s w i x.w (d.toNat - 8) })).lanesTo i.u (i.ran (fun _ k => k)))) ∧
    (24 ≤ d.toNat → d.toNat < 40 →
      Completes x n (fun s w i => formed s w ∧ p s w i ∧ (s.block w.block).det = false ∧ w.privB = none)
        (fun s w i => sent op 0 w.block (d.toNat - 24) s w i) ∧
      Completes x n (fun s w i => formed s w ∧ p s w i ∧ (s.block w.block).det = false ∧ w.privB.isSome = true)
        (fun s w i => (s.updWarp i.u (fun x => { x with
          privB := x.privB.map (fun m => put op s w i m (d.toNat - 24)) })).lanesTo i.u (i.ran (fun _ k => k))) ∧
      Completes x n (fun s w i => formed s w ∧ p s w i ∧ (s.block w.block).det = true ∧ w.privB.isSome = true ∧ Map.get? w.det (d.toNat - 24) = none)
        (fun s w i => (s.updWarp i.u (fun x => { x with
          privB := x.privB.map (fun m => put op s w i m (d.toNat - 24)) })).lanesTo i.u (i.ran (fun _ k => k))) ∧
      Completes x n (fun s w i => formed s w ∧ p s w i ∧ (s.block w.block).det = true ∧ w.privB = none ∧ Map.get? w.det (d.toNat - 24) = none)
        (fun s w i => (s.updWarp i.u (fun x => { x with det := Map.put x.det (d.toNat - 24) (match op with
          | none => .assigned (value op s w i)
          | some o => .reduce o (value op s w i)) })).lanesTo i.u (i.ran (fun _ k => k)))) ∧
    (40 ≤ d.toNat → d.toNat < 48 →
      Completes x n (fun s w i => formed s w ∧ p s w i ∧ (s.block w.block).det = false ∧ w.privC = none)
        (fun s w i => sent op 1 (s.block w.block).group (d.toNat - 40) s w i)) ∧
    (48 ≤ d.toNat → d.toNat < 60 →
      Completes x n (fun s w i => formed s w ∧ p s w i ∧ (s.block w.block).det = false)
        (fun s w i => sent op 2 (s.block w.block).grid (d.toNat - 48) s w i))
  redu (.movu d a) none (fun s w i => ∀ l ∈ i.n, v s w l = low s w i) ∧
  redu (.movuf d a) none (fun _ _ _ => True) ∧
  redu (.reduAddS32 d a) (some 2) (fun _ _ _ => True) ∧ redu (.reduAddF32 d a) (some 3) (fun _ _ _ => True) ∧
  redu (.reduMinS d a) (some 4) (fun _ _ _ => True) ∧ redu (.reduMaxS d a) (some 5) (fun _ _ _ => True) ∧
  redu (.reduMinZ d a) (some 6) (fun _ _ _ => True) ∧ redu (.reduMaxZ d a) (some 7) (fun _ _ _ => True) ∧
  redu (.reduAnd d a) (some 8) (fun _ _ _ => True) ∧ redu (.reduOr d a) (some 9) (fun _ _ _ => True) ∧
  redu (.reduXor d a) (some 10) (fun _ _ _ => True) ∧ redu (.reduFmin d a) (some 11) (fun _ _ _ => True) ∧
  redu (.reduFmax d a) (some 12) (fun _ _ _ => True) ∧ redu (.reduAmaxF32 d a) (some 13) (fun _ _ _ => True)) ∧
  (∀ (d i : BitVec 6) (e : BitVec 4),
  let view (s : State) (w : Warp) (l : Nat) : Word :=
    if i.toNat < 8 then Map.getD w.q (l / 4 * 8 + i.toNat) 0
    else if i.toNat < 24 then Map.getD w.w (i.toNat - 8) 0
    else if i.toNat < 40 then Map.getD (s.block w.block).b (i.toNat - 24) 0
    else if i.toNat < 48 then Map.getD (s.group (s.block w.block).group).c (i.toNat - 40) 0
    else if i.toNat < 60 then Map.getD (s.grid (s.block w.block).grid).g (i.toNat - 48) 0
    else if i.toNat = 60 then 0
    else if i.toNat = 61 then BitVec.ofNat 32 l
    else if i.toNat = 62 then BitVec.ofNat 32 w.wix
    else BitVec.ofNat 32 (s.block w.block).bix
  let plain (_ : State) (w : Warp) (_ : Iss) : Prop := w.kind = .warp ∧ w.privB = none ∧ w.privC = none ∧ Map.get? w.det (i.toNat - 24) = none
  Completes (.movs d i) { srcs := [.scope i.toNat], dsts := [d.toNat], lpb := 0, scc := false, ae := false } plain
    (fun s w j => s.lanesTo j.u (j.ran (fun l k => k.put d.toNat (view s w l)))) ∧
  Completes (.movs16 e i) { srcs := [.scope i.toNat], dsts := [e.toNat], lpb := 0, scc := false, ae := false, wlen := 1 } plain
    (fun s w j => s.lanesTo j.u (j.ran (fun l k => k.put e.toNat (view s w l)))))

/-- R174 to R176: exchange, votes and scans. A lane gets the value of the lane that it names where that lane is of F, else its own; a vote
gives the mask of N, whether any or all of N hold the predicate; ELECT picks the lowest lane of N; a scan sums over N in lane order. -/
def Obligations.CrossLane : Prop := ∀ (d i : BitVec 6) (a : Src) (b : RegE) (q r : BitVec 3),
  let need (n : Need) : Need := { n with lpb := 0, scc := false, ae := false }
  let formed (s : State) (w : Warp) (_ : Iss) : Prop := w.walked = false ∨ (s.block w.block).det = false
  let res (f : State → Warp → Iss → Nat → Lane → Lane) (s : State) (w : Warp) (j : Iss) : State := s.lanesTo j.u (j.ran (f s w j))
  let moved (from_ : Lane → Nat → Int) : State → Warp → Iss → State := res (fun s w j l k =>
    let m : Nat := (from_ k l).toNat
    let m : Nat := if 0 ≤ from_ k l ∧ from_ k l < 32 ∧ m ∈ j.act then m else l
    k.put d.toNat (s.get w m (w.lane m) a))
  let one : Need := need { srcs := [a.opd], dsts := [d.toNat] }
  let hold (w : Warp) (l : Nat) : Bool := (w.lane l).pred r
  (i.toNat < 7 → Completes (.qxch d a i) one formed (moved (fun _ l => ((if i.toNat = 0 then l ^^^ 1 else if i.toNat = 1 then l ^^^ 2
    else if i.toNat = 2 then l ^^^ 3 else 4 * (l / 4) + (i.toNat - 3) : Nat) : Int)))) ∧
  Completes (.shfl d a b) (need { srcs := [a.opd, b.opd], dsts := [d.toNat] }) formed (moved (fun k _ => (((k.val b.r.toNat).toNat % 32 : Nat) : Int))) ∧
  Completes (.shup d a i) one formed (moved (fun _ l => (l : Int) - i.toNat)) ∧
  Completes (.shdn d a i) one formed (moved (fun _ l => (l : Int) + i.toNat)) ∧
  Completes (.shxr d a i) one formed (moved (fun _ l => ((l ^^^ i.toNat : Nat) : Int))) ∧
  Completes (.vote d r) (need { dsts := [d.toNat] }) formed (res (fun _ w j _ k => k.put d.toNat (maskOf (j.n.filter (hold w))))) ∧
  Completes (.vany q r) (need {}) formed (res (fun _ w j _ k => k.putP q (decide (∃ l ∈ j.n, hold w l = true)))) ∧
  Completes (.vall q r) (need {}) formed (res (fun _ w j _ k => k.putP q (decide (∀ l ∈ j.n, hold w l = true)))) ∧
  Completes (.elect q) (need {}) (fun s w j => formed s w j ∧ (w.lanes.map (·.1)).Pairwise (· < ·)) (res (fun _ _ j l k => k.putP q (decide (l ∈ j.n ∧ ∀ m ∈ j.n, l ≤ m)))) ∧
  Completes (.scanAddS32 d a) one formed (res (fun s w j l k => k.put d.toNat
    (((j.n.filter (fun m => m < l)).map (fun m => s.get w m (w.lane m) a)).sum))) ∧
  Completes (.scanAddF32 d a) one formed (res (fun s w j l k => k.put d.toNat
    (((j.n.filter (fun m => m ≤ l)).map (fun m => s.get w m (w.lane m) a)).foldl
      (fun x y => BitVec.ofNat 32 (f32.add .plain x.toNat y.toNat).bits) 0x80000000)))

/-- R149, R185 to R190: SPAWN enters the target's parcel for each lane of N and lays the lanes into bins in ascending order; BINFL orders
the block's bins to form; LAUNCH gives each lane the handle of a new child grid, or 0 where the mailbag or the counter sets are full; JOIN
takes the lanes of N off the frontier until the grids they name have ended. A handle is a number of 32 bits that names no other grid. -/
def Obligations.SpawnAndLaunch : Prop := ∀ (d b : BitVec 6) (a : RegE) (c : Src),
  let t (w : Warp) (l : Nat) : Word := (w.lane l).val a.r.toNat
  let va (w : Warp) (l : Nat) : Dword := (w.lane l).val (a.r.toNat + 1) ++ (w.lane l).val a.r.toNat
  let ok (s : State) (w : Warp) (i : Iss) (x : Word) : Prop := x.toNat % 65536 < (s.parcel w.core w.ctx (x.toNat / 65536)).length ∧
    (x.toNat / 65536 = i.pc.toNat / 65536 ∨ (s.mapped w.ctx (x.toNat / 65536) = true ∧ 2 ≤ (s.parcel w.core w.ctx (x.toNat / 65536)).state))
  let reopened (s : State) (w : Warp) (i : Iss) : State := i.n.foldl (fun s l =>
    if (t w l).toNat / 65536 = i.pc.toNat / 65536 then s else s.updCore w.core (fun c => { c with
      parcels := Map.upd c.parcels (parcelKey w.ctx ((t w l).toNat / 65536)) (fun y => if y.state = 3 then { y with state := 2 } else y) })) s
  let args (w : Warp) (l : Nat) : List Word := (List.range 4).map (fun j => (w.lane l).val (b.toNat + j))
  let all (s : State) (w : Warp) (i : Iss) : List Nat × State :=
    (reopened s w i).spawnAll (reopened s w i) i.u (i.n.map (fun l => (l, t w l, args w l)))
  let rec_ (s : State) (u : Nat) (w : Warp) (l : Nat) : List Byte := match s.agentPlaces w (va w l) 64 true false with
    | .inl ks => (s.readRecord u l (va w l) ks).1
    | .inr _ => []
  -- the records of the lanes of N, each read by its lane as a plain load would
  let reads (s : State) (w : Warp) (i : Iss) : List (Nat × List Byte) × State :=
    i.n.foldl (fun (p : List (Nat × List Byte) × State) l => match p.2.launchCheck i.u w l (va w l) with
      | .inl _ => p
      | .inr (r, t) => (p.1 ++ [(l, r)], t)) ([], s)
  let names (w : Warp) (i : Iss) : List Nat :=
    if c.s then w.children else (i.n.map (fun l => ((w.lane l).val c.r.toNat).toNat)).eraseDups
  Completes (.spawn a b) { srcs := [a.opd, .regs [b.toNat, b.toNat + 1, b.toNat + 2, b.toNat + 3] false], lpb := 0, ae := false, atHead := true }
    (fun s w i => w.kind = .warp ∧ (s.block w.block).migrated = false ∧ w.spawning = 0 ∧ w.spawned = 0 ∧ (∀ l ∈ i.n, ok s w i (t w l)) ∧ (all s w i).1 = i.n)
    (fun s w i => ((all s w i).2.updWarp i.u (fun x => { x with spawning := 0, spawned := 0 })).lanesTo i.u (i.ran (fun _ k => k))) ∧
  Completes .binfl { lpb := 0, scc := false, ae := false, atHead := true, perWarp := true } (fun _ _ _ => True)
    (fun s w i => (s.updCore w.core (fun c => { c with bins := Map.mapV c.bins (fun _ x =>
      if x.block = w.block then { x with flush := true, timer := false } else x) })).lanesTo i.u (i.ran (fun _ k => k))) ∧
  Completes (.launch d a) { srcs := [a.opd2], dsts := [d.toNat], lpb := 0, scc := false, ae := false, atHead := true, perWarp := true }
    (fun s w i => s.released i.u 3 = true ∧ ∀ l ∈ i.n, (va w l).toNat % 64 = 0 ∧
      (∃ ks, s.agentPlaces w (va w l) 64 true false = .inl ks ∧ s.recordWaits i.u l ks = false) ∧ s.badRecord w.ctx (rec_ s i.u w l) = none ∧
      ((s.block w.block).det = true → (gridRecOf (rec_ s i.u w l)).det = true))
    (fun s w i => ((reads s w i).1.foldl (fun (x : State) r =>
      (x.launch i.u (gridRecOf r.2)).2.deliver i.u r.1 [d] (x.launch i.u (gridRecOf r.2)).1 false) (reads s w i).2).lanesTo i.u
        (i.ran (fun _ k => k))) ∧
  (∀ (s : State) (u : Nat) (x : GridRec), let g := (s.block (s.warp u).block).grid
    ((s.warp u).kind = .warp → s.mailbag < 4096 → (x.counters = true → s.setsUsed < 512) →
      let h := (s.launch u x).1
      let y := (Map.get? (s.launch u x).2.grids h).getD Grid.absent
      (s.nextId ≠ 0 → h ≠ 0) ∧ (s.nextId < 2 ^ 32 → h = s.nextId) ∧ (2 ^ 32 ≤ s.nextId → 0 < h ∧ h ≤ s.grids.length + 1 ∧ Map.get? s.grids h = none) ∧
      (s.namesOk → Map.get? s.grids h = none) ∧
      y.info = x ∧ y.ctx = (s.warp u).ctx ∧ y.parentGrid = some g ∧ y.parentWarp = some u ∧ y.ended = false ∧
      y.next = 0 ∧ y.packet = (s.grid g).packet) ∧
    (4096 ≤ s.mailbag ∨ (x.counters = true ∧ 512 ≤ s.setsUsed) → s.launch u x = (0, s))) ∧
  Completes (.join c) { srcs := [c.opd], lpb := 0, scc := false, ae := false, inTask := false, perWarp := true }
    (fun s w i => c.s = true ∨ ∀ h ∈ names w i, Map.has s.grids h = true ∧ (s.grid h).parentGrid = some (s.block w.block).grid)
    (fun s w i => s.lanesTo i.u (i.ran (fun l k => if i.n.contains l then { k with place := .children (names w i) } else k)))

/-- R179 to R183, R425: arriving at a barrier, and waiting there. The lanes of N join M; once M holds every live lane the warp has arrived
in this phase; the first arrival of a phase fixes the count. BARB, BARC and BARLAST take the lanes of N off the frontier until the phase
ends, BARA does not; BARW waits without arriving where the warp has begun to arrive. -/
def Obligations.Barriers : Prop := ∀ (a : Src) (id : BitVec 6) (j : BitVec 4) (p : BitVec 3),
  let bar (s : State) (w : Warp) (cluster : Bool) (id : Nat) : Barrier :=
    if cluster then Map.getD (s.group (s.block w.block).group).bars id .fresh else Map.getD (s.block w.block).bars id .fresh
  let set (s : State) (w : Warp) (cluster : Bool) (id : Nat) (b : Barrier) : State :=
    if cluster then { s with groups := Map.upd s.groups (s.block w.block).group (fun g => { g with bars := Map.put g.bars id b }) }
    else { s with blocks := Map.upd s.blocks w.block (fun k => { k with bars := Map.put k.bars id b }) }
  let key (cluster : Bool) (id : Nat) : Nat := if cluster then 16 + id else id
  let m (w : Warp) (i : Iss) (k : Nat) : Word := Map.getD w.barM k 0 ||| maskOf i.n
  let whole (w : Warp) (i : Iss) (k : Nat) : Bool := maskOf w.liveLanes &&& ~~~ m w i k == 0
  let want (a : Src) (s : State) (w : Warp) (i : Iss) : Option Nat :=
    if a.s = true ∧ a.r = 60 then none else some (s.get w (i.act.headD 0) (w.lane (i.act.headD 0)) a).toNat
  let may (a : Src) (cluster : Bool) (id : Nat) (s : State) (w : Warp) (i : Iss) : Prop :=
    (∀ x ∈ w.lanes, x.1 < 32) ∧ s.loadsDone i.u = true ∧ Map.get? w.barLast (key cluster id) ≠ some (bar s w cluster id).phase ∧
    (∀ n, want a s w i = some n → 0 < n ∧ n ≤ 64 ∧ ∀ l ∈ i.act, (s.get w l (w.lane l) a).toNat = n) ∧
    ((bar s w cluster id).expected = none ∨ (bar s w cluster id).expected = some (want a s w i))
  let post (a : Src) (cluster : Bool) (id : Nat) (waits : Bool) (pd : Option (BitVec 3)) (s : State) (w : Warp) (i : Iss) : State :=
    let b := bar s w cluster id
    let k := key cluster id
    let s := set s w cluster id { b with expected := some (want a s w i), arrivals := if whole w i k then b.arrivals ++ [i.u] else b.arrivals }
    let s := s.updWarp i.u (fun x => if whole w i k then { x with barM := Map.del x.barM k, barLast := Map.put x.barLast k b.phase }
      else { x with barM := Map.put x.barM k (m w i k) })
    -- helper lanes of F take BARLAST's predicate too when the phase completes
    let s := match pd with
      | some p => s.updWarp i.u (fun x => { x with barHelp := x.barHelp ++ (i.act.filter (fun l => (w.lane l).helper)).map (fun l => (k, l, p)) })
      | none => s
    let s := if waits && !cluster && (s.block w.block).det then s.updCore w.core (fun c => { c with
      bins := Map.mapV c.bins (fun _ x => if x.warp = some i.u then { x with flush := true } else x) }) else s
    s.lanesTo i.u (i.ran (fun l k => if waits && i.n.contains l then { k with place := .bar cluster id b.phase pd } else k))
  let n (wlen : Nat) (a : Src) : Need := { srcs := [a.opd], lpb := 0, scc := false, ae := false, inTask := false, perWarp := true, wlen := wlen }
  let none_ : Src := ⟨60, true, false⟩
  let formed (s : State) (w : Warp) : Prop := w.walked = false ∨ (s.block w.block).det = false
  Completes (.barb a id) (n 2 a) (may a false id.toNat) (post a false id.toNat true none) ∧
  Completes (.barb16 j) (n 1 none_) (may none_ false j.toNat) (post none_ false j.toNat true none) ∧
  Completes (.bara a id) (n 2 a) (may a false id.toNat) (post a false id.toNat false none) ∧
  Completes (.barc a id) (n 2 a) (may a true id.toNat) (post a true id.toNat true none) ∧
  Completes (.barlast p a id) (n 2 a) (fun s w i => may a false id.toNat s w i ∧ formed s w) (post a false id.toNat true (some p)) ∧
  Completes (.barw a id) { lpb := 0, scc := false, ae := false, inTask := false } (fun s w _ => (s.block w.block).det = false) (fun s w i =>
    let b := bar s w false id.toNat
    s.lanesTo i.u (i.ran (fun l k => if i.n.contains l ∧ (Map.getD w.barM id.toNat 0 ≠ 0 ∨ Map.get? w.barLast id.toNat = some b.phase)
      then { k with place := .bar false id.toNat b.phase none } else k)))

/-- R22, R87, R113 to R116, R239 to R242, R248: a load, a store, an ordered access, an atomic or an accumulator image issues: its
destination registers become empty, it notes for each lane the address that R87 computes, the size, the rights that it asks and the data,
and translation begins. The lanes of F stay until its checks have ended. STO and an .ar atomic wait for the release before them; an image
is one address for the lanes of N. R113, R240 to R245, R300, R303: a load of the address engine whose register pushes to a FIFO leaves its
registers alone; the engine's other loads are loads. R206, R212, R247: the translations that a prefetch finds enter the TLBs; PRF requests
the sectors of the lines that it may bring into the L1, PRFL brings the lines into their home slices, INV clears the valid bit of every
sector of the core's L1 and of every fill on its way, and keeps the masked bytes. R417: SIGNAL checks an addition of b, sign-extended, to
the 64-bit word at each lane's signal. -/
def Obligations.MemoryIssue : Prop :=
  (∀ (d : BitVec 6) (a : RegE) (z c : BitVec 3) (o : BitVec 9) (ord : BitVec 2) (ar : Bool) (p : BitVec 5)
    (acc : Bool),
  let size : Nat := if z = 0 ∨ z = 5 then 1 else if z = 1 ∨ z = 6 then 2 else if z = 2 then 4 else if z = 3 then 8 else 16
  let regs (n : Nat) : List (BitVec 6) := (List.range ((n + 3) / 4)).map (fun j => d + BitVec.ofNat 6 j)
  let va (w : Warp) (l : Nat) : Dword := (w.lane l).val (a.r.toNat + 1) ++ (w.lane l).val a.r.toNat
  let data (w : Warp) (l : Nat) (n : Nat) : BitVec 128 := ((List.range ((n + 3) / 4)).map (fun j =>
    ((w.lane l).val (d.toNat + j)).setWidth 128 <<< (32 * j))).foldl (fun x y => x ||| y) 0
  let free (f : Warp → Nat → Dword) (s : State) (w : Warp) (i : Iss) : Prop :=
    ∀ l ∈ i.act, inWindow (f w l) = true → l ∉ s.waitingTasks w i.act
  let checked (what : Pending) (lanes : Iss → List Nat) (mark : List (BitVec 6)) (long : Bool) (f : Warp → Nat → Access) (s : State) (w : Warp)
      (i : Iss) : State :=
    (((s.lanesTo i.u (fun l k => if (lanes i).contains l then mark.foldl (fun k r => k.mark long r.toNat) k else k)).updWarp i.u (fun x =>
      { x with check := some ⟨what, lanes i, (lanes i).map (f w), i.len, [], [], [], none, i.frag, []⟩ })).startWalks i.u).lanesTo i.u i.rest
  let ea (w : Warp) (l : Nat) : Dword := va w l + BitVec.ofInt 64 (o.toInt * size)
  let srcs : List Opd := [a.opd2]
  let stored : List Opd := [a.opd2, .regs ((regs size).map (·.toNat)) false]
  let n (r : List Opd) (ds : List (BitVec 6)) : Need := { srcs := r, dsts := ds.map (·.toNat), mem := true }
  let isWide : Bool := 17 ≤ p.toNat
  let opRegs : Nat := if p = 19 then 4 else if 17 ≤ p.toNat ∨ (10 ≤ p.toNat ∧ p.toNat ≤ 12) then 2 else 1
  let asize : Nat := if isWide then 8 else 4
  let old : List (BitVec 6) := if isWide then [d, d + 1] else [d]
  let an (ds : List (BitVec 6)) : Need :=
    { n [a.opd2, .regs ((List.range opRegs).map (d.toNat + ·)) false] ds with ae := false, atHead := true }
  let may (ret : Bool) (s : State) (w : Warp) (i : Iss) : Prop := free va s w i ∧ (ar = true → s.released i.u c.toNat = true) ∧
    ((s.block w.block).det = true → w.kind = .warp → ret = false ∧ (p = 0 ∨ (2 ≤ p.toNat ∧ p.toNat ≤ 8) ∨ p = 18))
  let img : Need := { srcs := srcs, scc := false, ae := false, exact := true, perWarp := true, mem := true }
  let one (s : State) (w : Warp) (i : Iss) : Prop := free va s w i ∧ w.xaWait.contains acc = false ∧ ∀ l ∈ i.n, ∀ m ∈ i.n, va w l = va w m
  (z ≠ 7 →
    Completes (.ld d a z o) (n srcs (regs size)) (fun s w i => free ea s w i ∧ w.isAe = false)
      (checked (.ld d z) (·.act) (regs size) false (fun w l => ⟨l, ea w l, size, true, false, 0⟩)) ∧
    Completes (.st d a z o) { n stored [] with ae := false } (fun s w i => free ea s w i ∧ (z = 4 → ∀ l ∈ i.n, (w.lane l).task = none))
      (checked .st (·.n) [] false (fun w l => ⟨l, ea w l, size, false, true, data w l size⟩)) ∧
    Completes (.ldo d a z ord c) { n srcs (regs size) with ae := false } (free va)
      (checked (.ldo d z (ord = 1) c.toNat) (·.act) (regs size) true (fun w l => ⟨l, va w l, size, true, false, 0⟩)) ∧
    Completes (.sto d a z c) { n stored [] with ae := false, atHead := true } (fun s w i => free va s w i ∧ s.released i.u c.toNat = true)
      (checked (.sto c.toNat) (·.n) [] false (fun w l => ⟨l, va w l, size, false, true, data w l size⟩))) ∧
  Completes (.atom d a z c ar p) (an old) (may true) (checked (.atom d p.toNat true ar c.toNat) (·.n) old (decide (0 < c.toNat))
    (fun w l => ⟨l, va w l, asize, true, true, data w l (4 * opRegs)⟩)) ∧
  Completes (.atomn d a z c ar p) (an []) (may false) (checked (.atom d p.toNat false ar c.toNat) (·.n) [] (decide (0 < c.toNat))
    (fun w l => ⟨l, va w l, asize, true, true, data w l (4 * opRegs)⟩)) ∧
  Completes (.xld acc a) img one (checked (.img 0 acc) (·.n) [] false (fun w l => ⟨l, va w l, 552, true, false, 0⟩)) ∧
  Completes (.xst acc a) { img with atHead := true } one (checked (.img 1 acc) (·.n) [] false (fun w l => ⟨l, va w l, 552, false, true, 0⟩)) ∧
  Completes (.xaddm acc a) { img with atHead := true } one (checked (.img 2 acc) (·.n) [] false (fun w l => ⟨l, va w l, 552, true, true, 0⟩))) ∧
  (∀ (d : BitVec 6) (a : RegE) (o : BitVec 9),
  let ea (w : Warp) (l : Nat) : Dword := (w.lane l).val (a.r.toNat + 1) ++ (w.lane l).val a.r.toNat + BitVec.ofInt 64 (o.toInt * 4)
  let bank (w : Warp) : Option Nat := match w.kind with
    | .ae banks _ _ _ => if 56 ≤ d.toNat ∧ d.toNat < 60 then banks.getD (d.toNat - 56) none else none
    | _ => none
  let free (s : State) (w : Warp) (i : Iss) : Prop := ∀ l ∈ i.act, inWindow (ea w l) = true → l ∉ s.waitingTasks w i.act
  let checked (mark : List (BitVec 6)) (s : State) (w : Warp) (i : Iss) : State :=
    (((s.lanesTo i.u (fun l k => if i.act.contains l then mark.foldl (fun k r => k.mark false r.toNat) k else k)).updWarp i.u (fun x =>
      { x with check := some ⟨.aeLd d 2, i.act, i.act.map (fun l => ⟨l, ea w l, 4, true, false, 0⟩), i.len, [], [], [], none, i.frag, []⟩ })).startWalks
        i.u).lanesTo i.u i.rest
  Completes (.ld d a 2 o) { srcs := [a.opd2], dsts := [], mem := true } (fun s w i => free s w i ∧ (bank w).isSome = true ∧ s.aeLoads i.u < 16)
    (checked []) ∧
  Completes (.ld d a 2 o) { srcs := [a.opd2], dsts := [d.toNat], mem := true } (fun s w i => free s w i ∧ w.isAe = true ∧ bank w = none ∧
      s.aeLoads i.u < 16)
    (checked [d])) ∧
  (∀ (a : RegE),
  let va (w : Warp) (l : Nat) : Dword := (w.lane l).val (a.r.toNat + 1) ++ (w.lane l).val a.r.toNat
  let n : Need := { srcs := [a.opd2], ae := false, mem := true }
  let pages (s : State) (w : Warp) (i : Iss) : State := s.prefetchPages w i.act a.r
  let lines (s : State) (w : Warp) (i : Iss) : List (Nat × Nat) := (i.act.filterMap (fun l => ((pages s w i).prefetchPa w (va w l)).map (fun k =>
    ((i.frag.filter (· < l)).length / 8, k / 256)))).eraseDups
  Completes (.prf a) n (fun _ w _ => w.kind = .warp) (fun s w i =>
    ((lines s w i).foldl (fun s x => s.prefetchLine w.core (s.gridOf w) i.u x.2) (pages s w i)).lanesTo i.u (i.ran (fun _ k => k))) ∧
  Completes (.prf a) n (fun _ w _ => w.isScc = true) (fun s w i => (pages s w i).lanesTo i.u (i.ran (fun _ k => k))) ∧
  Completes (.prfl a) n (fun _ _ _ => True) (fun s w i =>
    ((lines s w i).foldl (fun s x => s.countServed (s.gridOf w) [x.2 * 256]) (pages s w i)).lanesTo i.u (i.ran (fun _ k => k))) ∧
  Completes .inv { ae := false, mem := true, perWarp := true } (fun _ w _ => w.kind = .warp) (fun s w i =>
    ({ s.updCore w.core (fun c => { c with l1 := (c.l1.filter (fun p => p.2.mask ≠ 0)).map (fun p =>
        (p.1, { p.2 with valid := 0, data := p.2.data.filter (fun x => p.2.mask.getLsbD x.1) })) }) with
      reqs := s.reqs.map (fun p => match p.2 with
        | .fill f => if f.core = w.core then (p.1, .fill { f with stale := true }) else p
        | _ => p) } : State).lanesTo i.u (i.ran (fun _ k => k)))) ∧
  (∀ (a : RegE) (b : Src),
  let va (w : Warp) (l : Nat) : Dword := (w.lane l).val (a.r.toNat + 1) ++ (w.lane l).val a.r.toNat
  Completes (.signal a b) { srcs := [a.opd2, b.opd], lpb := 0, ae := false, atHead := true, mem := true }
    (fun s w i => ∀ l ∈ i.act, inWindow (va w l) = true → l ∉ s.waitingTasks w i.act)
    (fun s w i => ((s.updWarp i.u (fun x => { x with check := some ⟨.signal, i.n, i.n.map (fun l =>
      ⟨l, va w l, 8, true, true, ((s.get w l (w.lane l) b).signExtend 64).setWidth 128⟩), i.len, [], [], [], none, i.frag, []⟩ })).startWalks i.u).lanesTo
        i.u i.rest))

/-- R213, R256, R257, R300, R358: LDL and STL find each lane's label and element: in bounds an access at base + row × pitch + column ×
element size, computed exactly; out of bounds the pad, or 0 in a helper lane whose label traps there, or nothing. A dead handle traps
PROTECTION, the odd or unnameable register of an 8-byte element ILLEGAL, and an element out of bounds of a label that traps there
OUT_OF_BOUNDS; that they come in this order where lanes fail different checks is the model's choice (log entry 111), and so is the
non-canonical address that stands for one from 2^64 on (log entry 108). R213, R214, R256, R258: LBDEF reads a record that keeps R213's
rules and gives its handle, slot + 64 × generation, or 0 where the table is full; LBFREE frees each lane's label, whose slot returns once
no engine command holds it. -/
def Obligations.LabelInstructions : Prop :=
  (∀ (d : BitVec 6) (a b : RegE),
  let lab (s : State) (w : Warp) (i : Iss) (l : Nat) : Option Label :=
    (s.core w.core).label (if w.isScc then i.u else w.block) ((w.lane l).val a.r.toNat)
  let row (w : Warp) (l : Nat) : Int := ((w.lane l).val b.r.toNat).toInt
  let col (w : Warp) (l : Nat) : Int := ((w.lane l).val (b.r.toNat + 1)).toInt
  let size (s : State) (w : Warp) (i : Iss) (l : Nat) : Nat := ((lab s w i l).map (·.esize)).getD 4
  let ins (s : State) (w : Warp) (i : Iss) (l : Nat) : Bool := match lab s w i l with
    | some x => decide (0 ≤ row w l ∧ row w l < x.d0 ∧ 0 ≤ col w l ∧ col w l < x.d1)
    | none => false
  let va (s : State) (w : Warp) (i : Iss) (l : Nat) : Dword := match lab s w i l with
    | some x =>
      let at_ : Int := x.base.toNat + row w l * x.pitch + col w l * x.esize
      if at_ < 2 ^ 64 then BitVec.ofInt 64 at_ else 0x8000000000000000 ||| BitVec.ofInt 64 (at_ % 2 ^ 56)
    | none => 0
  let up : Nat := d.toNat + 1
  let bad (s : State) (w : Warp) (i : Iss) (l : Nat) : Prop := ∃ x, lab s w i l = some x ∧ x.trapOut = true ∧ ins s w i l = false
  let may (s : State) (w : Warp) (i : Iss) (ls : List Nat) : Prop :=
    (∀ l ∈ i.n, (lab s w i l).isSome = true ∧ ¬ bad s w i l ∧ (size s w i l = 8 → d.toNat % 2 = 0)) ∧
    (∀ l ∈ i.act, size s w i l = 8 → nameable (s.nregs w) up = true ∧ w.mapOf up = none ∧ ((w.lane l).cell up).fe = .full) ∧
    (w.isAe = true → s.aeLoads i.u < 16) ∧
    (∀ l ∈ ls, ins s w i l = true → inWindow (va s w i l) = true → l ∉ s.waitingTasks w i.act)
  let regs (n : Nat) : List (BitVec 6) := (List.range ((n + 3) / 4)).map (fun j => d + BitVec.ofNat 6 j)
  let checked (what : Pending) (ls : List Nat) (mark : Nat → List (BitVec 6)) (f : Nat → Access) (s : State) (w : Warp) (i : Iss) : State :=
    (((s.lanesTo i.u (fun l k => if ls.contains l then (mark l).foldl (fun k r => k.mark false r.toNat) k else k)).updWarp i.u (fun x =>
      { x with check := some ⟨what, ls, (ls.filter (ins s w i)).map f, i.len, [], [], [], none, i.frag, []⟩ })).startWalks i.u).lanesTo i.u i.rest
  Completes (.ldl d a b) { srcs := [a.opd, b.opd2], dsts := [d.toNat], mem := true } (fun s w i => may s w i i.act) (fun s w i =>
    checked (.ldl d ((i.act.filter (fun l => !ins s w i l)).map (fun l => (l, size s w i l, match lab s w i l with
        | some x => if (w.lane l).helper = true ∧ x.trapOut = true then 0 else BitVec.ofNat 64 (x.pad.toNat % 2 ^ (8 * x.esize))
        | none => 0))))
      i.act (fun l => regs (if i.act.contains l then size s w i l else 4)) (fun l => ⟨l, va s w i l, size s w i l, true, false, 0⟩) s w i) ∧
  Completes (.stl d a b) { srcs := [a.opd, b.opd2, .regs [d.toNat] false], mem := true, ae := false } (fun s w i => may s w i i.n) (fun s w i =>
    checked .stl i.n (fun _ => []) (fun l => ⟨l, va s w i l, size s w i l, false, true,
      if size s w i l = 8 then ((w.lane l).val up ++ (w.lane l).val d.toNat : BitVec 64).setWidth 128
      else if size s w i l ≤ 4 then ((w.lane l).val d.toNat).setWidth 128 else (w.lane l).quadVal d⟩) s w i) ∧
  (∀ (x : Instr) (n : Need), x = .ldl d a b ∧ n = { srcs := [a.opd, b.opd2], dsts := [d.toNat], mem := true } ∨
      x = .stl d a b ∧ n = { srcs := [a.opd, b.opd2, .regs [d.toNat] false], mem := true, ae := false } →
    ∀ s u w h, s.Ready u w h n → let i := w.iss u h n.wlen
    let traps (cause : Nat) (addr : Dword) (info : Word) : Prop := exec x s = .next (s.fragTrap i cause (fun _ => ⟨cause, addr, info⟩))
    (∀ l ms ns, i.n = ms ++ l :: ns → (∀ m ∈ ms, (lab s w i m).isSome = true) → lab s w i l = none → w.mapOf up = none →
        (∀ m ∈ i.act, ((w.lane m).cell up).fe = .full) → traps 0x09 0 ((w.lane l).val a.r.toNat)) ∧
    ((∀ l ∈ i.n, (lab s w i l).isSome = true) → (∀ m ∈ i.act, ((w.lane m).cell up).fe = .full) → w.mapOf up = none →
      ((d.toNat % 2 = 1 ∨ nameable (s.nregs w) up = false) → (∃ l ∈ i.n, size s w i l = 8) → traps 0x01 0 0) ∧
      ((∀ l ∈ i.n, size s w i l = 8 → d.toNat % 2 = 0 ∧ nameable (s.nregs w) up = true) →
        ∀ l ms ns, i.n = ms ++ l :: ns → (∀ m ∈ ms, ¬ bad s w i m) → bad s w i l →
          traps 0x1A ((BitVec.ofInt 32 (row w l)).setWidth 64) (BitVec.ofInt 32 (col w l)))))) ∧
  (∀ (d : BitVec 6) (a : RegE),
  let va (w : Warp) (l : Nat) : Dword := (w.lane l).val (a.r.toNat + 1) ++ (w.lane l).val a.r.toNat
  let at_ (w : Warp) (i : Iss) : Dword := va w (i.n.headD 0)
  let read (s : State) (w : Warp) (i : Iss) : List Byte × State := match s.agentPlaces w (at_ w i) 32 true false with
    | .inl ks => s.readRecord i.u (i.n.headD 0) (at_ w i) ks
    | .inr _ => ([], s)
  let own (w : Warp) (i : Iss) : Nat := if w.isScc then i.u else w.block
  let slot (s : State) (w : Warp) : Option Nat := (List.range 64).find? (fun k =>
    match Map.get? (s.core w.core).labels k with | some x => x.val.isNone | none => true)
  let gen (s : State) (w : Warp) (k : Nat) : Nat := match Map.get? (s.core w.core).labels k with
    | some x => if x.gen = 1023 then 1 else x.gen + 1
    | none => 1
  let handle (w : Warp) (l : Nat) : Word := (w.lane l).val a.r.toNat
  Completes (.lbdef d a) { srcs := [a.opd2], dsts := [d.toNat], lpb := 0, ae := false, atHead := true, mem := true, perWarp := true }
    (fun s w i => (∀ l ∈ i.n, va w l = at_ w i) ∧ (at_ w i).toNat % 32 = 0 ∧
      (∃ ks, s.agentPlaces w (at_ w i) 32 true false = .inl ks ∧ s.recordWaits i.u (i.n.headD 0) ks = false) ∧
      badLabel (read s w i).1 = none)
    (fun s w i =>
      let f (off n : Nat) : Nat := leNat (((read s w i).1.drop off).take n)
      let s := (read s w i).2
      match slot s w with
      | none => (s.deliverAll i [d] 0 false).lanesTo i.u (i.ran (fun _ k => k))
      | some k => ((s.updCore w.core (fun c => { c with labels := Map.put c.labels k ⟨gen s w k, some
          ⟨own w i, BitVec.ofNat 64 (f 0 8), f 8 4, f 12 4, f 16 4, 2 ^ f 20 1, f 21 1, f 22 2, BitVec.ofNat 32 (f 24 4), f 28 1 % 2 == 1,
            true, 0⟩⟩ })).deliverAll i [d] (k + 64 * gen s w k) false).lanesTo i.u (i.ran (fun _ k => k))) ∧
  Completes (.lbfree a) { srcs := [a.opd], lpb := 0, ae := false, atHead := true, perWarp := true }
    (fun s w i => (∀ l ∈ i.n, ((s.core w.core).label (own w i) (handle w l)).isSome = true) ∧ (i.n.map (handle w)).Nodup)
    (fun s w i => (s.updCore w.core (fun c => i.n.foldl (fun c l => { c with
      labels := Map.upd c.labels ((handle w l).toNat % 64) (fun x => { x with val := x.val.bind (fun y =>
        if y.holds = 0 then none else some { y with live := false }) }) }) c)).lanesTo i.u (i.ran (fun _ k => k))))

/-- R204, R205, R238, R252 to R254: the queue instructions on a FIFO bank that the agent has the rights of. That QMAP completes where a
lane outside its fragment holds an orphan in the register is the model's choice (log entry 104), and that QTST leaves helper lanes'
predicates alone its reading (log entry 91). R19, R20, R86, R205, R253, R272: a read of a register mapped to a FIFO, by an instruction of
any meaning: in a task that is not the head it parks; an empty FIFO without an open producer traps QUEUE_CLOSED, with one EMPTY_READ where
the e-bit is set, and else the instruction waits out of the active set; where the FIFO holds a group, the instruction takes the oldest,
and each lane of F reads its own element, or element 0 on the scalar control core; a group still held is read again. A write of a mapped
register is ILLEGAL. A POPC of a mapped register completes so: the group leaves the FIFO, no group stays held, and the destination is
empty until the value arrives. R195, R196, R251: BANKCFG starts the change of a bank's mode; the fragment stays until the change has
completed or failed. A bank that leaves CACHE takes no more lines where the change can succeed. -/
def Obligations.QueuesAndBanks : Prop :=
  (∀ (d b : BitVec 6) (a : RegE) (p : BitVec 3),
  let n (srcs : List Opd) : Need := { srcs := srcs, lpb := 0, ae := false, atHead := true, perWarp := true }
  let bank (s : State) (w : Warp) : Bank := Map.getD (s.core w.core).bank b.toNat (.initial b.toNat)
  let rights (s : State) (w : Warp) (_ : Iss) : Prop := (bank s w).mode = 2 ∧ (w.isScc = true ∨ ((bank s w).ownerScc = false ∧
    (bank s w).owner = some w.block ∧ (s.block w.block).migrated = false))
  let set (x : Bank) (s : State) (w : Warp) (i : Iss) : State :=
    (s.updCore w.core (fun c => { c with bank := Map.put c.bank b.toNat x })).lanesTo i.u (i.ran (fun _ k => k))
  Completes (.qmap d b) (n [.regs [d.toNat] false]) (fun s w i => rights s w i ∧ w.mapOf d.toNat = none ∧ w.qmaps.length < 4 ∧
      ∀ x ∈ w.lanes, x.2.place = .ended ∨ ((x.2.cell d.toNat).fe ≠ .empty true ∧ (x.2.cell d.toNat).fe ≠ .empty false))
    (fun s w i => (s.updWarp i.u (fun x => { x with qmaps := x.qmaps ++ [⟨d.toNat, b.toNat, w.lanes.map (fun y => (y.1, y.2.cell d.toNat)),
      none⟩] })).lanesTo i.u (i.ran (fun _ k => k))) ∧
  (∀ q : QMap, Completes (.qunmap d) (n []) (fun s w _ => nameable (s.nregs w) d.toNat = true ∧ w.mapOf d.toNat = some q)
    (fun s _ i => ((s.updWarp i.u (fun x => { x with qmaps := x.qmaps.filter (fun m => m.reg != d.toNat) })).lanesTo i.u (fun l k =>
      k.put d.toNat (Map.getD q.kept l .zero).v)).lanesTo i.u (i.ran (fun _ k => k)))) ∧
  Completes (.qunmap d) (n []) (fun s w _ => nameable (s.nregs w) d.toNat = true ∧ w.mapOf d.toNat = none)
    (fun s _ i => s.lanesTo i.u (i.ran (fun _ k => k))) ∧
  Completes (.qtst p b) (n []) rights (fun s w i => s.lanesTo i.u (i.ran (fun _ k => if k.helper then k else k.putP p
    (decide ((bank s w).fifo ≠ [] ∨ 0 < (bank s w).producers) || w.qmaps.any (fun q => q.bank == b.toNat && q.held.isSome))))) ∧
  Completes (.qpush a b) (n [a.opd]) (fun s w i => rights s w i ∧ 0 < (bank s w).producers ∧ (bank s w).fifo.length < 512) (fun s w i =>
    set { bank s w with fifo := (bank s w).fifo ++ [(List.range 32).map (fun l => if l ∈ i.n then (w.lane l).val a.r.toNat else 0)] } s w i) ∧
  Completes (.qclose b) (n []) (fun s w i => rights s w i ∧ 0 < (bank s w).producers) (fun s w i =>
    set { bank s w with producers := (bank s w).producers - 1 } s w i) ∧
  Completes (.qopen b) (n []) (fun s w i => rights s w i ∧ (bank s w).producers < 255) (fun s w i =>
    set { bank s w with producers := (bank s w).producers + 1 } s w i)) ∧
  ((∀ (s : State) (u : Nat) (w : Warp) (h : Lane) (n : Need) (k : Iss → State → Eff) (q : QMap) (rs : List Nat) (e : Bool) (os : List Opd),
    let i := w.iss u h n.wlen
    let bank := (s.core w.core).bankOf q.bank
    let read (s : State) (g : List Word) : State := s.updWarp u (fun w => { w with
      qmaps := [{ q with held := some g }]
      lanes := Map.mapV w.lanes (fun l k => if i.act.contains l then k.put q.reg (g.getD (if w.isScc then 0 else l) 0) else k) })
    s.acts u w → w.busy = false → w.head = some h → (∀ j < 8, i.wait.getLsbD j = true → w.tokBusy j = false) → i.n ≠ [] → w.qmaps = [q] →
    (q.reg ∈ n.dsts → issue s n k = .next (s.fragTrap i 0x01 (fun _ => ⟨0x01, 0, 0⟩))) ∧
    (s.illegal w i n = false → (n.handler = true → i.handler = true) → n.srcs = .regs rs e :: os → q.reg ∈ rs →
      (s.waitingTasks w i.act ≠ [] → issue s n k = .next (s.parkHead i (s.waitingTasks w i.act))) ∧
      (s.waitingTasks w i.act = [] → (∀ l ∈ i.n, ∀ r ∈ rs, r ≠ q.reg → ((w.lane l).cell r).fe ≠ .orphan) →
        (q.held = none → bank.fifo = [] →
          (bank.producers = 0 → issue s n k = .next (s.fragTrap i 0x05 (fun _ => ⟨0x05, 0, 0⟩))) ∧
          (bank.producers ≠ 0 → e = true → issue s n k = .next (s.fragTrap i 0x02 (fun _ => ⟨0x02, 0, 0⟩))) ∧
          (bank.producers ≠ 0 → e = false → os = [] → (∀ l y, n.also l y = []) → (n.mem = true → w.acquiring = false) →
            ∃ t, issue s n k = .next t ∧ (t.warp u).lanes = w.lanes ∧ (t.core w.core).active.contains u = false ∧ t.mem = s.mem ∧ t.reqs = s.reqs ∧
              (t.core w.core).bank = (s.core w.core).bank)) ∧
        (os = [] → (∀ l y, n.also l y = []) → (n.mem = true → w.acquiring = false) →
          (∀ l ∈ i.act, ∀ r ∈ n.names, r ≠ q.reg → ((w.lane l).cell r).fe = .full) →
          (∀ g, q.held = some g → issue s n k = .next (s.outcome (read s g) w i n (k i (read s g)))) ∧
          (∀ g gs, q.held = none → bank.fifo = g :: gs →
            let s' := read ((s.updCore w.core (fun c => { c with bank := Map.put c.bank q.bank { bank with fifo := gs } })).count (s.gridOf w) 0x1D 1) g
            issue s n k = .next (s.outcome s' w i n (k i s'))))))) ∧
  (∀ (d r : BitVec 6) (e : Bool) (s : State) (u : Nat) (w : Warp) (h : Lane) (g : List Word) (gs : List (List Word)) (b : Nat) (kept : Map Cell),
    let i := w.iss u h 2
    let bank := (s.core w.core).bankOf b
    s.acts u w → w.busy = false → w.head = some h → (∀ j < 8, i.wait.getLsbD j = true → w.tokBusy j = false) → i.n ≠ [] → w.kind = .warp →
    (s.core w.core).trace = none → nameable (s.nregs w) d.toNat = true → nameable (s.nregs w) r.toNat = true → d ≠ r →
    w.qmaps = [⟨r.toNat, b, kept, none⟩] → bank.fifo = g :: gs → s.waitingTasks w i.act = [] → (∀ l ∈ i.act, ((w.lane l).cell d.toNat).fe = .full) →
    ∃ t, exec (.popc d ⟨r, false, e⟩) s = .next t ∧ (t.core w.core).bankOf b = { bank with fifo := gs } ∧
      (t.warp u).qmaps = [⟨r.toNat, b, kept, none⟩] ∧
      (∀ l ∈ i.act, Map.has w.lanes l = true → ((t.warp u).lane l).cell d.toNat = ⟨(w.lane l).val d.toNat, .empty true⟩ ∧
        ∃ id, s.nextId ≤ id ∧ Map.get? t.reqs id = some (.load { Load.value w.core u l [d]
          ((List.range 32).filter (fun j => (g.getD l 0).getLsbD j)).length with src := 1 })) ∧
      t.mem = s.mem ∧ t.blocks = s.blocks ∧ t.scopeWrites = s.scopeWrites)) ∧
  (∀ (p : BitVec 3) (a b : Src),
  let one (s : State) (w : Warp) (i : Iss) (x : Src) : Word := s.get w (i.n.headD 0) (w.lane (i.n.headD 0)) x
  let bank (s : State) (w : Warp) (k : Nat) : Bank := Map.getD (s.core w.core).bank k (.initial k)
  Completes (.bankcfg p a b) { srcs := [a.opd, b.opd], lpb := 0, ae := false, perWarp := true }
    (fun s w i => (∀ l ∈ i.n, s.get w l (w.lane l) a = one s w i a ∧ s.get w l (w.lane l) b = one s w i b) ∧
      (one s w i a).toNat ≤ 36 ∧ (one s w i b).toNat ≤ 2 ∧ (s.core w.core).cfg = none)
    (fun s w i =>
      let k := (one s w i a).toNat
      let m := (one s w i b).toNat
      let stops : Bool := decide ((bank s w k).mode = 0 ∧ m ≠ 0 ∧
        ∃ j ∈ List.range 37, j ≠ k ∧ (bank s w j).mode = 0 ∧ (bank s w j).stopping = false)
      ((s.updCore w.core (fun c => { c with
        bank := if stops then Map.put c.bank k { bank s w k with stopping := true } else c.bank
        cfg := some ⟨k, m, i.u, i.act, i.len, p⟩ })).updWarp i.u (fun x => { x with hold := some .bankcfg })).lanesTo i.u i.rest))

/-- R281 to R289: CPY, CPYD, CPYT and GATHD put their commands into the queue of 64 of their engine, where those of saved blocks do not
count, each with its token, its destination, its length and shape, its barrier where it credits one (which it then refers to), its record
flag and tag; the labels of a tile copy are held. R414, R415: COLL puts a collective of its peer group in the queue of its engine, with
the group's next sequence number, and adds to its token. -/
def Obligations.EngineCommands : Prop :=
  (∀ (d a b : BitVec 6) (k : BitVec 3) (rec : Bool),
  let n (srcs : List Opd) : Need := { srcs := srcs, lpb := 0, ae := false, atHead := true, mem := true, perWarp := true }
  let two (r : BitVec 6) : Opd := .regs [r.toNat, r.toNat + 1] false
  let v2 (w : Warp) (l : Nat) (r : BitVec 6) : Dword := (w.lane l).val (r.toNat + 1) ++ (w.lane l).val r.toNat
  let rights (s : State) (w : Warp) : Prop := w.isScc = true ∨ (s.block w.block).producer = some w.wix
  let room (s : State) (w : Warp) (cls m : Nat) : Prop :=
    (s.copies.filter (fun c => c.2.core == w.core && c.2.cls == cls && !Map.has s.saved c.2.block && (s.awayWarp c.2.warp).isNone)).length + m ≤ 64
  let ranges (s : State) (w : Warp) (src dst : Dword) (m n : Nat) : Prop := s.rangeTrap w src m = none ∧ s.rangeTrap w dst n = none ∧
    ¬(0 < n ∧ src.toNat < dst.toNat ∧ dst.toNat < src.toNat + m)
  let cmd (s : State) (w : Warp) (i : Iss) (cls : Nat) (dst : Dword) (bytes : Nat) (shape : CopyShape) (bar : Option BarRef) (rec : Bool)
      (tag : Word) : Copy :=
    ⟨w.core, i.u, w.block, s.gridOf w, w.ctx, cls, dst, bytes, shape, bar, k.toNat, rec, tag, 0, none, none, [], s.targets w⟩
  let enter (s : State) (c : Copy) : State :=
    let t : State := ({ s with copies := Map.put s.copies s.nextId c, nextId := s.nextId + 1 } : State).updWarp c.warp (fun x => { x with
      tok := Map.setD x.tok c.token (Map.getD x.tok c.token 0 + 1) 0 })
    match c.bar.bind (fun r => Map.find? t.cores (fun _ x => r.isIn x.tbars)), c.bar with
    | some (core, _), some r => t.updCore core (fun x => { x with tbars := Map.upd x.tbars r.slot (fun z => { z with
        val := z.val.map (fun y => { y with refs := y.refs + 1 }) }) })
    | _, _ => t
  let tag (w : Warp) (l : Nat) : Word := if w.isScc then 0xFFFF else BitVec.ofNat 32 (w.wix * 32 + l)
  let block (s : State) (w : Warp) (i : Iss) (m : Nat) : List Byte × State := match s.agentPlaces w (v2 w (i.n.headD 0) a) m true false with
    | .inl ks => s.readRecord i.u (i.n.headD 0) (v2 w (i.n.headD 0) a) ks
    | .inr _ => ([], s)
  let described (s : State) (w : Warp) (i : Iss) (m al : Nat) : Prop := (∀ l ∈ i.n, v2 w l a = v2 w (i.n.headD 0) a) ∧
    (v2 w (i.n.headD 0) a).toNat % al = 0 ∧ ∃ ks, s.agentPlaces w (v2 w (i.n.headD 0) a) m true false = .inl ks ∧ s.recordWaits i.u (i.n.headD 0) ks = false
  let f (s : State) (w : Warp) (i : Iss) (m off n : Nat) : Nat := leNat (((block s w i m).1.drop off).take n)
  let bar (s : State) (w : Warp) (i : Iss) (h flags : Nat) : Option BarRef := if flags % 2 = 0 then none else
    (s.tbarOf i.u w (BitVec.ofNat 32 h)).map (fun x => ⟨x.2.2.owner, h % 64, h / 256⟩)
  let barOk (s : State) (w : Warp) (i : Iss) (h flags : Nat) : Prop := flags < 4 ∧ (flags % 2 = 1 → h ≠ 0xFFFFFFFF) ∧
    (h ≠ 0xFFFFFFFF → (s.tbarOf i.u w (BitVec.ofNat 32 h)).isSome = true)
  let handle (w : Warp) (l : Nat) (r : BitVec 6) : Word := (w.lane l).val r.toNat
  let c (w : Warp) (l j : Nat) : Int := ((w.lane l).val (d.toNat + j)).toInt
  let lab (s : State) (w : Warp) (i : Iss) (l : Nat) (r : BitVec 6) : Label :=
    ((s.core w.core).label (if w.isScc then i.u else w.block) (handle w l r)).getD ⟨0, 0, 0, 0, 0, 0, 0, 0, 0, false, false, 0⟩
  let tile (s : State) (w : Warp) (i : Iss) (l : Nat) : Copy :=
    cmd s w i 1 ((lab s w i l b).tileFirst (c w l 2) (c w l 3)) ((lab s w i l b).tileBytes (c w l 2) (c w l 3))
      (.tile (lab s w i l a) (lab s w i l b) (handle w l a) (handle w l b) (c w l 0) (c w l 1) (c w l 2) (c w l 3)) none rec (tag w l)
  let own (s : State) (w : Warp) (x : Label) (r q : Int) : Prop := 0 < x.tileBytes r q → s.rangeTrap w (x.tileFirst r q) (x.tileSpan r q) = none
  Completes (.cpy d a b k rec) (n [two a, two b, .regs [d.toNat] false]) (fun s w i => rights s w ∧ room s w 1 i.n.length ∧
      ∀ l ∈ i.n, ranges s w (v2 w l b) (v2 w l a) (handle w l d).toNat (handle w l d).toNat)
    (fun s w i => (i.n.foldl (fun x l => enter x (cmd s w i 1 (v2 w l a) (handle w l d).toNat (.linear (v2 w l b)) none rec (tag w l)))
      s).lanesTo i.u (i.ran (fun _ k => k))) ∧
  Completes (.cpyd a k rec) (n [two a]) (fun s w i => let f := f s w i 32
      rights s w ∧ described s w i 32 32 ∧ room s w 1 1 ∧ barOk s w i (f 20 4) (f 24 4) ∧
      ranges s w (BitVec.ofNat 64 (f 8 8)) (BitVec.ofNat 64 (f 0 8)) (f 16 4) (f 16 4))
    (fun s w i => let f := f s w i 32
      let t := (block s w i 32).2
      (enter t (cmd s w i 1 (BitVec.ofNat 64 (f 0 8)) (f 16 4) (.linear (BitVec.ofNat 64 (f 8 8))) (bar s w i (f 20 4) (f 24 4))
        (rec || f 24 4 / 2 % 2 == 1) (BitVec.ofNat 32 (f 28 4)))).lanesTo i.u (i.ran (fun _ k => k))) ∧
  Completes (.gathd a k rec) (n [two a]) (fun s w i => let f := f s w i 48
      rights s w ∧ described s w i 48 16 ∧ room s w 2 1 ∧ barOk s w i (f 36 4) (f 40 4) ∧ f 16 8 % 4 = 0 ∧
      (1 ≤ f 24 4 ∧ f 24 4 ≤ 2 ^ 24) ∧ (1 ≤ f 28 4 ∧ f 28 4 ≤ 65536) ∧
      ranges s w (BitVec.ofNat 64 (f 16 8)) (BitVec.ofNat 64 (f 0 8)) (4 * f 24 4) (f 24 4 * f 28 4))
    (fun s w i => let f := f s w i 48
      let t := (block s w i 48).2
      (enter t (cmd s w i 2 (BitVec.ofNat 64 (f 0 8)) (f 24 4 * f 28 4) (.gather (BitVec.ofNat 64 (f 8 8)) (BitVec.ofNat 64 (f 16 8)) (f 28 4)
        (f 32 4)) (bar s w i (f 36 4) (f 40 4)) (rec || f 40 4 / 2 % 2 == 1) (BitVec.ofNat 32 (f 44 4)))).lanesTo i.u
          (i.ran (fun _ k => k))) ∧
  Completes (.cpyt d a b k rec) (n [.regs [a.toNat] false, .regs [b.toNat] false, .regs [d.toNat, d.toNat + 1, d.toNat + 2, d.toNat + 3] false])
    (fun s w i => rights s w ∧ room s w 1 i.n.length ∧ ∀ l ∈ i.n, ∃ x y,
      (s.core w.core).label (if w.isScc then i.u else w.block) (handle w l a) = some x ∧
      (s.core w.core).label (if w.isScc then i.u else w.block) (handle w l b) = some y ∧
      x.esize = y.esize ∧ x.tileRows = y.tileRows ∧ x.tileCols = y.tileCols ∧
      (x.trapOut = true → x.whole (c w l 0) (c w l 1) = true) ∧ (y.trapOut = true → y.whole (c w l 2) (c w l 3) = true) ∧
      -- the bytes of each tile that lie in bounds, where it has any, are its range
      own s w x (c w l 0) (c w l 1) ∧ own s w y (c w l 2) (c w l 3) ∧ (0 < x.tileBytes (c w l 0) (c w l 1) → 0 < y.tileBytes (c w l 2) (c w l 3) →
        ranges s w (x.tileFirst (c w l 0) (c w l 1)) (y.tileFirst (c w l 2) (c w l 3)) (x.tileSpan (c w l 0) (c w l 1)) (y.tileSpan (c w l 2) (c w l 3))))
    (fun s w i => ((i.n.foldl (fun x l => enter x (tile s w i l)) s).updCore w.core (fun x => i.n.foldl (fun x l =>
      [handle w l a, handle w l b].foldl (fun x h => { x with labels := Map.upd x.labels (h.toNat % 64) (fun y => { y with
        val := y.val.map (fun z => { z with holds := z.holds + 1 }) }) }) x) x)).lanesTo i.u (i.ran (fun _ k => k)))) ∧
  (∀ (a : BitVec 6) (k : BitVec 3) (g : PeerGroup),
  let va (w : Warp) (l : Nat) : Dword := (w.lane l).val (a.toNat + 1) ++ (w.lane l).val a.toNat
  let at_ (w : Warp) (i : Iss) : Dword := va w (i.n.headD 0)
  let read (s : State) (w : Warp) (i : Iss) : List Byte × State := match s.agentPlaces w (at_ w i) 64 true false with
    | .inl ks => s.readRecord i.u (i.n.headD 0) (at_ w i) ks
    | .inr _ => ([], s)
  let rec_ (s : State) (w : Warp) (i : Iss) : List Byte := (read s w i).1
  let f (s : State) (w : Warp) (i : Iss) (off n : Nat) : Nat := leNat (((rec_ s w i).drop off).take n)
  Completes (.coll a k)
    { srcs := [.regs [a.toNat, a.toNat + 1] false], lpb := 0, scc := false, ae := false, atHead := true, mem := true, perWarp := true }
    (fun s w i => (∀ l ∈ i.n, va w l = at_ w i) ∧ (at_ w i).toNat % 64 = 0 ∧ (∃ ks, s.agentPlaces w (at_ w i) 64 true false = .inl ks ∧ s.recordWaits i.u (i.n.headD 0) ks = false) ∧
      badColl (rec_ s w i) = none ∧ Map.get? (s.ctx w.ctx).groups (f s w i 4 4) = some g ∧
      ¬((s.block w.block).det = true ∧ f s w i 1 1 = 0 ∧ f s w i 2 1 ≠ 3))
    (fun s w i =>
      let f := f s w i
      let c : Coll := ⟨w.core, i.u, w.block, (s.block w.block).grid, w.ctx, k.toNat, f 0 1, f 1 1, f 2 1, f 3 1, f 4 4, BitVec.ofNat 64 (f 8 8),
        BitVec.ofNat 64 (f 16 8), f 24 8, f 32 2, f 34 2, f 36 4, f 40 4 % 2 == 1, BitVec.ofNat 32 (f 44 4), g.seq, none, none, s.targets w, 0⟩
      let t : State := (read s w i).2.updCtx w.ctx (fun x => { x with groups := Map.put x.groups (f 4 4) { g with seq := g.seq + 1 } })
      (({ t with colls := Map.put t.colls t.nextId c, nextId := t.nextId + 1 } : State).updWarp i.u (fun x => { x with
        tok := Map.setD x.tok k.toNat (Map.getD x.tok k.toNat 0 + 1) 0 })).lanesTo i.u (i.ran (fun _ k => k))))

/-- R292 to R295: the transaction barrier instructions. A handle is 256 × generation + 64 × position + slot. -/
def Obligations.TransactionBarriers : Prop := ∀ (d : BitVec 6) (a b : RegE) (q : Bool) (p : BitVec 3) (core k : Nat) (y : TBar),
  let n (srcs : List Opd) : Need := { srcs := srcs, lpb := 0, ae := false, atHead := true, mem := false, perWarp := true }
  let h (w : Warp) (i : Iss) (r : Nat) : Word := (w.lane (i.n.headD 0)).val r
  let on (s : State) (w : Warp) (i : Iss) : Prop := (∀ l ∈ i.n, (w.lane l).val a.r.toNat = h w i a.r.toNat) ∧
    s.tbarOf i.u w (h w i a.r.toNat) = some (core, k, y)
  let set (s : State) (z : TBar) : State := s.updCore core (fun c => { c with tbars := Map.upd c.tbars k (fun x => { x with val := some z }) })
  let moved (s : State) (i : Iss) : State := s.lanesTo i.u (i.ran (fun _ l => l))
  let slot (s : State) (w : Warp) : Option Nat := (List.range 64).find? (fun j =>
    match Map.get? (s.core w.core).tbars j with | some x => x.val.isNone | none => true)
  let gen (s : State) (w : Warp) (j : Nat) : Nat := match Map.get? (s.core w.core).tbars j with
    | some x => if x.gen = 1023 then 1 else x.gen + 1
    | none => 1
  Completes (.tballoc d p) { srcs := [], dsts := [d.toNat], lpb := 0, ae := false, atHead := true, perWarp := true } (fun _ _ _ => True) (fun s w i =>
    match slot s w with
    | none => s.lanesTo i.u (i.ran (fun _ l => (l.put d.toNat 0).putP p false))
    | some j => (s.updCore w.core (fun c => { c with tbars := Map.put c.tbars j ⟨gen s w j, some ⟨if w.isScc then i.u else w.block,
        positionOf w.core, false, 0, 0, 0, 0, 1, 0, false⟩⟩ })).lanesTo i.u (i.ran (fun _ l =>
          (l.put d.toNat (BitVec.ofNat 32 (256 * gen s w j + 64 * positionOf w.core + j))).putP p true))) ∧
  Completes (.tbinit d a b) (n [a.opd, b.opd, .regs [d.toNat] false]) (fun s w i => on s w i ∧
      (∀ l ∈ i.n, (w.lane l).val b.r.toNat = h w i b.r.toNat ∧ (w.lane l).val d.toNat = h w i d.toNat) ∧
      y.waits = 0 ∧ y.refs ≤ 1 ∧ (h w i b.r.toNat).toNat ≤ 65535 ∧
      ¬(h w i b.r.toNat = 0 ∧ h w i d.toNat = 0))
    (fun s w i => moved (set s { y with needA := (h w i b.r.toNat).toNat, needY := (h w i d.toNat).toNat, a := 0, y := 0, init := true }) i) ∧
  Completes (.tbarr a) (n [a.opd]) on (fun s _ i => moved (s.tbCount core k 1 0) i) ∧
  -- a waiting fragment is a reference of its own until its phase completes
  Completes (.tbwait a q) (n [a.opd]) on (fun s w i => if y.parity = q
    then (set s { y with refs := y.refs + 1, waits := y.waits + 1 }).lanesTo i.u (i.ran (fun l x =>
      if i.n.contains l then { x with place := .tb (h w i a.r.toNat) q } else x))
    else moved s i) ∧
  Completes (.tbref a) (n [a.opd]) on (fun s _ i => moved (set s { y with refs := y.refs + 1 }) i) ∧
  Completes (.tbfree a) (n [a.opd]) on (fun s _ i => moved (if y.refs ≤ 1
    then s.updCore core (fun c => { c with tbars := Map.upd c.tbars k (fun x => { x with val := none }) })
    else set s { y with refs := y.refs - 1 }) i) ∧
  (y.init = true → 0 < y.needA + y.needY → ∃ m, (∀ j < m, (j + 1) * y.needA ≤ y.a ∧ (j + 1) * y.needY ≤ y.y) ∧
    ¬((m + 1) * y.needA ≤ y.a ∧ (m + 1) * y.needY ≤ y.y) ∧
    TBar.settle (y.a + y.y + 1) y = { y with
      parity := y.parity ^^ decide (m % 2 = 1), a := y.a - m * y.needA, y := y.y - m * y.needY
      refs := if m = 0 then y.refs else y.refs - y.waits, waits := if m = 0 then y.waits else 0 })

/-- R4, R236, R297 to R299, R347: the pigeonhole of a scalar control core's cluster: PGPOP takes the oldest record, and one that a full
pigeonhole kept out enters; PGPOST adds one of kind 6 and class 8 with the tick as its compute die reads it, PGCNT counts them. That a
record of a unit that is gone waits for room is the model's reading (log entry 62). R300 to R303: AESTART starts the core's address engine
at its target: 32 lanes with x0 to x11 from the argument block and their index in x12, the FIFO banks of x56 to x59 with one producer
more; AESTOP ends the engine of its block with status 2. That AESTART completes whatever the reserved bytes +56 to +63 of the block hold
is the model's choice (log entry 44). -/
def Obligations.PigeonholeAndAddressEngine : Prop :=
  (∀ (d : BitVec 6) (a : RegE),
  let n (srcs : List Opd) (dsts : List Nat) : Need := { srcs := srcs, dsts := dsts, lpb := 0, lanes := false, ae := false, atHead := true, mem := false, perWarp := true }
  let box (s : State) (w : Warp) : List (List Word) := Map.getD s.pigeon (clusterOf w.core) []
  let tick (s : State) (core : Nat) : Word := (s.tick + (if Config.tickOffset (core / 32) then 1 else 0)).setWidth 32
  let rest (s : State) (w : Warp) : Map (List (List Word)) := Map.setD s.pigeon (clusterOf w.core) ((box s w).drop 1) []
  let popped (s : State) (w : Warp) : State := match s.pigeonHeld.find? (fun p => clusterOf p.1 == clusterOf w.core) with
    | none => { s with pigeon := rest s w }
    | some p => { s.observeTick with
      pigeonHeld := s.pigeonHeld.erase p
      pigeon := Map.put (rest s w) (clusterOf w.core) ((box s w).drop 1 ++ [p.2 ++ [tick s.observeTick p.1]]) }
  Completes (.pgpop d) (n [] [d.toNat, d.toNat + 1, d.toNat + 2, d.toNat + 3]) (fun s w _ => box s w ≠ [] ∧
      ((box s w).length = 256 ∨ ∀ p ∈ s.pigeonHeld, clusterOf p.1 ≠ clusterOf w.core)) (fun s w i =>
    ((popped s w).deliverAll i [d, d + 1, d + 2, d + 3]
      (((box s w).headD []).foldr (fun x m => x.toNat + 2 ^ 32 * m) 0)).lanesTo i.u (i.ran (fun _ k => k))) ∧
  Completes (.pgpost a) (n [a.opd4] []) (fun s w _ => (box s w).length < 256) (fun s w i =>
    let t := s.observeTick
    let v (j : Nat) : Word := (w.lane (i.n.headD 0)).val (a.r.toNat + j)
    ({ t with pigeon := Map.put t.pigeon (clusterOf w.core) (box s w ++ [[(v 0 &&& 0xFFFF0000) ||| 0x0806, v 1, v 2, tick t w.core]]) } : State).lanesTo
      i.u (i.ran (fun _ k => k))) ∧
  Completes (.pgcnt d) (n [] [d.toNat]) (fun _ _ _ => True) (fun s w i => s.lanesTo i.u (i.ran (fun _ k =>
    k.put d.toNat (BitVec.ofNat 32 (box s w).length))))) ∧
  (∀ (a b : RegE),
  let n (srcs : List Opd) : Need := { srcs := srcs, lpb := 0, ae := false, atHead := true, mem := true, perWarp := true }
  let x (w : Warp) (l : Nat) : Word := (w.lane l).val a.r.toNat
  let va (w : Warp) (l : Nat) : Dword := (w.lane l).val (b.r.toNat + 1) ++ (w.lane l).val b.r.toNat
  let t (w : Warp) (i : Iss) : Word := x w (i.n.headD 0)
  let at_ (w : Warp) (i : Iss) : Dword := va w (i.n.headD 0)
  let read (s : State) (w : Warp) (i : Iss) : List Byte × State := match s.agentPlaces w (at_ w i) 64 true false with
    | .inl ks => s.readRecord i.u (i.n.headD 0) (at_ w i) ks
    | .inr _ => ([], s)
  let f (s : State) (w : Warp) (i : Iss) (off n : Nat) : Nat := leNat (((read s w i).1.drop off).take n)
  let enters (s : State) (w : Warp) (i : Iss) (t : Word) : Prop :=
    (t.toNat / 65536 = i.pc.toNat / 65536 ∧ t.toNat % 65536 < (s.parcel w.core w.ctx (t.toNat / 65536)).length) ∨
    (s.mapped w.ctx (t.toNat / 65536) = true ∧ 2 ≤ (s.parcel w.core w.ctx (t.toNat / 65536)).state ∧
      t.toNat % 65536 < (s.parcel w.core w.ctx (t.toNat / 65536)).length)
  Completes (.aestart a b) (n [a.opd, b.opd2])
    (fun s w i => (∀ l ∈ i.n, x w l = t w i ∧ va w l = at_ w i) ∧ enters s w i (t w i) ∧ s.aeOf w.core = none ∧ (at_ w i).toNat % 64 = 0 ∧
      (∃ ks, s.agentPlaces w (at_ w i) 64 true false = .inl ks ∧ s.recordWaits i.u (i.n.headD 0) ks = false) ∧
      ∀ j < 4, f s w i j 1 = 255 ∨ (f s w i j 1 ≤ 36 ∧ s.fifoRights w (f s w i j 1) = true))
    (fun s w i =>
      let f := f s w i
      let banks : List (Option Nat) := (List.range 4).map (fun j => if f j 1 = 255 then none else some (f j 1))
      let lane (l : Nat) : Lane := (List.range 12).foldl (fun k j => k.put j (BitVec.ofNat 32 (f (8 + 4 * j) 4)))
        ((Lane.start (t w i) 0).put 12 (BitVec.ofNat 32 l))
      let s : State := (read s w i).2.updCore w.core (fun c => banks.foldl (fun c z => match z with
        | some k => { c with bank := Map.put c.bank k { c.bankOf k with producers := (c.bankOf k).producers + 1 } }
        | none => c) c)
      ({ s with
        warps := Map.put s.warps s.nextId (.start (.ae banks (at_ w i + 4) none (s.gridOf w)) w.core w.ctx w.block ((t w i).toNat / 65536) s.nextId
          ((List.range 32).map (fun l => (l, lane l))))
        nextId := s.nextId + 1 } : State).lanesTo i.u (i.ran (fun _ k => k))) ∧
  Completes .aestop (n []) (fun _ _ _ => True) (fun s w i => (match s.aeOf w.core with
    | some v => if (s.warp v).block = w.block then s.aeEnd v 2 else s
    | none => s).lanesTo i.u (i.ran (fun _ k => k))))

/-- R281, R304 to R310, R315, R318, R320, R321: MMA, MMV, DRAIN and MACLR put their command at the end of the unit's queue of 16, claim
the free tiles that they name, and add to their token. MSTAT gives the tile's word. R285, R304, R305, R309, R310, R315, R318, R320, R321:
what keeps a matrix command from the queue, in this order: an operand block that breaks its rule (ILLEGAL, with the lowest offset), a tile
of another block (PROTECTION), a projected state that the command may not find (ILLEGAL), scale registers that are not nameable (ILLEGAL),
orphaned (ORPHANED) or empty, which it waits for. R305, R311: what the formats of a K-step compute: S8 and S4 sum exact products modulo
2^32; the floating formats add the exact products, each scaled by its two E8M0 codes, and the old element, and round once. -/
def Obligations.MatrixCommands : Prop :=
  (∀ (a b d t : BitVec 6) (k : BitVec 3) (rec : Bool),
  let n (srcs : List Opd) : Need := { srcs := srcs, lpb := 0, scc := false, ae := false, atHead := true, mem := true, perWarp := true }
  let two : Opd := .regs [a.toNat, a.toNat + 1] false
  let va (w : Warp) (l : Nat) : Dword := (w.lane l).val (a.toNat + 1) ++ (w.lane l).val a.toNat
  let at_ (w : Warp) (i : Iss) : Dword := va w (i.n.headD 0)
  let read (s : State) (w : Warp) (i : Iss) (m : Nat) : List Byte × State := match s.agentPlaces w (at_ w i) m true false with
    | .inl ks => s.readRecord i.u (i.n.headD 0) (at_ w i) ks
    | .inr _ => ([], s)
  let rec_ (s : State) (w : Warp) (i : Iss) (m : Nat) : List Byte := (read s w i m).1
  let described (s : State) (w : Warp) (i : Iss) (m : Nat) : Prop := (∀ l ∈ i.n, va w l = at_ w i) ∧ (at_ w i).toNat % m = 0 ∧
    ∃ ks, s.agentPlaces w (at_ w i) m true false = .inl ks ∧ s.recordWaits i.u (i.n.headD 0) ks = false
  let f (s : State) (w : Warp) (i : Iss) (m off n : Nat) : Nat := leNat (((rec_ s w i m).drop off).take n)
  let room (s : State) (w : Warp) : Prop := (s.core w.core).mq.length < 16
  let mine (s : State) (w : Warp) (t : Nat) : Prop := ((s.core w.core).tile t).owner = none ∨ ((s.core w.core).tile t).owner = some w.block
  let fits (s : State) (w : Warp) (t : Nat) (clear : Bool) (want : Nat × Nat × Nat) : Prop := clear = true ∨
    ((s.core w.core).projected t).1 = 0 ∨ (s.core w.core).projected t = want
  let queued (op : MOp) (claims : List Nat) (token : Option (BitVec 3)) (rec : Bool) (shape : Nat × Nat) (s : State) (w : Warp) (i : Iss) : State :=
    let m : MCmd := ⟨op, w.core, w.block, (s.block w.block).grid, i.u, w.ctx, (token.map (·.toNat)).getD 8, rec,
      BitVec.ofNat 32 (w.wix * 32 + i.n.headD 0), 0, false, none, none, none, [], 0, s.nextId, shape, s.targets w⟩
    let s : State := ({ s with nextId := s.nextId + 1 } : State).updCore w.core (fun c => { claims.foldl (fun c t => if (c.tile t).owner.isSome then c else
      { c with tiles := Map.put c.tiles t { Tile.free with owner := some w.block } }) c with mq := c.mq ++ [m] })
    (match token with
      | some k => s.updWarp i.u (fun x => { x with tok := Map.setD x.tok k.toNat (Map.getD x.tok k.toNat 0 + 1) 0 })
      | none => s).lanesTo i.u (i.ran (fun _ k => k))
  let range (s : State) (w : Warp) (va m : Nat) : Prop := s.rangeTrap w (BitVec.ofNat 64 va) m = none
  (∀ x ∈ [(Instr.mmaE4m3 a b k rec, 0, b), (.mmaE5m2 a b k rec, 1, b), (.mmaE2m1 a b k rec, 2, b), (.mmaS8 a k rec, 3, 0), (.mmaS4 a k rec, 4, 0),
      (.mmaBf16 a k rec, 5, 0), (.mmaF16 a k rec, 6, 0), (.mmaF64 a k rec, 7, 0)],
    let fmt := x.2.1
    let regs (K start : Nat) : List Nat := if fmt < 3 then (List.range (K / 32 - start / 32)).map (x.2.2.toNat + start / 32 + ·) else []
    Completes x.1 { n [two] with named := if fmt < 3 then [x.2.2.toNat] else [] } (fun s w i =>
        let f := f s w i 64
        let (m, n, K, start) := (f 24 2, f 26 2, f 28 4, f 34 2)
        described s w i 64 ∧ badMma fmt (rec_ s w i 64) = none ∧ mine s w (f 32 1) ∧
        fits s w (f 32 1) (f 33 1 % 2 == 1) (mKind fmt, m, n) ∧
        (∀ r ∈ regs K start, nameable (s.nregs w) r = true ∧ ∀ y ∈ w.lanes, (y.2.cell r).fe = .full) ∧
        range s w (f 0 8) (span m (f 16 4) (mBytes fmt K)) ∧
        range s w (f 8 8) (if f 33 1 / 2 % 2 = 1 then span n (f 20 4) (mBytes fmt K) else span K (f 20 4) (mBytes fmt n)) ∧ room s w)
      (fun s w i =>
        let f := f s w i 64
        let (m, n, K, start) := (f 24 2, f 26 2, f 28 4, f 34 2)
        queued (.mma fmt (BitVec.ofNat 64 (f 0 8)) (BitVec.ofNat 64 (f 8 8)) (f 16 4) (f 20 4) m n K (f 32 1) (f 33 1 % 2 == 1)
          (f 33 1 / 2 % 2 == 1) start (if fmt < 3 then scaleOf w x.2.2.toNat (start / 32) (K / 32) else [])) [f 32 1] (some k) rec (0, 0)
          (read s w i 64).2 w i)) ∧
  Completes (.mmv a k rec) (n [two]) (fun s w i =>
      let f := f s w i 64
      let (fmt, rows, cols, v) := (f 35 1, f 28 2, f 30 2, f 34 1)
      described s w i 64 ∧ badMmv (rec_ s w i 64) = none ∧ mine s w (f 32 1) ∧ mine s w (f 33 1) ∧
      (f 36 1 % 2 = 1 ∨ (s.core w.core).projected (f 32 1) = (4, v, cols)) ∧ fits s w (f 33 1) (f 36 1 / 2 % 2 == 1) (1, v, rows) ∧
      range s w (f 0 8) (span rows (f 24 4) (mBytes fmt cols)) ∧ (f 36 1 % 2 = 1 → range s w (f 8 8) (4 * v * cols)) ∧
      (fmt < 3 → range s w (f 16 8) (rows * (cols / 32))) ∧ room s w)
    (fun s w i =>
      let f := f s w i 64
      queued (.mmv (f 35 1) (BitVec.ofNat 64 (f 0 8)) (BitVec.ofNat 64 (f 8 8)) (BitVec.ofNat 64 (f 16 8)) (f 24 4) (f 28 2) (f 30 2) (f 32 1)
        (f 33 1) (f 34 1) (f 36 1 % 2 == 1) (f 36 1 / 2 % 2 == 1)) [f 32 1, f 33 1] (some k) rec (0, 0) (read s w i 64).2 w i) ∧
  Completes (.drain a k rec) (n [two]) (fun s w i =>
      let f := f s w i 32
      let p := (s.core w.core).projected (f 12 1)
      let row := p.2.2 * outNibbles (f 13 1) / 2
      described s w i 32 ∧ badDrain (rec_ s w i 32) p.1 p.2.2 = none ∧ mine s w (f 12 1) ∧ range s w (f 0 8) (span p.2.1 (f 8 4) row) ∧ (f 14 1 / 2 % 2 = 1 → range s w (f 16 8) 4) ∧ room s w)
    (fun s w i =>
      let f := f s w i 32
      let p := (s.core w.core).projected (f 12 1)
      queued (.drain (BitVec.ofNat 64 (f 0 8)) (f 8 4) (f 12 1) (f 13 1) (f 14 1 % 2 == 1) (f 14 1 / 2 % 2 == 1) (f 14 1 / 4 % 2 == 1) (f 15 1)
        (BitVec.ofNat 64 (f 16 8)) (f 24 1)) [] (some k) rec p.2 (read s w i 32).2 w i) ∧
  Completes (.maclr t) (n []) (fun s w _ => mine s w t.toNat ∧ room s w) (queued (.maclr t.toNat) [t.toNat] none false (0, 0)) ∧
  Completes (.mstat d t) { srcs := [], dsts := [d.toNat], lpb := 0, scc := false, ae := false, atHead := true, mem := false }
    (fun s w _ => mine s w t.toNat) (fun s w i =>
      let y := (s.core w.core).tile t.toNat
      let cs := ((s.core w.core).mq ++ (s.drains.filter (fun x => x.2.core == w.core)).map (·.2)).filter (fun m =>
        m.op.tiles.contains t.toNat && y.owner == some m.block)
      let st := if cs = [] then 1 else if cs.any (fun m => m.fault.isSome) then 3 else 2
      let v : Word := if y.owner = none then 0 else
        BitVec.ofNat 32 (st * 2 ^ 28 + ((s.core w.core).projected t.toNat).1 * 2 ^ 24 + y.status * 2 ^ 20 + y.progress % 2 ^ 17)
      (s.deliverAll i [d] v.toNat).lanesTo i.u (i.ran (fun _ k => k)))) ∧
  (∀ (a b d t : BitVec 6) (k : BitVec 3) (rec : Bool) (s : State) (u : Nat) (w : Warp) (h : Lane),
  let n (srcs : List Opd) : Need := { srcs := srcs, lpb := 0, scc := false, ae := false, atHead := true, mem := true, perWarp := true }
  let two : Opd := .regs [a.toNat, a.toNat + 1] false
  let i := w.iss u h 2
  let va (l : Nat) : Dword := (w.lane l).val (a.toNat + 1) ++ (w.lane l).val a.toNat
  let at_ : Dword := va (i.n.headD 0)
  let rec_ (m : Nat) : List Byte := match s.agentPlaces w at_ m true false with
    | .inl ks => (s.readRecord u (i.n.headD 0) at_ ks).1
    | .inr _ => []
  let described (m : Nat) : Prop := (∀ l ∈ i.n, va l = at_) ∧ at_.toNat % m = 0 ∧
    ∃ ks, s.agentPlaces w at_ m true false = .inl ks ∧ s.recordWaits u (i.n.headD 0) ks = false
  let f (m off n : Nat) : Nat := leNat (((rec_ m).drop off).take n)
  let core := s.core w.core
  let foreign (t : Nat) : Prop := ∃ o, (core.tile t).owner = some o ∧ o ≠ w.block
  let finds (t : Nat) (clear : Bool) (want : Nat × Nat × Nat) : Prop := clear = true ∨ (core.projected t).1 = 0 ∨ core.projected t = want
  let traps (x : Instr) (cause : Nat) (addr : Dword) (info : Nat) : Prop :=
    exec x s = .next (s.fragTrap i cause (fun _ => ⟨cause, addr, BitVec.ofNat 32 info⟩))
  (∀ x ∈ [(Instr.mmaE4m3 a b k rec, 0, b), (.mmaE5m2 a b k rec, 1, b), (.mmaE2m1 a b k rec, 2, b), (.mmaS8 a k rec, 3, 0), (.mmaS4 a k rec, 4, 0),
      (.mmaBf16 a k rec, 5, 0), (.mmaF16 a k rec, 6, 0), (.mmaF64 a k rec, 7, 0)],
    let fmt := x.2.1
    let f := f 64
    let (m, n_, K, start, tile) := (f 24 2, f 26 2, f 28 4, f 34 2, f 32 1)
    let regs : List Nat := if fmt < 3 then (List.range (K / 32 - start / 32)).map (x.2.2.toNat + start / 32 + ·) else []
    s.Ready u w h { n [two] with named := if fmt < 3 then [x.2.2.toNat] else [] } → described 64 →
    (∀ off, badMma fmt (rec_ 64) = some off → traps x.1 0x01 at_ (0x100 + off)) ∧
    (badMma fmt (rec_ 64) = none →
      (foreign tile → traps x.1 0x09 0 tile) ∧
      (¬ foreign tile → ¬ finds tile (f 33 1 % 2 == 1) (mKind fmt, m, n_) → traps x.1 0x01 0 (0x500 + tile)) ∧
      (¬ foreign tile → finds tile (f 33 1 % 2 == 1) (mKind fmt, m, n_) →
        ((∃ r ∈ regs, nameable (s.nregs w) r = false) → traps x.1 0x01 0 (0x200 + x.2.2.toNat)) ∧
        ((∀ r ∈ regs, nameable (s.nregs w) r = true) →
          ((∃ y ∈ w.lanes, ∃ r ∈ regs, (y.2.cell r).fe = .orphan) → traps x.1 0x03 0 0) ∧
          ((∀ y ∈ w.lanes, ∀ r ∈ regs, (y.2.cell r).fe ≠ .orphan) → (∃ y ∈ w.lanes, ∃ r ∈ regs, ∃ z, (y.2.cell r).fe = .empty z) →
            exec x.1 s = .next s))))) ∧
  (∀ (fmt : Nat) (r : List Byte), fmt < 8 → let f (off n : Nat) : Nat := leNat ((r.drop off).take n)
    let bits : Nat := [8, 8, 4, 8, 4, 16, 16, 64].getD fmt 0
    let step : Nat := [32, 32, 64, 32, 64, 16, 16, 8].getD fmt 0
    let side (x : Nat) : Prop := x % 8 = 0 ∧ 8 ≤ x ∧ x ≤ if fmt = 7 then 32 else 64
    badMma fmt r = none ↔ f 0 8 % 16 = 0 ∧ f 8 8 % 16 = 0 ∧ (f 16 4 % 16 = 0 ∧ f 28 4 * bits ≤ 8 * f 16 4) ∧
      (f 20 4 % 16 = 0 ∧ (if f 33 1 / 2 % 2 = 1 then f 28 4 else f 26 2) * bits ≤ 8 * f 20 4) ∧ side (f 24 2) ∧ side (f 26 2) ∧
      (f 28 4 % step = 0 ∧ step ≤ f 28 4 ∧ f 28 4 ≤ 65536) ∧ f 32 1 < 8 ∧ f 33 1 < 4 ∧ (f 34 2 % step = 0 ∧ f 34 2 < f 28 4) ∧ f 36 28 = 0) ∧
  (s.Ready u w h (n [two]) → described 64 → let x : Instr := .mmv a k rec
    let f := f 64
    let (v, y) := (f 32 1, f 33 1)
    (∀ off, badMmv (rec_ 64) = some off → traps x 0x01 at_ (0x100 + off)) ∧
    (badMmv (rec_ 64) = none → (foreign v → traps x 0x09 0 v) ∧ (¬ foreign v → foreign y → traps x 0x09 0 y) ∧ (¬ foreign v → ¬ foreign y →
      (f 36 1 % 2 = 0 → core.projected v ≠ (4, f 34 1, f 30 2) → traps x 0x01 0 (0x500 + v)) ∧
      (f 36 1 % 2 = 1 ∨ core.projected v = (4, f 34 1, f 30 2) → ¬ finds y (f 36 1 / 2 % 2 == 1) (1, f 34 1, f 28 2) →
        traps x 0x01 0 (0x500 + y))))) ∧
  (s.Ready u w h (n [two]) → described 32 → let x : Instr := .drain a k rec
    let p := core.projected (f 32 12 1)
    (∀ off, badDrain (rec_ 32) p.1 p.2.2 = some off → traps x 0x01 at_ (0x100 + off)) ∧
    (badDrain (rec_ 32) p.1 p.2.2 = none → foreign (f 32 12 1) → traps x 0x09 0 (f 32 12 1))) ∧
  (s.Ready u w h (n []) → foreign t.toNat → traps (.maclr t) 0x09 0 t.toNat) ∧
  (s.Ready u w h { srcs := [], dsts := [d.toNat], lpb := 0, scc := false, ae := false, atHead := true, mem := false } → foreign t.toNat →
    traps (.mstat d t) 0x09 0 t.toNat)) ∧
  ((∀ (old : BitVec 64) (ps : List (Nat × Nat × Nat × Nat)), kStep 3 old ps =
    (BitVec.ofInt 32 ((ps.map (fun p => (BitVec.ofNat 8 p.1).toInt * (BitVec.ofNat 8 p.2.1).toInt)).sum + (old.setWidth 32).toInt)).setWidth 64) ∧
  (∀ (old : BitVec 64) (ps : List (Nat × Nat × Nat × Nat)), kStep 4 old ps =
    (BitVec.ofInt 32 ((ps.map (fun p => (BitVec.ofNat 4 p.1).toInt * (BitVec.ofNat 4 p.2.1).toInt)).sum + (old.setWidth 32).toInt)).setWidth 64) ∧
  (∀ (fmt : Nat) (old : BitVec 64) (ps : List (Nat × Nat × Nat × Nat)), fmt ∈ [0, 1, 2, 5, 6] → kStep fmt old ps =
    BitVec.ofNat 64 (((ps.foldl (fun (acc : ExactSum) p => acc.push ((((mVal fmt p.1).times (mVal fmt p.2.1)).e8m0 p.2.2.1).e8m0 p.2.2.2))
      {}).push (f32.unpack false old.toNat)).round f32)) ∧
  (∀ (old : BitVec 64) (ps : List (Nat × Nat × Nat × Nat)), kStep 7 old ps =
    BitVec.ofNat 64 (((ps.foldl (fun (acc : ExactSum) p => acc.push ((f64.unpack false p.1).times (f64.unpack false p.2.1)))
      {}).push (f64.unpack false old.toNat)).round f64)))

/-- R324 to R334: PLOAD starts the load of an absent parcel that fits, reopens a closing one, and gives its receipt at once; PEVICT closes
a resident parcel or marks a loading one; PRES compares a receipt; PSTAT gives the parcel's word. In a handler PLOAD leaves its receipt in
its lanes, for the request that names the load (R335) (the model's choice, log entry 70). -/
def Obligations.ParcelInstructions : Prop := ∀ (d r : BitVec 6) (a : RegE) (t : BitVec 3) (p : BitVec 3) (rec : Bool),
  let n (srcs : List Opd) (dsts : List Nat) (mem : Bool) : Need :=
    { srcs := srcs, dsts := dsts, lpb := 0, ae := false, atHead := true, mem := mem, perWarp := true }
  let v (w : Warp) (i : Iss) (x : Nat) : Word := (w.lane (i.n.headD 0)).val x
  let q (w : Warp) (i : Iss) (x : Nat) : Nat := (v w i x).toNat / 65536
  let on (x : Nat) (s : State) (w : Warp) (i : Iss) : Prop := (∀ l ∈ i.n, (w.lane l).val x = v w i x) ∧
    (q w i x = 0 ∨ Map.has (s.ctx w.ctx).parcels (q w i x) = true)
  let key (w : Warp) (i : Iss) (x : Nat) : Nat := w.ctx * 65536 + q w i x
  let par (s : State) (w : Warp) (i : Iss) (x : Nat) : Parcel :=
    if q w i x = 0 then runtimeParcel else Map.getD (s.core w.core).parcels (key w i x) .absent
  let put (s : State) (w : Warp) (i : Iss) (x : Nat) (y : Parcel) : State :=
    s.updCore w.core (fun c => { c with parcels := Map.put c.parcels (key w i x) y })
  let receipt (w : Warp) (i : Iss) (x g : Nat) : Word := BitVec.ofNat 32 (q w i x * 65536 + g)
  let wait (w : Warp) (i : Iss) (g bytes : Nat) (st : Option Nat) : PWait :=
    ⟨w.core, key w i r.toNat, i.u, t.toNat, rec, receipt w i r.toNat g, bytes, st⟩
  let goes (x : PWait) (g : Nat) (s : State) (w : Warp) (i : Iss) : State :=
    ((({ s.updWarp i.u (fun y => { y with tok := Map.setD y.tok t.toNat (Map.getD y.tok t.toNat 0 + 1) 0 }) with
      pwaits := s.pwaits ++ [x] } : State).lanesTo i.u (fun l k => if i.handler = true ∧ i.n.contains l = true
        then { k with asked := some (receipt w i r.toNat g) } else k)).deliverAll i [d] (receipt w i r.toNat g).toNat false).lanesTo i.u (i.ran (fun _ k => k))
  let load := n [.regs [r.toNat] false] [d.toNat] true
  let st (s : State) (w : Warp) (i : Iss) : Nat := (par s w i r.toNat).state
  Completes (.pload d r t rec) load (fun s w i => on r.toNat s w i ∧ st s w i = 0 ∧ s.parcelFits w.core (key w i r.toNat) = true) (fun s w i =>
    let y := par s w i r.toNat
    let g := if y.gen = 65535 then 1 else y.gen + 1
    let s' := (put s w i r.toNat { y with
      state := 1, gen := g, pages := ((s.parcelInfo (key w i r.toNat)).map (fun z => (256 + 2 * z.halfwords + 4095) / 4096)).getD 0
      evict := false, fault := none, got := [], shared := (s.sharer w.core (key w i r.toNat)).isSome }).updCore w.core (fun c => { c with
        loads := c.loads ++ [key w i r.toNat] })
    goes (wait w i g 1 none) g s' w i) ∧
  Completes (.pload d r t rec) load (fun s w i => on r.toNat s w i ∧ st s w i = 0 ∧ s.parcelFits w.core (key w i r.toNat) = false) (fun s w i =>
    goes (wait w i 0 0 (some 6)) 0 ((put s w i r.toNat { par s w i r.toNat with last := 6 }).reportLoad w.core (key w i r.toNat) 0 6) w i) ∧
  Completes (.pload d r t rec) load (fun s w i => on r.toNat s w i ∧ st s w i = 1) (fun s w i =>
    goes (wait w i (par s w i r.toNat).gen 0 none) (par s w i r.toNat).gen s w i) ∧
  Completes (.pload d r t rec) load (fun s w i => on r.toNat s w i ∧ st s w i = 2) (fun s w i =>
    goes (wait w i (par s w i r.toNat).gen 0 (some 0)) (par s w i r.toNat).gen s w i) ∧
  Completes (.pload d r t rec) load (fun s w i => on r.toNat s w i ∧ st s w i = 3) (fun s w i =>
    goes (wait w i (par s w i r.toNat).gen 0 (some 0)) (par s w i r.toNat).gen
      (put s w i r.toNat { par s w i r.toNat with state := 2 }) w i) ∧
  Completes (.pevict a) (n [a.opd] [] true) (fun s w i => on a.r.toNat s w i ∧ q w i a.r.toNat ≠ 0) (fun s w i =>
    let y := par s w i a.r.toNat
    (if y.state = 2 then put s w i a.r.toNat { y with state := 3 }
      else if y.state = 1 then put s w i a.r.toNat { y with evict := true } else s).lanesTo i.u (i.ran (fun _ k => k))) ∧
  Completes (.pres p a) (n [a.opd] [] false) (on a.r.toNat) (fun s w i =>
    let y := par s w i a.r.toNat
    s.lanesTo i.u (i.ran (fun l k => if i.n.contains l then k.putP p (decide ((y.state = 2 ∨ y.state = 3) ∧
      (v w i a.r.toNat).toNat % 65536 ≠ 0 ∧ y.gen = (v w i a.r.toNat).toNat % 65536)) else k))) ∧
  Completes (.pstat d a) (n [a.opd] [d.toNat] false) (on a.r.toNat) (fun s w i =>
    let y := par s w i a.r.toNat
    s.lanesTo i.u (i.ran (fun l k => if !i.n.contains l then k else k.put d.toNat (BitVec.ofNat 32 (y.state * 2 ^ 30 +
      (if y.state ≠ 0 ∧ (s.sharer w.core (key w i a.r.toNat)).isSome = true ∧ (s.copyOf w.core (key w i a.r.toNat)).isSome = true then 2 ^ 29 else 0) + (if q w i a.r.toNat = 0 then 2 ^ 28 else 0) +
      min 4095 (s.occupancy w.core w.ctx (q w i a.r.toNat)) * 2 ^ 16 + y.gen % 65536)))))

/-- R337 to R341: WALK takes a descriptor that keeps R338's rules, whose labels are live, whose bank is the block's and whose FIFO the
block has the rights of, and queues a walk in a slot of the core under a new handle; its labels are held, its token gains one. R351 to
R354: WSTAT, WCANCEL and WQRY on a walk handle whose reserved bits are 0. WSTAT gives state, status, window and points issued; WCANCEL
marks a running one; WQRY asks whether a point's tiles are resident. -/
def Obligations.WalkInstructions : Prop :=
  (∀ (d a : BitVec 6) (t : BitVec 3),
  let va (w : Warp) (l : Nat) : Dword := (w.lane l).val (a.toNat + 1) ++ (w.lane l).val a.toNat
  let at_ (w : Warp) (i : Iss) : Dword := va w (i.n.headD 0)
  let read (s : State) (w : Warp) (i : Iss) : List Byte × State := match s.agentPlaces w (at_ w i) 64 true false with
    | .inl ks => s.readRecord i.u (i.n.headD 0) (at_ w i) ks
    | .inr _ => ([], s)
  let rec_ (s : State) (w : Warp) (i : Iss) : List Byte := (read s w i).1
  let f (s : State) (w : Warp) (i : Iss) (off n : Nat) : Nat := leNat (((rec_ s w i).drop off).take n)
  let enters (s : State) (w : Warp) (i : Iss) (t : Word) : Prop :=
    (t.toNat / 65536 = i.pc.toNat / 65536 ∧ t.toNat % 65536 < (s.parcel w.core w.ctx (t.toNat / 65536)).length) ∨
    (s.mapped w.ctx (t.toNat / 65536) = true ∧ 2 ≤ (s.parcel w.core w.ctx (t.toNat / 65536)).state ∧
      t.toNat % 65536 < (s.parcel w.core w.ctx (t.toNat / 65536)).length)
  let spawn (s : State) (w : Warp) (i : Iss) : Bool := f s w i 19 1 % 2 == 1
  let entry (s : State) (w : Warp) (i : Iss) : Word := BitVec.ofNat 32 (f s w i 4 4)
  let handle (s : State) (w : Warp) (i : Iss) (j : Nat) : Word := BitVec.ofNat 32 (f s w i (24 + 4 * j) 4)
  let set (s : State) (w : Warp) (i : Iss) : Dword := BitVec.ofNat 64 (f s w i 8 8)
  Completes (.walk d a t)
    { srcs := [.regs [a.toNat, a.toNat + 1] false], dsts := [d.toNat], lpb := 0, scc := false, ae := false, atHead := true, mem := true, perWarp := true }
    (fun s w i => (∀ l ∈ i.n, va w l = at_ w i) ∧ (at_ w i).toNat % 64 = 0 ∧ (∃ ks, s.agentPlaces w (at_ w i) 64 true false = .inl ks ∧ s.recordWaits i.u (i.n.headD 0) ks = false) ∧
      badWalk (rec_ s w i) = none ∧ (spawn s w i = true ∨ ((s.block w.block).det = false ∧ s.fifoRights w (f s w i 22 1) = true)) ∧
      f s w i 16 1 < (s.block w.block).banks.length ∧
      (∀ j < f s w i 17 1, ((s.core w.core).label w.block (handle s w i j)).isSome = true) ∧
      (spawn s w i = true → enters s w i (entry s w i)) ∧
      (set s w i = 0 ∨ inWindow (set s w i) = true ∨ canonical (set s w i) = true) ∧ s.loadsDone i.u = true ∧
      (s.core w.core).walkSlot.isSome = true)
    (fun s w i =>
      let f := f s w i
      let handle := handle s w i
      let (spawn, entry, set) := (spawn s w i, entry s w i, set s w i)
      let s := (read s w i).2
      let k := ((s.core w.core).walkSlot).getD 0
      let g := match Map.get? (s.core w.core).walks k with
        | some x => if x.gen = 1023 then 1 else x.gen + 1
        | none => 1
      let hs := (List.range (f 17 1)).map handle
      let x : Walk := ⟨w.block, i.u, w.ctx, t.toNat, f 0 4, entry, set, f 16 1, f 18 1, spawn, f 19 1 / 2 % 2 == 1, f 20 2,
        f 22 1, hs.map (fun h => (h, ((s.core w.core).label w.block h).getD ⟨0, 0, 0, 0, 0, 1, 1, 1, 0, false, false, 0⟩)),
        (List.range (f 17 1)).map (fun j => (f (40 + 4 * j) 2, f (42 + 4 * j) 1)), f 56 4, s.nextId, 0, 0, 0, [], 0, 0, [], none⟩
      let y : State := if spawn = true ∧ entry.toNat / 65536 ≠ i.pc.toNat / 65536
        then s.reopen w.core w.ctx (entry.toNat / 65536) else s
      ((((({ y with nextId := y.nextId + 1 } : State).updCore w.core (fun c => { hs.foldl Core.holdLabel c with
        walks := Map.put c.walks k ⟨g, some x⟩ })).updWarp i.u (fun z => { z with
          tok := Map.setD z.tok t.toNat (Map.getD z.tok t.toNat 0 + 1) 0 })).deliverAll i [d] (BitVec.ofNat 32 (256 * g + k)).toNat false)).lanesTo i.u
            (i.ran (fun _ k => k)))) ∧
  (∀ (d : BitVec 6) (a b : RegE) (p : BitVec 3),
  let n (srcs : List Opd) (dsts : List Nat) (mem : Bool) : Need :=
    { srcs := srcs, dsts := dsts, lpb := 0, ae := false, atHead := true, mem := mem, perWarp := true }
  let h (w : Warp) (i : Iss) : Word := (w.lane (i.n.headD 0)).val a.r.toNat
  let on (_ : State) (w : Warp) (i : Iss) : Prop := (∀ l ∈ i.n, (w.lane l).val a.r.toNat = h w i) ∧ (h w i).toNat / 2 ^ 18 = 0 ∧
    (h w i).toNat / 4 % 64 = 0
  let k (w : Warp) (i : Iss) : Nat := (h w i).toNat % 4
  -- the block's walk that the handle names
  let walk (s : State) (w : Warp) (i : Iss) : Option Walk := match Map.get? (s.core w.core).walks (k w i) with
    | some x => if x.gen = (h w i).toNat / 256 ∧ x.gen ≠ 0 then x.val.filter (fun y => y.block == w.block) else none
    | none => none
  let moved (s : State) (i : Iss) : State := s.lanesTo i.u (i.ran (fun _ l => l))
  let set (s : State) (w : Warp) (i : Iss) (y : Walk) : State :=
    s.updCore w.core (fun c => { c with walks := Map.upd c.walks (k w i) (fun x => { x with val := some y }) })
  Completes (.wstat d a) (n [a.opd] [d.toNat] false) on (fun s w i => s.lanesTo i.u (i.ran (fun _ l => l.put d.toNat (match walk s w i with
    | none => 0xC0000000
    | some y => BitVec.ofNat 32 (y.state * 2 ^ 30 + (if y.state = 2 then y.status else 0) * 2 ^ 27 + y.win.length * 2 ^ 20 + y.issued))))) ∧
  (∀ y : Walk, Completes (.wcancel a) (n [a.opd] [] true) (fun s w i => on s w i ∧ walk s w i = some y ∧ y.state = 1) (fun s w i =>
    let c := if y.cancel = 0 then 5 else y.cancel
    moved (set s w i { y with cancel := c, status := if y.status = 0 ∧ y.out ≠ [] then c else y.status }) i)) ∧
  Completes (.wcancel a) (n [a.opd] [] true) (fun s w i => on s w i ∧ ∀ y, walk s w i = some y → 2 ≤ y.state) (fun s _ i => moved s i) ∧
  (∀ (y : Walk) (s : State) (u : Nat) (w : Warp) (l : Lane), s.Ready u w l (n [a.opd] [] true) → on s w (w.iss u l 2) →
    walk s w (w.iss u l 2) = some y → y.state = 0 → ∃ t, exec (.wcancel a) s = .next t) ∧
  Completes (.wqry p a b) (n [a.opd, b.opd] [] false) on (fun s w i => s.lanesTo i.u (i.ran (fun _ l => l.putP p (match walk s w i with
    | none => false
    | some y => (y.tileVas (l.val b.r.toNat).toNat).all (s.present w.core y.ctx))))))

/-- R223, R224, R229, R230, R233, R234: a fence completes once what it waits for is done: a release and what a cumulative one has noted,
or for .acq the loads; at gpu scope and wider the warp's grid-register writes too. What a waiting fence has noted is its fragment's own. A
full or acquire fence then invalidates the core's L1 at cluster scope or wider. FENCEX waits for the completed writes of class x; that it
invalidates nothing where its class y is an engine, which keeps no read buffers, is the model's choice (log entry 96). R4, R236, R381,
R382, R390, R391: TICK and TICKO read a tick no earlier than any reading before, with their compute die's offset; TICK reads it at some
cycle until its value arrives, 4 core cycles after issue; PMCFG sets a code below 0x1E and clears its count, PMRD reads it; TDRD gives
each lane its node's count, the sum of its leaves. What only time decides is a free value (log entries 4 and 7); that an observation moves
the tick by a free amount below 2^32 where no debug stop is set is the model's choice (log entry 48), and a scalar control core reads the
tree of the core at cluster position 0 by the model's reading (log entry 106). -/
def Obligations.FencesTicksAndCounters : Prop :=
  (∀ (k : BitVec 2) (c : Bool) (sc : BitVec 3) (x y : BitVec 4),
  let n : Need := { lpb := 0, ae := false, mem := true, perWarp := true }
  let noted (s : State) (w : Warp) (i : Iss) (ks : List Nat) : Nat × List Nat := match w.hold with
    | some (.fence f b l) => if f = (i.pc, i.prio, (w.lane (i.n.headD 0)).frag) then (b, l) else (s.nextId, ks)
    | _ => (s.nextId, ks)
  let passed (s : State) (w : Warp) : List Nat := (s.stores.filter (fun p => p.2.heldAt (baseDieOfCore w.core))).map (·.1)
  -- an acquire: what comes later follows what had passed the die point by now; the L1 is invalidated at cluster scope or wider
  let clean (s : State) (w : Warp) (i : Iss) (scope : Nat) : State :=
    let s : State := { s.updWarp i.u (fun x => { x with acqSeq := s.nextId }) with nextId := s.nextId + 1 }
    if scope = 0 ∨ w.isScc = true then s else s.invalidateL1 w.core
  -- a release: the tick that later stores carry
  let rel (s : State) (i : Iss) : State := s.updWarp i.u (fun x => { x with rel := s.tick.toNat + 1 })
  let may (kind : Nat) (cum : Bool) (scope : Nat) (s : State) (w : Warp) (i : Iss) : Prop :=
    (cum = true → s.cumDone i.u scope (noted s w i (passed s w)).1 (noted s w i (passed s w)).2 = true) ∧
    (3 ≤ scope → ∀ p ∈ s.scopeWrites, ¬(p.2.warp = i.u ∧ p.2.level = 2)) ∧
    (if kind = 1 then s.loadsDone i.u = true else s.released i.u scope = true)
  let done (r acq : Bool) (scope : Nat) (s : State) (w : Warp) (i : Iss) : State :=
    let s : State := if r then rel s i else s
    (if acq then clean s w i scope else s).lanesTo i.u (i.ran (fun _ l => l))
  Completes (.fence k c sc) n (may k.toNat c sc.toNat) (done (k != 1) (k != 2) sc.toNat) ∧
  (x = 0 → y = 0 → Completes (.fencex x y sc) n (may 0 false sc.toNat) (done true true sc.toNat)) ∧
  (¬(x = 0 ∧ y = 0) → Completes (.fencex x y sc) n
    (fun s w i => s.classDone i.u x.toNat sc.toNat (noted s w i (s.engineWrites i.u x.toNat)).2 = true) (done false (y == 0) 1))) ∧
  (∀ (d : BitVec 6) (a : RegE) (b : Src) (c : BitVec 2),
  let n (srcs : List Opd) (dsts : List Nat) : Need := { srcs := srcs, dsts := dsts, lpb := 0, ae := false }
  let two : List Nat := [d.toNat, d.toNat + 1]
  let seen (s : State) (w : Warp) : BitVec 64 := s.tick + if Config.tickOffset (w.core / 32) then 1 else 0
  let v (w : Warp) (i : Iss) : Word := (w.lane (i.n.headD 0)).val a.r.toNat
  let ix (s : State) (w : Warp) (l : Nat) (k : Lane) : Word := s.get w l k b
  Completes (.tick d) { n [] two with atHead := true } (fun _ _ _ => True) (fun s w i =>
    let t := s.observeTick
    let later := BitVec.ofNat 64 ((Config.freeValue (s.free + 1)).toNat % ((4000 + s.fw.clockMhz - 1) / s.fw.clockMhz + 1))
    (t.useFree.deliverAll i [d, d + 1] (seen t w + later).toNat (due := t.tick.toNat + later.toNat)).lanesTo i.u
      (i.ran (fun _ k => k))) ∧
  Completes (.ticko d) { n [] two with atHead := true, mem := true } (fun _ _ _ => True) (fun s w i =>
    (s.observeTick.deliverAll i [d, d + 1] (seen s.observeTick w).toNat false).lanesTo i.u (i.ran (fun _ k => k))) ∧
  (∀ s : State, s.observeTick.free = s.free + 1 ∧ (s.fw.stopAt = none → s.observeTick.tick = s.tick + (Config.freeValue s.free &&& 0xFFFFFFFF))) ∧
  Completes (.pmcfg c a) { n [a.opd] [] with scc := false, perWarp := true }
    (fun _ w i => (∀ l ∈ i.n, (w.lane l).val a.r.toNat = v w i) ∧ (v w i).toNat ≤ 0x1D)
    (fun s w i => (s.updWarp i.u (fun x => { x with
      pmCode := Map.setD x.pmCode c.toNat (v w i).toNat 0, pmRes := Map.setD x.pmRes c.toNat 0 0 })).lanesTo i.u (i.ran (fun _ k => k))) ∧
  Completes (.pmrd d c) { n [] two with scc := false } (fun _ _ _ => True) (fun s w i => s.lanesTo i.u (i.ran (fun _ k =>
    (k.put d.toNat ((Map.getD w.pmRes c.toNat 0).setWidth 32)).put (d.toNat + 1) ((Map.getD w.pmRes c.toNat 0 >>> 32).setWidth 32)))) ∧
  Completes (.tdrd d b) (n [b.opd] two)
    (fun s w i => ∀ l ∈ i.n, ix s w l (w.lane l) &&& 0xFFFFFEC0 = 0 ∧ (ix s w l (w.lane l)).toNat % 64 < 26)
    (fun s w i => ({ s with free := s.free + 64 } : State).lanesTo i.u (i.ran (fun l k =>
      let node := (ix s w l (w.lane l)).toNat % 64
      let grid := (ix s w l (w.lane l)).getLsbD 8
      let m := if grid then (s.grid (s.gridOf w)).slots else (s.core w.core).slots
      let timed := [7, 8, 10, 11, 12, 13, 14, 16, 17, 18, 20, 21, 22, 23, 24, 25]
      let leaf (j : Nat) : Nat := Map.getD m j 0 + if j < 7 ∨ (grid = true ∧ (j = 25 ∨ Map.has s.grids (s.gridOf w) = false)) then 0
        else (Config.freeValue (s.free + (if grid then 32 else 0) + j)).toNat % 2 ^ 32
      let leaves : List Nat := match node with
        | 0 => [2, 3, 4] ++ timed
        | 1 => [2, 3, 4]
        | 5 => timed
        | 6 => [7, 8]
        | 9 => [10, 11, 12, 13, 14]
        | 15 => [16, 17, 18]
        | 19 => [20, 21, 22, 23, 24]
        | j => [j]
      let x : BitVec 64 := BitVec.ofNat 64 (leaves.map leaf).sum
      (k.put d.toNat (x.setWidth 32)).put (d.toNat + 1) ((x >>> 32).setWidth 32)))))

/-- R269 to R280: the task instructions. TASKRNG and TASKBEG ask the commit office, and their lanes stay until it answers; TASKEND marks
the lanes' tasks ended and parks the lanes; TASKQ gives the task word. -/
def Obligations.TaskInstructions : Prop := ∀ (d : BitVec 6) (a : RegE) (b : Src),
  let n (srcs : List Opd) (dsts : List Nat) : Need := { srcs := srcs, dsts := dsts, lpb := 0, scc := false, ae := false, perWarp := true }
  let va (w : Warp) (l : Nat) : Nat := ((w.lane l).val (a.r.toNat + 1) ++ (w.lane l).val a.r.toNat : BitVec 64).toNat
  let m (s : State) (w : Warp) (l : Nat) : Word := s.get w l (w.lane l) b
  let task (s : State) (w : Warp) (l : Nat) : Option (Nat × Task) :=
    (w.lane l).task.bind (fun j => (Map.get? (s.core w.core).tasks j).map (fun t => (j, t)))
  Completes (.taskrng a b) { n [a.opd2, b.opd] [] with inTask := false }
    (fun s w i => ∀ l ∈ i.n, va w l = va w (i.n.headD 0) ∧ m s w l = m s w (i.n.headD 0))
    (fun s w i => (s.updWarp i.u (fun x => { x with
      hold := some (.office i.act i.len [] (some (va w (i.n.headD 0), (m s w (i.n.headD 0)).toNat))) })).lanesTo i.u i.rest) ∧
  Completes (.taskbeg a b) { n [a.opd2, b.opd] [] with inTask := false }
    (fun s w i => ∀ l ∈ i.n, ∀ r < 32, (m s w l).getLsbD r = true → nameable (s.nregs w) r = true ∧ ((w.lane l).cell r).fe = .full)
    (fun s w i => (s.updWarp i.u (fun x => { x with
      hold := some (.office i.act i.len (i.n.map (fun l => (l, va w l, m s w l))) none) })).lanesTo i.u i.rest) ∧
  Completes .taskend (n [] []) (fun _ w i => ∀ l ∈ i.n, (w.lane l).task.isSome = true) (fun s w i =>
    (i.n.foldl (fun s l => match task s w l with
      | some (j, _) => s.updCore w.core (fun c => { c with tasks := Map.upd c.tasks j (fun t => { t with ended := true }) })
      | none => s) s).lanesTo i.u (i.ran (fun l k => if i.n.contains l then { k with place := .taskEnd } else k))) ∧
  Completes (.taskq d) (n [] [d.toNat]) (fun _ _ _ => True) (fun s w i => s.lanesTo i.u (i.ran (fun l k => if i.n.contains l then
      k.put d.toNat (BitVec.ofNat 32 ((match task s w l with | some (_, t) => min 255 t.aborts | none => 0) * 256 +
        (if (s.grid (s.block w.block).grid).range.isSome = true then 4 else 0) + (if s.taskHead w l = true then 2 else 0) +
        (if (w.lane l).task.isSome = true then 1 else 0)))
    else k)))

/-- R409, R410: a MIGRATE that reads an address of its own base die writes 1 and goes on; one that finds a restante slot over the
address's die writes 1, goes on and takes its warp there, to a block of its own without scratchpad; one that finds none waits for a slot.
The order of its checks is the model's reading (log entry 50). R394 to R397: RPBEG opens its context's replay session with what its
descriptor gives, empties the L1s or the LLC of its context's lines where the flags ask for it, and stays until the session is armed;
RPEND closes the session once its grids have ended: the logs and the status block are written, and pd says whether enforcement met a
mismatch. How logs are laid out and what RPEND waits for are the model's reading (log entries 51 and 52). R398: WSCAP arms a capture on
the pages of its descriptor, which shows nothing saved; WSRST copies the saved pages back and arms it again. What both write in the block
is the model's reading (log entries 53 and 54). -/
def Obligations.MigrationAndReplay : Prop :=
  (∀ (p : BitVec 3) (a : RegE),
  let n : Need := { srcs := [a.opd2], lpb := 0, mem := true, perWarp := true }
  let va (w : Warp) (l : Nat) : Dword := (w.lane l).val (a.r.toNat + 1) ++ (w.lane l).val a.r.toNat
  let at_ (w : Warp) (i : Iss) : Dword := va w (i.n.headD 0)
  let may (s : State) (w : Warp) (i : Iss) (pa : Nat) : Prop := w.kind = .warp ∧ (s.block w.block).exact = false ∧ w.qmaps = [] ∧
    (∀ l ∈ i.frag, (w.lane l).task = none) ∧ (∀ l ∈ i.n, va w l = at_ w i) ∧ i.handler = false ∧ (∀ l ∈ w.liveLanes, l ∈ i.act) ∧
    inWindow (at_ w i) = false ∧ s.corePlace w.ctx w.core .none (at_ w i) 1 true false = .inl pa ∧ (∀ k < 8, w.tokBusy k = false) ∧
    s.released i.u 3 = true ∧ ∀ x ∈ s.scopeWrites, x.2.warp ≠ i.u
  -- the read of the address leaves its translation in the TLBs
  let seen (s : State) (w : Warp) (i : Iss) : State := s.touchXlat w.core (s.gridOf w) w.ctx (at_ w i).toNat true
  (∀ pa : Nat, Completes (.migrate p a) n (fun s w i => may s w i pa ∧ w.core / 64 = homeDie pa)
    (fun s w i => (seen s w i).lanesTo i.u (i.ran (fun _ k => k.putP p true)))) ∧
  (∀ (s : State) (u : Nat) (w : Warp) (h : Lane) (pa c k : Nat), s.Ready u w h n → let i := w.iss u h 2
    may s w i pa → w.core / 64 ≠ homeDie pa → s.restanteSlot (homeDie pa) = some (c, k) →
    ∃ t, exec (.migrate p a) s = .next t.sweep ∧ State.Alike (((seen s w i).lanesTo u (i.ran (fun _ x => x.putP p true))).moveWarp u c k) t) ∧
  (∀ pa : Nat, Completes (.migrate p a) n (fun s w i => may s w i pa ∧ w.core / 64 ≠ homeDie pa ∧ s.restanteSlot (homeDie pa) = none)
    (fun s w i => (seen s w i).updWarp i.u (fun x => { x with hold := some (.restante i.act i.len p) }))) ∧
  (∀ (s : State) (d c k : Nat), s.restanteSlot d = some (c, k) →
    c / 64 = d ∧ k < 4 ∧ (s.core c).online = true ∧ s.goingOff (c / 32) = false ∧ (s.core c).fenced = false ∧ Map.has (s.core c).restante k = false) ∧
  (∀ (s : State) (u c k : Nat) (w : Warp), Map.get? s.warps u = some w →
    let t := s.moveWarp u c k
    (t.warp u).core = c ∧ (t.warp u).block = s.nextId ∧ (t.warp u).lanes = w.lanes ∧ (t.block s.nextId).migrated = true ∧
    (t.block s.nextId).core = c ∧ (t.block s.nextId).scratch = 0 ∧ (t.block s.nextId).grid = (s.block w.block).grid ∧
    (t.warp u).privB.isSome = true ∧ (t.warp u).privC.isSome = true)) ∧
  (∀ (a : RegE) (p : BitVec 3),
  let n (srcs : List Opd) : Need := { srcs := srcs, lpb := 0, scc := false, ae := false, perWarp := true }
  let va (w : Warp) (l : Nat) : Dword := (w.lane l).val (a.r.toNat + 1) ++ (w.lane l).val a.r.toNat
  let at_ (w : Warp) (i : Iss) : Dword := va w (i.n.headD 0)
  let read (s : State) (w : Warp) (i : Iss) : List Byte × State := match s.agentPlaces w (at_ w i) 64 true false with
    | .inl ks => s.readRecord i.u (i.n.headD 0) (at_ w i) ks
    | .inr _ => ([], s)
  let rec_ (s : State) (w : Warp) (i : Iss) : List Byte := (read s w i).1
  let f (s : State) (w : Warp) (i : Iss) (off n : Nat) : Nat := leNat (((rec_ s w i).drop off).take n)
  let area (s : State) (w : Warp) (i : Iss) : List Nat ⊕ Trap :=
    (read s w i).2.agentPlaces w (BitVec.ofNat 64 (f s w i 8 8)) (f s w i 16 4) true false
  let log (s : State) (w : Warp) (i : Iss) : List Byte := match area s w i with
    | .inl ks => ks.map ((read s w i).2.dieByte w.core)
    | .inr _ => []
  let grids (s : State) (x : Session) : List Nat :=
    (s.grids.filter (fun g => g.2.parentWarp == some x.warp && g.2.inSession)).map (·.1)
  Completes (.rpbeg a) (n [a.opd2])
    (fun s w i => (∀ l ∈ i.n, va w l = at_ w i) ∧ (at_ w i).toNat % 64 = 0 ∧ (∃ ks, s.agentPlaces w (at_ w i) 64 true false = .inl ks ∧ s.recordWaits i.u (i.n.headD 0) ks = false) ∧
      badSession (rec_ s w i) = none ∧ (s.ctx w.ctx).session = none ∧ s.released i.u 3 = true ∧
      (f s w i 0 1 ≠ 1 → ∃ ks, area s w i = .inl ks))
    (fun s w i =>
      let mode := f s w i 0 1
      let lines : Map (List Word) := if mode = 1 then []
        else if mode = 2 then Map.mapV (readLogs (log s w i).length (log s w i) []) (fun _ l => requesters l)
        else readLogs (log s w i).length (log s w i) []
      let t : State := if f s w i 1 1 % 2 = 1 then
          (((s.gridBlocks (s.block w.block).grid).map (fun b => (s.block b).core)).eraseDups).foldl State.invalidateL1 (read s w i).2
        else (read s w i).2
      let t : State := if f s w i 1 1 / 2 % 2 = 1 then { t with llc := Map.mapV t.llc (fun _ set =>
          set.filter (fun e => !t.ctxMaps w.ctx (e.1 * 256) 256)) } else t
      ((t.updCtx w.ctx (fun x => { x with session := some ⟨mode, i.u, BitVec.ofNat 64 (f s w i 8 8), f s w i 16 4, BitVec.ofNat 64 (f s w i 24 8),
        lines, [], false, false, 0, 0, if mode = 1 then [] else (s.ctx w.ctx).recorded, false⟩ })).updWarp i.u (fun x =>
          { x with hold := some (.replayArm i.act i.len) })).lanesTo i.u i.rest) ∧
  (∀ x : Session, Completes (.rpend p) (n []) (fun s w _ => (s.ctx w.ctx).session = some x ∧ (∀ g ∈ grids s x, (s.grid g).ended = true) ∧
      (∀ r ∈ s.reqs, ∀ t, r.2 = .atom t → t.warp ≠ x.warp) ∧ ∀ r ∈ s.reqs, ∀ t, r.2 = .xaddm t → t.warp ≠ x.warp)
    (fun s w i =>
      let s1 : State := if x.mode = 1 then s.writeVa w.ctx x.log (logBytes x.lines) else s
      let s2 : State := s1.writeVa w.ctx x.status (leBytes 4 ((if x.mismatch then 1 else 0) + (if x.overflow then 2 else 0)) ++
        leBytes 4 x.firstIx ++ leBytes 8 (x.firstLine * 256))
      let s3 : State := s2.updCtx w.ctx (fun c => { c with session := none, recorded := if x.mode = 1 then x.cores else c.recorded })
      ((grids s x).foldl (fun s g => s.updGrid g (fun k => { k with inSession := false })) s3).lanesTo i.u
        (i.ran (fun _ k => k.putP p x.mismatch))))) ∧
  (∀ (a : RegE) (c : Capture),
  let n : Need := { srcs := [a.opd2], lpb := 0, scc := false, ae := false, perWarp := true }
  let va (w : Warp) (l : Nat) : Dword := (w.lane l).val (a.r.toNat + 1) ++ (w.lane l).val a.r.toNat
  let at_ (w : Warp) (i : Iss) : Dword := va w (i.n.headD 0)
  let read (s : State) (w : Warp) (i : Iss) : List Byte × State := match s.agentPlaces w (at_ w i) 64 true false with
    | .inl ks => s.readRecord i.u (i.n.headD 0) (at_ w i) ks
    | .inr _ => ([], s)
  let rec_ (s : State) (w : Warp) (i : Iss) : List Byte := (read s w i).1
  let may (s : State) (w : Warp) (i : Iss) : Prop := (∀ l ∈ i.n, va w l = at_ w i) ∧ (at_ w i).toNat % 64 = 0 ∧
    (∃ ks, s.agentPlaces w (at_ w i) 64 true false = .inl ks ∧ s.recordWaits i.u (i.n.headD 0) ks = false) ∧ badCapture (rec_ s w i) = none ∧
    (read s w i).2.capturePages w (rec_ s w i) = .inr c
  let arm (s : State) (w : Warp) (i : Iss) : State :=
    (s.updCtx w.ctx (fun x => { x with captures := Map.put x.captures (at_ w i).toNat c })).captureStatus w.ctx (at_ w i).toNat
  Completes (.wscap a) n (fun s w i => may s w i ∧ s.released i.u 3 = true) (fun s w i =>
      (arm (read s w i).2 w i).lanesTo i.u (i.ran (fun _ k => k))) ∧
  (∀ old : Capture, Completes (.wsrst a) n (fun s w i => may s w i ∧ Map.get? (s.ctx w.ctx).captures (at_ w i).toNat = some old ∧
      ∀ g ∈ w.children, Map.has s.grids g = true → (s.grid g).ended = true)
    (fun s w i =>
      let s1 : State := old.saved.foldl (fun s p => s.copyPage p.2 p.1) (read s w i).2
      (arm (s1.invalidateL1 w.core) w i).lanesTo i.u (i.ran (fun _ k => k)))) ∧
  (∀ (s : State) (w : Warp) (r : List Byte), s.capturePages w r = .inr c → c.saved = [] ∧ c.copied = [] ∧ c.full = false))

/-- R243: the new value of each atomic operation, or none where a compare writes nothing. -/
def Obligations.AtomicOperations : Prop := ∀ (o v c : BitVec 32) (x y z : BitVec 64),
  let w (a : BitVec 32) : BitVec 64 := a.setWidth 64
  let op (n : Nat) : Option (BitVec 64) := atomOp n (w o) (w v) (w c)
  op 0 = some (w (o + v)) ∧ op 1 = some (w (o - v)) ∧ op 2 = some (w (o &&& v)) ∧ op 3 = some (w (o ||| v)) ∧ op 4 = some (w (o ^^^ v)) ∧
  op 5 = some (w (BitVec.ofInt 32 (min o.toInt v.toInt))) ∧ op 6 = some (w (BitVec.ofInt 32 (max o.toInt v.toInt))) ∧
  op 7 = some (w (BitVec.ofNat 32 (min o.toNat v.toNat))) ∧ op 8 = some (w (BitVec.ofNat 32 (max o.toNat v.toNat))) ∧
  op 9 = some (w v) ∧ (op 10 = if o = c then some (w v) else none) ∧
  op 11 = some (w (BitVec.ofNat 32 (if c.toNat < o.toNat + v.toNat then o.toNat + v.toNat - c.toNat - 1 else o.toNat + v.toNat))) ∧
  op 12 = some (w (if o.toNat < v.toNat then BitVec.ofInt 32 (o.toNat + c.toNat + 1 - v.toNat : Int) else o - v)) ∧
  op 13 = some (w (BitVec.ofNat 32 (f32.add .plain o.toNat v.toNat).bits)) ∧
  op 14 = some (w (BitVec.ofNat 32 (f32.minmax false false o.toNat v.toNat).bits)) ∧
  op 15 = some (w (BitVec.ofNat 32 (f32.minmax false true o.toNat v.toNat).bits)) ∧
  op 16 = some (w (BitVec.ofNat 32 (f32.minmax false true (o.toNat % 2 ^ 31) (v.toNat % 2 ^ 31)).bits)) ∧
  atomOp 17 x y z = some (BitVec.ofNat 64 (f64.add .plain x.toNat y.toNat).bits) ∧
  atomOp 18 x y z = some (x + y) ∧ (atomOp 19 x y z = if x = z then some y else none) ∧ atomOp 20 x y z = some y

/-- R206, R209 to R212: one read of a page walk, served at the home slice of its entry, which always completes. A table entry leads to the
next level, at most the fourth, and is kept, a leaf enters both TLBs and the check that asked, a failed entry makes the page of the check
bad with the level and whether the entry was malformed; what is no walk stays as it is. R22, R23, R212, R358: the checks of a may-fault
instruction end when every page it needs is found or failed and nothing keeps its effect back; its lanes then complete, stay or trap
together, and until then nothing changes. Where no lane's access fails, each lane moves past the instruction, and its accesses start; a
helper lane's failed access gives 0 and traps nothing. Where accesses of some lanes fail, the lanes whose failure stands first in the
order of R358 trap together at the instruction, each with its own address, at any ordinary priority; the other failing lanes stay where
they are; the lanes that pass complete, and no byte changes but those that they store. R22, R358, R362, R385: an armed watchpoint of the
core, with the kind of the access enabled, stops an access of a lane that touches a byte of its range: the access fails with WATCHPOINT,
the lane's own address in taddr, after every other check; a lane that resumes at the instruction whose watchpoint it met is not stopped
again. The access is not performed; each match is counted, up to 0xFFFF. Engine paths are never checked. -/
def Obligations.TranslationChecks : Prop :=
  (∀ (s : State) (k : Nat) (p : PageWalk), Map.get? s.reqs k = some (.walk p) →
  let va := p.va % 2 ^ 57
  let note (s : State) (f : Check → Check) : State := s.updWarp p.warp (fun w => { w with check := w.check.map f })
  let c : State := s.countServed (s.gridOf (s.warp p.warp)) [p.table + 8 * levelIndex va p.level]
  (∀ t, s.pteStep p.ctx va p.level p.table = .next t → exec (.pageWalkReadArrives k) s =
    .next ((c.keepEntry p.core ⟨p.ctx, p.level, va / 2 ^ levelShift p.level, t⟩).setReq k (.walk { p with level := p.level + 1, table := t })) ∧
    p.level ≠ 4) ∧
  (∀ x, s.pteStep p.ctx va p.level p.table = .leaf x → exec (.pageWalkReadArrives k) s =
    .next (note ((c.delReq k).fillTlb p.core x) (fun c => { c with xlat := c.xlat ++ [x] }))) ∧
  (∀ m, s.pteStep p.ctx va p.level p.table = .fault m → exec (.pageWalkReadArrives k) s =
    .next (note (c.delReq k) (fun c => { c with bad := c.bad ++ [(p.va / 65536, (BitVec.ofNat 32 (p.level + if m then 8 else 0)).toNat)] }))) ∧
  (∀ (core ctx va level t : Nat), s.walkStart core ctx va = some (level, t) → 1 ≤ level ∧ level ≤ 4) ∧
  (∀ x, p.level ≤ 4 → s.pteStep p.ctx va p.level p.table = .leaf x →
    x.size = 2 ^ 16 ∧ p.level = 4 ∨ x.size = 2 ^ 21 ∧ p.level = 4 ∨ x.size = 2 ^ 30 ∧ p.level = 3) ∧
  (∀ x, s.pteStep p.ctx va p.level p.table = .leaf x →
    let t := note ((c.delReq k).fillTlb p.core x) (fun c => { c with xlat := c.xlat ++ [x] })
    Map.get? t.reqs k = none ∧ t.tlbFind p.core x.ctx x.base = some x ∧ (∀ w, Map.get? s.warps p.warp = some w →
      (t.warp p.warp).lanes = w.lanes ∧ (t.warp p.warp).check = w.check.map (fun c => { c with xlat := c.xlat ++ [x] }))) ∧
  (∀ j, (∀ q, Map.get? s.reqs j ≠ some (.walk q)) → exec (.pageWalkReadArrives j) s = .next s)) ∧
  (∀ (s : State) (u : Nat),
  (s.checkReady u = false → exec (.translationCheckDone u) s = .next s) ∧
  (∀ w c, Map.get? s.warps u = some w → w.check = some c → s.checkReady u = true →
    let ps := s.passing w c
    let full : Prop := ∃ p ∈ ps, s.buffers w c.what p.1 p.2 = true ∧ s.bufferFull w p.1 p.2 = true
    let fails (a : Access) (t : Trap) : Prop := a ∈ c.acc ∧ (w.lane a.lane).helper = false ∧ s.accessTrap w c a = some t
    -- no access of a lane that can trap fails, and no task's buffer is full
    ((∀ a t, ¬ fails a t) → (∀ a ∈ c.acc, ∀ t, s.accessTrap w c a = some t → t.cause ≠ 0x14) → ¬ full →
      ∃ x t, exec (.translationCheckDone u) s = .next t ∧ t = x.sweep ∧ State.Alike
      (((s.updWarp u (fun w => { w with
        check := none
        lanes := Map.mapV w.lanes (fun l k =>
          if !c.lanes.contains l then k
          else if k.helper then
            (if c.acc.any (fun a => a.lane == l && (s.accessTrap w c a).isSome) then (c.marked l).foldl (fun k r => k.put r.toNat 0) k else k)
          else { k.advance c.len with noWatch := false }) })).effect u c ps).updWarp u (fun w => w.releaseHeld c.pops)) x) ∧
    -- accesses of some lanes fail
    (∀ cause rank, w.kind = .warp → (c.acc.map (·.lane)).Nodup → (∀ a ∈ c.acc, a.lane ∈ c.lanes) →
      (∀ d pads, c.what = .ldl d pads → ∀ p ∈ pads, p.1 ∉ c.acc.map (·.lane)) →
      (∀ l ∈ c.lanes, Map.has w.lanes l = true ∧ (w.lane l).prio ≠ 63) → ¬ full →
      (∃ a t, fails a t ∧ causeRank t = rank) → (∀ a t, fails a t → rank ≤ causeRank t ∧ (causeRank t = rank → t.cause = cause)) →
      let first := w.lane ((c.lanes.find? (fun l => !(w.lane l).helper)).getD 0)
      let trapped := (c.acc.filter (fun a => !(w.lane a.lane).helper && (s.accessTrap w c a).any (fun t => causeRank t == rank))).map (·.lane)
      ∃ x : State, exec (.translationCheckDone u) s = .next x.sweep ∧
        (∀ a t, fails a t → causeRank t = rank → let k := (x.warp u).lane a.lane
          k.tcause = BitVec.ofNat 32 cause ∧ k.taddr = t.addr ∧ k.tinfo = t.info ∧ k.tlanes = maskOf trapped ∧ k.tpc = first.pc ∧
          k.resumePc = first.pc ∧ k.resumePrio = first.prio ∧ k.prio = 63 ∧ k.pc.toNat / 65536 = 0) ∧
        (∀ a t, fails a t → causeRank t ≠ rank → let k := (x.warp u).lane a.lane
          k.pc = (w.lane a.lane).pc ∧ k.prio = (w.lane a.lane).prio ∧ k.place = (w.lane a.lane).place) ∧
        (∀ l ∈ c.lanes, (w.lane l).helper = false → (∀ a t, fails a t → a.lane ≠ l) → let k := (x.warp u).lane l
          k.pc = ((w.lane l).advance c.len).pc ∧ k.prio = (w.lane l).prio) ∧
        (∀ p, (∀ a ∈ c.acc, s.accessTrap w c a = none → p ∉ s.accessPas w c a) →
          (∀ y ∈ (s.core w.core).tasks, Map.get? y.2.cells p = none) → x.byte p = s.byte p) ∧
        (∀ k y, Map.get? s.reqs k = none → Map.get? x.reqs k = some (.load y) → y.warp = u → ∀ a ∈ c.acc, s.accessTrap w c a ≠ none → y.lane ≠ a.lane)))) ∧
  (∀ (s : State) (u : Nat) (w : Warp) (c : Check) (a : Access),
  let hits := s.watchHits w c.what a
  let kind (x : Watch) : Prop := (x.ctl.getLsbD 30 = true ∧ c.what.kinds.1 = true) ∨ (x.ctl.getLsbD 29 = true ∧ c.what.kinds.2 = true)
  (w.kind = .warp → (w.lane a.lane).noWatch = false → ∀ n, n ∈ hits ↔ ∃ x, (n, x) ∈ (s.core w.core).watches ∧ x.ctl.getLsbD 31 = true ∧ kind x ∧
    ∃ b, a.va.toNat ≤ b ∧ b < a.va.toNat + a.n ∧ x.base.toNat ≤ b ∧ b < x.limit.toNat) ∧
  (w.kind ≠ .warp ∨ (w.lane a.lane).noWatch = true → hits = []) ∧
  (∀ t, s.accessTrap w c a = some t → t.cause = 0x14 → causeRank t = 7 ∧ t = ⟨0x14, a.va, 0⟩ ∧ hits ≠ []) ∧
  (hits ≠ [] → ∃ t, s.accessTrap w c a = some t) ∧
  (hits ≠ [] → a.va.toNat % a.align = 0 → inWindow a.va = true →
    (∀ k, s.window w.ctx w.core (s.view w) a.va a.n = .inl k → a.wr = false → s.accessTrap w c a = some ⟨0x14, a.va, 0⟩)) ∧
  (hits ≠ [] → a.va.toNat % a.align = 0 → inWindow a.va = false → canonical a.va = true → a.canonical = true →
    (∀ v ∈ a.ends, ∃ x, c.page w.ctx v = some (.inl x) ∧ x.allows a.rd a.wr = true ∧ s.contained (s.localPa (x.paOf v)) = false) →
    s.accessTrap w c a = some ⟨0x14, a.va, 0⟩) ∧
  (Map.get? s.warps u = some w → w.check = some c → s.checkReady u = true → w.kind = .warp → c.acc = [a] → c.lanes = [a.lane] →
    (∀ d pads, c.what = .ldl d pads → pads = []) → Map.has w.lanes a.lane = true → (w.lane a.lane).helper = false → (w.lane a.lane).prio ≠ 63 →
    ((s.core w.core).watches.map (·.1)).Nodup → s.accessTrap w c a = some ⟨0x14, a.va, 0⟩ →
    ∃ x : State, exec (.translationCheckDone u) s = .next x.sweep ∧ x.mem = s.mem ∧ x.blocks = s.blocks ∧ x.reqs = s.reqs ∧
      ((x.warp u).lane a.lane).tcause = 0x14 ∧ ((x.warp u).lane a.lane).taddr = a.va ∧ ((x.warp u).lane a.lane).tpc = (w.lane a.lane).pc ∧
      ((x.warp u).lane a.lane).resumePc = (w.lane a.lane).pc ∧
      ∀ n y, Map.get? (s.core w.core).watches n = some y → Map.get? (x.core w.core).watches n = some (if n ∈ hits then
        { y with ctl := if y.ctl &&& 0xFFFF = 0xFFFF then y.ctl else y.ctl + 1 } else y)))

/-- R199, R203, R216, R218, R220, R235: a store passes the die point in its path's order, which then holds its bytes; it is performed at
its home slice, where they stand from then on; it is acknowledged there, which clears its mask bits in the issuing core's L1, once the
fills of its bytes that left before it have come (the model's reading of R17, log entry 58), and becomes visible to the host, after those
performed before it to one of its bytes. A store to another core's window is performed where it arrives. An atomic or an XADDM passes the
die point too. -/
def Obligations.StorePath : Prop := ∀ (s : State) (k : Nat) (t : Store), Map.get? s.reqs k = some (.store t) →
  (t.stage = .issued → s.mayPass k (.store t) false = true → (∀ c ∈ t.cells, isSp c.1 = false) → exec (.storeAckDiePoint k) s =
    .next { s with reqs := Map.put s.reqs k (.store { t with stage := .passed, pass := s.nextId }), nextId := s.nextId + 1 }) ∧
  (t.stage = .issued → s.mayPass k (.store t) false = true → (∃ c ∈ t.cells, isSp c.1 = true) → exec (.storeAckDiePoint k) s =
    .next (({ s with reqs := Map.del s.reqs k } : State).setBytes t.cells).sweep) ∧
  (t.stage ≠ .issued ∨ s.mayPass k (.store t) false = false → exec (.storeAckDiePoint k) s = .next s) ∧
  (∀ j a, Map.get? s.reqs j = some (.atom a) → s.dieAckReady j = true → exec (.storeAckDiePoint j) s =
    .next { s with reqs := Map.put s.reqs j (.atom { a with pass := s.nextId }), nextId := s.nextId + 1 }) ∧
  (∀ j x, Map.get? s.reqs j = some (.xaddm x) → s.dieAckReady j = true → exec (.storeAckDiePoint j) s =
    .next { s with reqs := Map.put s.reqs j (.xaddm { x with pass := s.nextId }), nextId := s.nextId + 1 }) ∧
  (s.storeReady k t = true → exec (.requestServedHomeSlice k) s = .next
    ((({ (s.setBytes t.cells).setReq k (.store { t with stage := .performed, done := s.nextId }) with nextId := s.nextId + 1 } : State).noteRelease
      t.core t.rel (t.cells.map (·.1))).countServed t.grid (t.cells.map (·.1)) true)) ∧
  (t.stage ≠ .passed → exec (.requestServedHomeSlice k) s = .next s) ∧
  (s.homeAckReady k = true → t.stage = .performed ∧
    (t.cls ≠ 0 → exec (.storeAckHome k) s = .next { s with reqs := Map.put s.reqs k (.store { t with stage := .acked }) }) ∧
    (t.cls = 0 → exec (.storeAckHome k) s = .next ((s.unmask k t).setReq k (.store { t with stage := .acked })))) ∧
  (t.stage = .performed → (∀ r ∈ s.reqs, r ≠ (k, .store t) → r.2.core ≠ t.core ∧ ∀ x, r.2 = .store x → x.heldAt (baseDieOfCore t.core) = false) →
    s.homeAckReady k = true) ∧
  (s.homeAckReady k = false → exec (.storeAckHome k) s = .next s) ∧
  (t.stage = .acked → t.shown = true → exec (.hostVisible k) s = .next (s.delReq k).sweep) ∧
  (t.stage = .acked → t.shown = false →
    let before (x : Store) : Prop := x.done ≠ 0 ∧ x.shown = false ∧ x.done < t.done ∧ ∃ c ∈ x.cells, Map.has t.cells c.1 = true
    ((∀ p ∈ s.stores, ¬ before p.2) → exec (.hostVisible k) s = .next ((s.setHost t.cells).delReq k).sweep) ∧
    ((∃ p ∈ s.stores, before p.2) → exec (.hostVisible k) s = .next s)) ∧
  (t.stage ≠ .acked → exec (.hostVisible k) s = .next s)

/-- R17, R114, R198, R205, R218, R231: a load takes what the die point holds, then its home's bytes for the rest; once served its
registers get the value, extended as its size says, and are full; a load of an address engine puts its group into its bank's FIFO. R198,
R226, R227, R243, R244, R248: a fill takes the die point's and the home's bytes and enters the L1, where masked bytes keep their value,
and gives what waits for it its bytes; an atomic is performed lane by lane in ascending order, each on what the one before left, what it
wrote becomes host-visible later, and its old values arrive; an XADDM adds line by line under its lock, the carry going on to the next
line. -/
def Obligations.LoadAndAtomicPath : Prop :=
  (∀ (s : State) (k : Nat) (l : Load), Map.get? s.reqs k = some (.load l) →
  (l.serve = .diePoint → s.mayPass k (.load l) true = true → ∃ fwd due, exec (.requestServedHomeSlice k) s = .next
      (((s.markSeen l.core l.pas).setReq k (.load { l with serve := .home, fwd := fwd, pass := s.nextId, due := due })).tock) ∧
    ∀ pa ∈ l.pas, ∀ b, s.held (baseDieOfCore l.core) pa = some b → Map.get? fwd pa = some (some b)) ∧
  (l.serve = .home → s.homeLoadReady k l = true → ∃ got due, exec (.requestServedHomeSlice k) s = .next
      ((s.setReq k (.load { l with serve := .done, got := got, due := due })).countServed (s.gridOf (s.warp l.warp))
        (l.pas.filter (fun p => !(Map.has l.fwd p)))) ∧
    ∀ j pa, l.pas[j]? = some pa → Map.get? got j = some (match Map.get? l.fwd pa with | some (some b) => b | _ => s.byte pa)) ∧
  (s.servedReady k = false → exec (.requestServedHomeSlice k) s = .next s) ∧
  (l.serve = .done → l.push = none → l.due ≤ s.tick.toNat → s.awayWarp l.warp = none → s.arrivalReady k = true) ∧
  (s.arrivalReady k = true →
    let a : State := ((s.delReq k).passTick 1).passTo l.due
    (l.push = none → l.acc = none → exec (.loadValueArrives k) s =
      .next (((a.updWarp l.warp (fun w => w.updLane l.lane (fun x => x.putAll l.dst l.words))).settleAcquire l.warp).aeFinish l.warp).sweep) ∧
    (∀ b, l.push = none → l.acc = some b → exec (.loadValueArrives k) s =
      .next (((a.updWarp l.warp (fun w => { w.setAcc b (Acc.ofImage ((List.range 552).map (fun j => Map.getD l.got j 0))) with
        xaWait := w.xaWait.erase b })).settleAcquire l.warp).aeFinish l.warp).sweep) ∧
    (∀ b, l.push = some b → l.acc = none → (s.warp l.warp).pushes b = true → exec (.loadValueArrives k) s =
      .next (((a.updCore l.core (fun c => { c with bank := Map.put c.bank b { c.bankOf b with fifo := (c.bankOf b).fifo ++
        [(List.range 32).map (fun j => BitVec.ofNat 32 (leNat ((List.range 4).map (fun i => Map.getD l.got (4 * j + i) 0))))] } })).settleAcquire
          l.warp).aeFinish l.warp).sweep)) ∧
  (s.arrivalReady k = false → exec (.loadValueArrives k) s = .next s) ∧
  (∀ (x : Lane) (j : Nat) (r : BitVec 6) (v : Word), l.dst.Nodup → l.dst[j]? = some r → l.words[j]? = some v →
    (x.putAll l.dst l.words).cell r.toNat = ⟨v, .full⟩) ∧
  (l.n = 1 ∨ l.n = 2 ∨ l.n = 4 → l.words = [let v := leNat ((List.range l.n).map (fun j => Map.getD l.got j 0))
    if l.sgn = true then BitVec.ofInt 32 (BitVec.ofNat (8 * l.n) v).toInt else BitVec.ofNat 32 v])) ∧
  (∀ (s : State) (k : Nat),
  (∀ f : Fill, Map.get? s.reqs k = some (.fill f) →
    let pas := (List.range 64).map (fun j => f.sector * 64 + j)
    (f.passed = none → s.mayPass k (.fill f) true = true → ∃ m, exec (.requestServedHomeSlice k) s = .next
        (((s.markSeen f.core pas).setReq k (.fill { f with passed := some m, pass := s.nextId })).tock) ∧
      ∀ pa ∈ pas, Map.get? m pa = s.held (baseDieOfCore f.core) pa) ∧
    (∀ m, f.passed = some m → f.got = none → s.servedReady k = true → ∃ stale, (f.stale = true → stale = true) ∧
      exec (.requestServedHomeSlice k) s = .next ((s.setReq k (.fill { f with
        got := some (pas.map (fun p => Map.getD m p (s.byte p))), stale := stale })).countServed f.grid (pas.filter (fun p => !(Map.has m p))))) ∧
    (∀ bs line, f.got = some bs → s.fillReady k = true → Map.get? (s.core f.core).l1 (f.sector / 4) = some line → f.bank = some line.bank →
      ((s.core f.core).bankOf line.bank).stopping = false → f.stale = false →
      let a : State := (s.delReq k).updCore f.core (fun c => c.l1Fill f.sector bs)
      ((∀ r ∈ s.reqs, r.2.onFill k = false) → exec (.l1Fill k) s = .next a.sweep) ∧
      (∀ j l, Map.keysWhere (s.delReq k).reqs (fun _ r => r.onFill k) = [j] → Map.get? (s.delReq k).reqs j = some (.load l) →
        exec (.l1Fill k) s = .next (a.setReq j (.load (l.takeFill k f.sector (fun p => bs.getD (p % 64) 0) (fun p =>
          if (a.core f.core).l1Has p then (a.core f.core).l1Byte p else bs.getD (p % 64) 0)))).sweep)) ∧
    (f.got ≠ none → s.fillReady k = true → f.stale = true → (∀ r ∈ s.reqs, r.2.onFill k = false) →
      exec (.l1Fill k) s = .next (s.delReq k).sweep)) ∧
  (s.fillReady k = false → exec (.l1Fill k) s = .next s) ∧
  (∀ (l : Load) (sector : Nat) (own merged : Nat → Byte) (ks : List Nat) (j pa : Nat), l.serve = .fill ks → l.pas[j]? = some pa → pa / 64 = sector →
    Map.get? (l.takeFill k sector own merged).got j = some (match Map.get? l.fwd pa with
      | some (some b) => b
      | some none => own pa
      | none => merged pa)) ∧
  (∀ (c : Core) (x : Nat) (l : Line) (bs : List Byte) (j : Nat), Map.get? c.l1 (x / 4) = some l → bs.length = 64 → j < 64 →
    (c.l1Fill x bs).l1Has (x * 64 + j) = true ∧ (c.l1Fill x bs).l1Byte (x * 64 + j) =
      (if l.mask.getLsbD (x % 4 * 64 + j) = true then Map.getD l.data (x % 4 * 64 + j) 0 else bs.getD j 0)) ∧
  (∀ a : Atom, Map.get? s.reqs k = some (.atom a) →
    let run := atomRun a.aop s.byte (a.parts.drop a.performed)
    (s.atomReady k a = true → s.sessionFor a = none → ∃ t due, exec (.requestServedHomeSlice k) s = .next t ∧
      Map.get? t.reqs k = some (.atom { a with
        parts := a.parts.take a.performed ++ run.1, performed := a.parts.length, due := due }) ∧
      (∀ j, j ≠ k → j ≠ s.nextId → Map.get? t.reqs j = Map.get? s.reqs j) ∧
      (k ≠ s.nextId → run.2 ≠ [] → (∀ c ∈ run.2, isSp c.1 = false) → Map.get? t.reqs s.nextId = some (.store
        ⟨a.cls, a.core, a.warp, a.block, a.grid, a.ctx, run.2, .acked, [], 0, s.nextId, 0, s.nextId, false, []⟩)) ∧ (∀ pa, t.byte pa = (s.setBytes run.2).byte pa) ∧ t.warps = s.warps ∧
      t.cores = s.cores ∧ (∀ b, (t.block b).bars = (s.block b).bars)) ∧
    (∀ d, s.arrivalReady k = true → a.ret = some d → exec (.loadValueArrives k) s = .next
      (((a.parts.foldl (fun (x : State) p => x.updWarp a.warp (fun w => w.updLane p.lane (fun y => y.putAll (if 17 ≤ a.aop then [d, d + 1] else [d])
        [p.old.extractLsb' 0 32, p.old.extractLsb' 32 32]))) ((s.passTick 1).passTo a.due)).delReq k).settleAcquire
          a.warp).sweep)) ∧
  (∀ (aop : Nat) (base : Nat → Byte) (p : AtomLane) (ps : List AtomLane), aop < 17 →
    (atomRun aop base (p :: ps)).1.head? = some { p with old := BitVec.ofNat 64 (leNat ((List.range 4).map (fun i => base (p.pa + i)))) }) ∧
  (∀ x : Xaddm, Map.get? s.reqs k = some (.xaddm x) →
    (x.locked = true → s.xaddmReady k x = true → exec (.xaddmLinePerformed k) s = .next (s.xaddmLine k x false)) ∧
    (x.locked = false → s.xaddmReady k x = true → exec (.requestServedHomeSlice k) s = .next (s.xaddmLine k x false)) ∧
    (x.locked = false ∨ s.xaddmReady k x = false → exec (.xaddmLinePerformed k) s = .next s) ∧
    (∀ ln rest, x.linesLeft = ln :: rest → x.pas.Nodup → x.pas.length = 552 → x.src.length = 552 → (∀ pa ∈ x.pas, isSp pa = false) →
      let t := s.xaddmLine k x false
      let at_ (p : Nat) : Nat := x.pas.getD p 0
      let mine := (List.range 544).filter (fun p => at_ p / 256 == ln)
      ∃ carry, Map.get? t.reqs k = some (.xaddm { x with carry := carry, linesLeft := rest, locked := true }) ∧
        leNat (mine.map (fun p => t.byte (at_ p))) + 256 ^ mine.length * carry =
          leNat (mine.map (fun p => s.byte (at_ p))) + leNat (mine.map (fun p => x.src.getD p 0)) + x.carry ∧
        (at_ 544 / 256 = ln → t.byte (at_ 544) = (s.byte (at_ 544) ||| x.src.getD 544 0) &&& 7) ∧
        (∀ p, 545 ≤ p → p < 552 → at_ p / 256 = ln → t.byte (at_ p) = 0) ∧ (∀ pa, pa ∉ x.pas ∨ pa / 256 ≠ ln → t.byte pa = s.byte pa))))

/-- R152, R163 to R166, R178, R182 to R184, R190, R237: a scope write takes effect in its register's order; a join whose parked lanes are
its enrolled ones lets them go; a barrier whose count is reached and whose participants' writes are ordered starts its next phase, with
the waiting lanes back in their frontiers; a JOIN whose grids have ended lets its lanes go after an acquire. That the writes of one level
and owner take effect in the order of their issue is the model's reading (log entry 18), and that a barrier waits for all of its
participants' writes is too (log entry 46). -/
def Obligations.SynchronisationEvents : Prop := ∀ (s : State) (k u j o i : Nat) (cluster : Bool),
  (∀ x, Map.get? s.scopeWrites k = some x → (∀ p ∈ s.scopeWrites, k ≤ p.1 ∨ p.2.level ≠ x.level ∨ p.2.owner ≠ x.owner) →
    exec (.scopeWriteTakesEffect k) s = .next ((({ s with scopeWrites := Map.del s.scopeWrites k } : State).setScope x.level x.owner x.reg
      (match x.op with | some n => scopeOp n (s.scopeHeld x.level x.owner x.reg) x.v | none => x.v))).sweep) ∧
  ((∃ p ∈ s.scopeWrites, ∃ x, Map.get? s.scopeWrites k = some x ∧ p.1 < k ∧ p.2.level = x.level ∧ p.2.owner = x.owner) →
    exec (.scopeWriteTakesEffect k) s = .next s) ∧
  (∀ w, Map.get? s.warps u = some w → Map.getD w.joins j 0 ≠ 0 →
    maskOf ((w.lanes.filter (fun l => l.2.place == .join j)).map (·.1)) = Map.getD w.joins j 0 → ∃ t, exec (.joinRelease u j) s = .next t ∧
      State.Alike (s.updWarp u (fun x => { x with
        joins := Map.setD x.joins j 0 0
        lanes := Map.mapV x.lanes (fun _ l => if l.place == .join j then { l with place := .frontier } else l) })) t) ∧
  ((s.warp u).joinReady j = false → exec (.joinRelease u j) s = .next s) ∧
  (s.barReady cluster o i = true → ∃ t, exec (.barrierComplete cluster o i) s = .next t ∧
    (let b := s.barAt cluster o i
     let last := s.lastArriver (!cluster && (s.block o).det) b.arrivals
     (cluster = false → Map.has s.blocks o = true → Map.get? (t.block o).bars i = some ⟨b.phase + 1, none, []⟩) ∧
     (cluster = true → Map.has s.groups o = true → Map.get? (t.group o).bars i = some ⟨b.phase + 1, none, []⟩) ∧
     (cluster = true ∨ (s.block o).det = false → (t.block o).b = (s.block o).b) ∧
     ∀ v w l, Map.get? s.warps v = some w → w.kind = .warp → w.block ∈ s.barBlocks cluster o → Map.get? w.lanes l ≠ none → (w.lane l).helper = false →
       -- a waiting lane goes on; BARLAST's predicate tells whether its warp is the last arriver
       ((w.lane l).place = .bar cluster i b.phase none → (t.warp v).lane l = { w.lane l with place := .frontier }) ∧
       (∀ p, (w.lane l).place = .bar cluster i b.phase (some p) →
         (t.warp v).lane l = { (w.lane l).putP p (decide (last = some v)) with place := .frontier }) ∧
       ((∀ pd, (w.lane l).place ≠ .bar cluster i b.phase pd) → (t.warp v).lane l = w.lane l))) ∧
  (s.barReady cluster o i = false → exec (.barrierComplete cluster o i) s = .next s) ∧
  (∀ l x hs, Map.find? (s.warp u).lanes (fun _ y => s.joinDone y) = some (l, x) → x.place = .children hs → exec (.joinSatisfied u) s =
    .next ((((s.updWarp u (fun w => { w with lanes := Map.mapV w.lanes (fun _ y =>
      if y.place = .children hs then { y with place := .frontier } else y) })).passTick 1).acquired u true).takeCounts u hs)) ∧
  (Map.find? (s.warp u).lanes (fun _ y => s.joinDone y) = none → exec (.joinSatisfied u) s = .next s) ∧
  (∀ (x : Lane) (hs : List Nat), x.place = .children hs → (s.joinDone x = true ↔ ∀ h ∈ hs, Map.has s.grids h = false ∨ (s.grid h).ended = true))

/-- R149, R157, R185, R345, R403: the oldest warp that may run enters the active set of its core while that holds fewer than 16; a timed
bin is ordered to form; a bin that is full or ordered forms a warp of its first 32 lanes where the core has room, and keeps the rest; a
grid whose limit has passed ends with status 4. R195, R196, R251: a bank whose bytes are acknowledged takes its new mode, empty, and the
fragment of BANKCFG goes on with 1; a change that cannot be made leaves the bank as it is and gives 0. A FIFO whose warp has gone returns
to CACHE at once, as with the end of its owner. -/
def Obligations.CoreEvents : Prop :=
  (∀ (s : State) (u c i g : Nat),
  (s.entersReady u = true → exec (.warpEntersActiveSet u) s = .next
    ((s.updWarp u (fun w => { w with stop := none })).updCore (s.warp u).core (fun c => { c with active := c.active ++ [u] }))) ∧
  (s.entersReady u = true → (s.core (s.warp u).core).active.length < 16) ∧
  (s.entersReady u = false → exec (.warpEntersActiveSet u) s = .next s) ∧
  exec (.binTimerExpire c i) s = .next (s.updCore c (fun x => { x with bins := Map.upd x.bins i (fun b =>
    if b.timer = true ∧ b.lanes ≠ [] then { b with flush := true, timer := false } else b) })) ∧
  (∀ b, Map.get? (s.core c).bins i = some b → s.binReady c i = true → exec (.binFormWarp c i) s = .next
    ((s.updCore c (fun x => { x with
      bins := if b.lanes.length ≤ 32 then Map.del x.bins i
        else Map.put x.bins i { b with lanes := b.lanes.drop 32, timer := b.warp.isNone } })).formWarp b.block b.entry (b.lanes.take 32) false)) ∧
  (s.binReady c i = false → exec (.binFormWarp c i) s = .next s) ∧
  (∀ (b : Nat) (entry : Word) (args : List (List Word)) (l : Nat), l < args.length →
    let t := s.formWarp b entry args false
    (t.warp s.nextId).block = b ∧ (t.warp s.nextId).kind = .warp ∧ ((t.warp s.nextId).lane l).pc = entry ∧
    ((t.warp s.nextId).lane l).helper = false ∧ ((t.warp s.nextId).lane l).place = .frontier ∧
    ∀ r v, (args.getD l [])[r]? = some v → ((t.warp s.nextId).lane l).val r = v) ∧
  (s.limitReady g = true → exec (.gridTimeLimit g) s = .next (s.kill g 4 0)) ∧
  (s.limitReady g = false → exec (.gridTimeLimit g) s = .next s)) ∧
  (∀ (s : State) (c : Nat) (x : BankChange), (s.core c).cfg = some x →
  let b := (s.core c).bankOf x.bank
  let w := s.warp x.warp
  -- the next state, but for the warp's books
  let goes (s' : State) (ok : Bool) : Prop := ∃ t, exec (.bankModeChangeDone c) s = .next t ∧ State.Alike (s'.updWarp x.warp (fun w => { w with
    hold := none
    lanes := Map.mapV w.lanes (fun l k => if x.lanes.contains l then
      (if (k.putP x.pd ok).helper then k.putP x.pd ok else (k.putP x.pd ok).advance x.len) else k) })) t
  let ready : Prop := b.stopping = false ∨ s.bankHeld c x.bank = false
  let mode : Nat := if x.mode = 2 ∧ Map.has s.warps x.warp = false then 0 else x.mode
  let may : Prop := b.stopping = true ∨ s.bankFree c x.bank x.mode = true
  (ready → may → b.mode ≠ mode → goes (s.setCore c { (s.core c) with
    bank := Map.put (s.core c).bank x.bank ⟨mode, none, false, [], 0, if mode = 2 ∧ w.isScc = false then some w.block else none,
      decide (mode = 2) && w.isScc, false⟩
    l1 := (s.core c).l1.filter (fun p => p.2.bank != x.bank), cfg := none }) true) ∧
  (ready → may → b.mode = mode → goes (s.setCore c { (s.core c) with cfg := none }) true) ∧
  (ready → ¬ may → goes (s.setCore c { (s.core c) with cfg := none }) false) ∧
  (¬ ready → exec (.bankModeChangeDone c) s = .next s))

/-- R269, R273, R275, R277, R278: the office's answer opens a range that does not overflow where none is open, or begins a task in each
lane, or traps 0x10 or 0x0F; the head's commit starts once its loads are done, and completes: its buffer performed, later tasks that read
what it wrote aborted, the range one further. R271, R272: memory accesses of a lane in an ordered task. A plain store of up to 8 bytes is
merged into its word's entry of the task's buffer, and leaves nothing else; one that needs a 17th entry parks its lane where the task is
not the head, and at the head goes out after the buffer's contents; one of 16 bytes is ILLEGAL. A load is served at its home slice with
the bytes of its own buffer forwarded, and sets the signature bit of each line. What may not run in a task that is not the head parks its
lanes until it is; what may run in no task is ILLEGAL. -/
def Obligations.TaskEvents : Prop :=
  (∀ (s : State) (u g : Nat) (w : Warp) (ls : List Nat) (len : Nat) (ts : List (Nat × Nat × Word)),
  let k := w.lane ((ls.find? (fun l => !(w.lane l).helper)).getD 0)
  let i : Iss := ⟨u, k.pc, k.prio, len, ls, ls, ls.filter (fun l => !(w.lane l).helper), 0⟩
  let free : State := s.updWarp u (fun w => { w with hold := none })
  let range := (s.grid (s.gridOf w)).range
  -- the next state, but for the warp's books
  let answers (x : State) : Prop := ∃ t, exec (.commitOfficeReply u) s = .next t ∧ State.Alike x t
  let traps (cause : Nat) (info : Nat) : Prop := answers (free.fragTrap i cause (fun _ => ⟨cause, 0, BitVec.ofNat 32 info⟩))
  (∀ t0 n, Map.get? s.warps u = some w → w.hold = some (.office ls len ts (some (t0, n))) →
    (0 < n → t0 + n ≤ 2 ^ 64 → range = none →
      answers ((free.updGrid (s.gridOf w) (fun y => { y with range := some ⟨t0, n, t0, [], false⟩ })).adv i)) ∧
    (n = 0 ∨ 2 ^ 64 < t0 + n ∨ range ≠ none → traps 0x10 n)) ∧
  (Map.get? s.warps u = some w → w.hold = some (.office ls len ts none) →
    (∀ r, range = some r → (∀ t ∈ ts, r.t0 ≤ t.2.1 ∧ t.2.1 < r.t0 + r.count ∧ r.next ≤ t.2.1 ∧ t.2.1 ∉ r.begun) → (ts.map (·.2.1)).Nodup →
      answers (free.beginTasks u len ts)) ∧
    (range = none → traps 0x10 ((ts.map (·.2.1)).headD 0)) ∧
    (∀ r t, range = some r → ts.find? (fun t => decide (t.2.1 < r.t0 ∨ r.t0 + r.count ≤ t.2.1)) = some t → traps 0x10 t.2.1) ∧
    (∀ r t, range = some r → (∀ t ∈ ts, r.t0 ≤ t.2.1 ∧ t.2.1 < r.t0 + r.count) →
      ts.find? (fun t => decide (t.2.1 < r.next ∨ t.2.1 ∈ r.begun)) = some t → (ts.map (·.2.1)).Nodup → traps 0x0F t.2.1)) ∧
  (s.commitStartReady g = true → exec (.taskCommitStart g) s = .next (s.updGrid g (fun y => { y with
    range := y.range.map (fun r => { r with ready := true }) }))) ∧
  (s.commitStartReady g = false → exec (.taskCommitStart g) s = .next s) ∧
  (∀ core n t, s.commitReady g = true → s.endedHead g = some (core, n, t) → exec (.taskCommitComplete g) s = .next (
    let x : State := ((s.performBuffer core g t).updCore core (fun c => { c with tasks := Map.del c.tasks n })).updWarp t.warp (fun w =>
      w.updLane t.lane (fun k => k.commit n))
    let y : State := (x.conflicts g t.stamp t.written).foldl (fun (x : State) p => x.abortTask p.1 p.2 false) x
    ((((y.updGrid g (fun z => { z with range := z.range.bind Range.step })).count g 0x1B 1).wakeHeads g).wakeSlots).sweep)) ∧
  (s.commitReady g = false → exec (.taskCommitComplete g) s = .next s) ∧
  (∀ core t pa, (s.ctx (s.grid g).ctx).captures = [] → isSp pa = false →
    (s.performBuffer core g t).byte pa = (Map.get? t.cells pa).getD (s.byte pa)) ∧
  (∀ r : Range, r.step = if r.next + 1 < r.t0 + r.count then
      some { r with next := r.next + 1, ready := false, begun := r.begun.filter (fun x => x != r.next) } else none)) ∧
  ((∀ (s : State) (u n l : Nat) (w : Warp) (c : Check) (a : Access) (T : Task), Map.get? s.warps u = some w → w.kind = .warp → w.check = some c →
    s.checkReady u = true → c.lanes = [l] → c.acc = [a] → a.lane = l → Map.has w.lanes l = true → (w.lane l).helper = false → (w.lane l).task = some n →
    Map.get? (s.core w.core).tasks n = some T → s.accessTrap w c a = none →
    let pas := s.accessPas w c a
    let word := pas.headD 0 / 8 * 8
    let full : Prop := 16 < (T.merge (a.cells pas)).buf.length
    let record (t : State) : Option Task := Map.get? (t.core w.core).tasks n
    pas ≠ [] → (∀ pa ∈ pas, isSp pa = false) →
    (c.what = .st ∨ c.what = .stl → (∀ pa ∈ pas, pa / 8 * 8 = word) →
      (¬ full → ∃ t, exec (.translationCheckDone u) s = .next t.sweep ∧ t.reqs = s.reqs ∧ t.mem = s.mem ∧ t.blocks = s.blocks ∧
        (t.warp u).lane l = { (w.lane l).advance c.len with noWatch := false } ∧
        record t = some { T with buf := Map.put T.buf word ((a.cells pas).foldl (fun m x => Map.put m x.1 x.2) (Map.getD T.buf word [])) }) ∧
      (full → s.taskHead w l = false → ∃ t, exec (.translationCheckDone u) s = .next t.sweep ∧ t.reqs = s.reqs ∧ t.mem = s.mem ∧ t.blocks = s.blocks ∧
        (t.warp u).lane l = { w.lane l with place := .head } ∧ record t = some T) ∧
      (full → s.taskHead w l = true → ∃ t k y W, exec (.translationCheckDone u) s = .next t.sweep ∧ record t = some { T with buf := [], wrote := W } ∧
        (t.warp u).lane l = { (w.lane l).advance c.len with noWatch := false } ∧
        Map.get? t.reqs k = some (.store y) ∧ y.stage = .issued ∧ y.warp = u ∧ y.cells = a.cells pas ∧
        ∀ pa b, Map.get? T.cells pa = some b → ∃ j x, s.nextId ≤ j ∧ j < k ∧ Map.get? t.reqs j = some (.store x) ∧ x.stage = .issued ∧
          Map.get? x.cells pa = some b)) ∧
    (∀ d z acq sc, c.what = .ld d z ∨ c.what = .ldo d z acq sc ∨ c.what = .ldl d [] → ∃ t sig k x,
      exec (.translationCheckDone u) s = .next t.sweep ∧ t.mem = s.mem ∧ record t = some { T with sig := sig } ∧
      (∀ j < 256, sig.getLsbD j = (T.sig.getLsbD j || pas.any (fun pa =>
        let la := pa / 256
        (BitVec.ofNat 8 la ^^^ BitVec.ofNat 8 (la / 2 ^ 8) ^^^ BitVec.ofNat 8 (la / 2 ^ 16) ^^^ BitVec.ofNat 8 (la / 2 ^ 24) ^^^
          BitVec.ofNat 8 (la / 2 ^ 32)).toNat == j))) ∧
      s.nextId ≤ k ∧ Map.get? t.reqs k = some (.load x) ∧ x.warp = u ∧ x.lane = l ∧ x.pas = pas ∧ x.serve = .home ∧
      ∀ pa ∈ pas, Map.get? x.fwd pa = (Map.get? T.cells pa).map some)) ∧
  (∀ (s : State) (u : Nat) (w : Warp) (h : Lane) (d : BitVec 6) (a : RegE) (o : BitVec 9), let i := w.iss u h 2
    s.Ready u w h { srcs := [a.opd2, .regs [d.toNat, (d + 1).toNat, (d + 2).toNat, (d + 3).toNat] false], mem := true, ae := false } →
    (∃ l ∈ i.n, (w.lane l).task.isSome = true) → exec (.st d a 4 o) s = .next (s.fragTrap i 0x01 (fun _ => ⟨0x01, 0, 0⟩))) ∧
  (∀ (s : State) (u : Nat) (w : Warp) (h : Lane) (n : Need) (k : Iss → State → Eff), let i := w.iss u h n.wlen
    s.acts u w → w.busy = false → w.head = some h → (∀ j < 8, i.wait.getLsbD j = true → w.tokBusy j = false) → i.n ≠ [] →
    (n.inTask = false → (∃ l ∈ i.act, (w.lane l).task.isSome = true) → issue s n k = .next (s.fragTrap i 0x01 (fun _ => ⟨0x01, 0, 0⟩))) ∧
    (n.atHead = true → s.illegal w i n = false → (n.handler = true → i.handler = true) → s.waitingTasks w i.act ≠ [] →
      ∃ t, issue s n k = .next t ∧ State.Alike (s.lanesTo u (fun l x => if l ∈ s.waitingTasks w i.act then { x with place := .head } else x)) t)) ∧
  (∀ (s : State) (w : Warp) (ls : List Nat) (l : Nat), l ∈ s.waitingTasks w ls ↔
    l ∈ ls ∧ ∃ n, (w.lane l).task = some n ∧ ¬ ∃ T r, Map.get? (s.core w.core).tasks n = some T ∧ (s.grid (s.gridOf w)).range = some r ∧ T.stamp = r.next))

/-- R395, R396, R398, R409: a session is armed and RPBEG moves on; an enforced atomic that has waited longest is performed on the timeout;
a page whose write waits is saved; a MIGRATE that waits too long gives 0 and its warp stays. -/
def Obligations.ReplayAndMigrationEvents : Prop := ∀ (s : State) (u x line page : Nat) (w : Warp) (ls : List Nat) (len : Nat) (p : BitVec 3),
  (Map.get? s.warps u = some w → w.hold = some (.replayArm ls len) → ∃ t, exec (.replayArmed u) s = .next t ∧ State.Alike
    ((s.updCtx w.ctx (fun c => { c with session := c.session.map (fun y => { y with armed := true }) })).updWarp u (fun z => { z with
      hold := none, lanes := Map.mapV z.lanes (fun l k => if ls.contains l && !k.helper then k.advance len else k) })) t) ∧
  (Map.get? s.warps u = some w → (∀ a b, w.hold ≠ some (.replayArm a b)) → exec (.replayArmed u) s = .next s) ∧
  (∀ k a, s.enforcedWait x line = some k → Map.get? s.reqs k = some (.atom a) → ∃ t due, exec (.replayEnforceTimeout x line) s = .next t ∧
    (let run := atomRun a.aop s.byte (a.parts.drop a.performed)
     Map.get? t.reqs k = some (.atom { a with parts := a.parts.take a.performed ++ run.1, performed := a.parts.length, due := due }) ∧
     (∀ j, j ≠ k → j ≠ s.nextId → Map.get? t.reqs j = Map.get? s.reqs j) ∧ (∀ pa, t.byte pa = (s.setBytes run.2).byte pa) ∧ t.warps = s.warps ∧
     ∀ y, (s.ctx a.ctx).session = some y → ∃ z, (t.ctx a.ctx).session = some z ∧ z.mismatch = true ∧ z.mode = y.mode)) ∧
  (∀ k y, s.enforcedWait x line = some k → Map.get? s.reqs k = some (.xaddm y) → exec (.replayEnforceTimeout x line) s = .next (s.xaddmLine k y true) ∧
    ∃ z, ((s.xaddmLine k y true).ctx y.ctx).session = some z ∧ z.mismatch = true) ∧
  (s.enforcedWait x line = none → exec (.replayEnforceTimeout x line) s = .next s) ∧
  (s.pageWaits x page = true → exec (.capturePageSaved x page) s = .next (s.savePage x page)) ∧
  (s.pageWaits x page = false → exec (.capturePageSaved x page) s = .next s) ∧
  (∀ key c, (s.ctx x).captures = [(key, c)] → page ∈ c.watched → page ∉ c.copied →
    (∀ dst, c.save[c.saved.length]? = some dst → ((s.savePage x page).ctx x).captures =
      [(key, { c with saved := c.saved ++ [(page, dst)], copied := c.copied ++ [page] })]) ∧
    (c.save[c.saved.length]? = none → ((s.savePage x page).ctx x).captures = [(key, { c with copied := c.copied ++ [page], full := true })])) ∧
  (Map.get? s.warps u = some w → w.hold = some (.restante ls len p) → (s.core w.core).trace = none → ∃ t, exec (.restanteWaitTimeout u) s = .next t ∧
    State.Alike (s.updWarp u (fun z => { z with
      hold := none
      lanes := Map.mapV z.lanes (fun l k => if ls.contains l then
        (if (k.putP p false).helper then k.putP p false else (k.putP p false).advance len) else k) })) t) ∧
  (Map.get? s.warps u = some w → (∀ a b c, w.hold ≠ some (.restante a b c)) → exec (.restanteWaitTimeout u) s = .next s) ∧
  (∀ (src dst k : Nat), Memory.wf s.mem = true → isSp k = false → src < 2 ^ 32 → src ≠ dst → (s.copyPage src dst).byte k =
    if k / 65536 = dst then s.byte (src * 65536 + k % 65536) else s.byte k)

/-- R144, R146, R147: an item that can be placed goes before a later one of the pending order; new blocks go to cores that have what they
need, the blocks of a cluster group to one cluster, and each starts with its warps' lanes at the entry parcel, all registers 0 and full;
the blocks of a group start together, when none of their parcels is loading; without an enabled placement nothing changes. -/
def Obligations.BlockPlacement : Prop := ∀ (s : State) (g b : Nat) (bixs : List Nat) (cs : List (Nat × Nat)) (rect : Option (Nat × Nat × Nat)),
  let k := s.grid g
  (s.placeReady g = false → exec (.blockPlace g) s = .next s) ∧
  (s.placeReady g = true → ∀ p ∈ s.grids, k.info.prio < (s.grid p.1).info.prio → s.canPlace p.1 = false) ∧
  (s.placeReady g = true → s.pendingItem g = some (.new bixs) → s.placeFor g (.new bixs) = some (cs, rect) →
    exec (.blockPlace g) s = .next (s.placeGroup g cs rect) ∧ bixs = (List.range k.info.cluster).map (k.next + ·) ∧ cs.map (·.1) = bixs) ∧
  (s.placeFor g (.new bixs) = some (cs, rect) → ∀ p ∈ cs,
    (s.core p.2).online = true ∧ (s.core p.2).fenced = false ∧ (s.core p.2).vacating = [] ∧ s.goingOff (p.2 / 32) = false ∧
    (s.ordinary p.2).length + k.info.warps ≤ 60 ∧ s.unitsUsed p.2 + k.info.warps * (k.info.regs / 8) ≤ 512 ∧
    scratchBanks k.info.scratch k.info.exact ≤ (s.core p.2).freeScratch.length) ∧
  (s.placeFor g (.new bixs) = some (cs, rect) → k.info.cluster = 4 → ∃ cl < 64, ∀ p ∈ cs, p.2 = coreAt cl (p.1 % 4)) ∧
  (s.placeFor g (.new bixs) = some (cs, rect) → k.info.rectW ≠ 0 → ∃ r, rect = some r ∧ ∀ p ∈ cs, inRect k.info.rectW k.info.rectH r p.2 = true) ∧
  (∀ (group bix core j l : Nat), j < k.info.warps → l < 32 → (∀ q ∈ s.sccSaved, q.2.1 < s.nextId) →
    let t := s.placeNew g group (bix, core)
    let w := t.warp (s.nextId + 1 + j)
    (t.block s.nextId).grid = g ∧ (t.block s.nextId).bix = bix ∧ (t.block s.nextId).core = core ∧ (t.block s.nextId).group = group ∧
    w.kind = .warp ∧ w.block = s.nextId ∧ w.wix = j ∧ w.core = core ∧ w.ctx = k.ctx ∧
    (w.lane l).place = .frontier ∧ (w.lane l).helper = false ∧ (w.lane l).pc = BitVec.ofNat 32 (k.info.parcel * 65536) ∧
    (∀ r, (w.lane l).cell r = .zero) ∧ (w.lane l).p = 0) ∧
  (∀ c m, s.placeReady g = true → s.pendingItem g = some (.restante b) → s.placeFor g (.restante b) = some ([c], none) →
    Map.get? s.saved b = some m → exec (.blockPlace g) s = .next (s.restoreRestante b c.1 c.2 m)) ∧
  (∀ bs, s.placeReady g = true → s.pendingItem g = some (.saved bs) → s.placeFor g (.saved bs) = some (cs, rect) →
    exec (.blockPlace g) s = .next ((s.updGrid g (fun k => { k with rect := rect })).restoreGroup bs cs)) ∧
  ((s.block b).loading = some true → Map.has s.blocks b = true →
    let sibs := (s.groupBlocks (s.block b).group).filter (fun x => (s.block x).loading == some true)
    let loads (x : Nat) : Prop := (s.parcel (s.block x).core (s.ctxOfBlock x) k.info.parcel).state = 1 ∨
      ∃ q ∈ k.info.preload, (s.parcel (s.block x).core (s.ctxOfBlock x) q).state = 1
    (∀ x ∈ sibs, (s.block x).grid = g) → (∀ x ∈ sibs, k.info.parcel ≠ 0) → (∀ q ∈ k.info.preload, q ≠ 0) →
    ((∃ x ∈ sibs, loads x) → s.startBlock b = s) ∧
    (∀ e : Nat → Nat × Nat, (∀ x ∈ sibs, ¬ loads x) → (∀ x ∈ sibs, s.entrySlot (s.block x).core (s.ctxOfBlock x) k.info.parcel k.info.entry = some (e x)) →
      ∀ x ∈ sibs, ((s.startBlock b).block x).loading = none ∧ ∀ u w, Map.get? s.warps u = some w → w.kind = .warp → w.block = x →
        ∀ l, Map.has w.lanes l = true → (((s.startBlock b).warp u).lane l).pc = BitVec.ofNat 32 (k.info.parcel * 65536 + (e x).1) ∧
        (((s.startBlock b).warp u).lane l).prio = BitVec.ofNat 6 (e x).2))

/-- R148, R368, R371, R373, R374, R411: a waiting cluster group leaves for another grid, all its blocks saved, and returns once a JOIN of
it is satisfied; requests to vacate, and those to bring a die up or down, are served one after the other, in the order received; a chosen
core that has drained is left with its blocks saved; a die without blocks comes up, or is fenced, when its request is taken, and no
migrated warp moves to a die on its way down. The model's choices, of logs 63, 64, 65 and 100, are which warps count as waiting, what a
second CONTEXT_SWITCH does, how a die is left, and that a scalar control core is kept by its cluster. -/
def Obligations.BlockSwapsAndVacates : Prop := ∀ (s : State) (b x n c d : Nat) (die : Option Nat),
  (s.swapOutReady b = true → (s.blocks.map (·.1)).Nodup → ∃ t, exec (.swapOut b) s = .next t ∧ ∀ y ∈ s.groupBlocks (s.block b).group,
    Map.get? t.blocks y = none ∧ ∃ m, Map.get? t.saved y = some m ∧ m.swap = true ∧ m.block.bix = (s.block y).bix ∧ m.block.grid = (s.block y).grid) ∧
  (s.swapOutReady b = false → exec (.swapOut b) s = .next s) ∧
  (s.swapOutReady b = true → ∃ p ∈ s.grids, p.1 ≠ (s.block b).grid ∧ (s.pendingItem p.1).isSome = true ∧ s.canPlace p.1 = false) ∧
  (∀ bs cs r m, s.swapInFor b = some (bs, cs, r) → Map.get? s.saved b = some m →
    exec (.swapIn b) s = .next ((s.updGrid m.block.grid (fun k => { k with rect := r })).restoreGroup bs cs)) ∧
  (s.swapInFor b = none → exec (.swapIn b) s = .next s) ∧
  exec (.preemptRequest x n die) s = .next (s.askVacate ⟨x, n, die, false, false, false, none, false, false⟩) ∧
  ((s.ctx x).away = true → exec (.contextSwitch x) s = .next (s.updCtx x (fun c => { c with away := false }))) ∧
  ((s.ctx x).away = false → exec (.contextSwitch x) s = .next
    ((s.updCtx x (fun c => { c with away := true })).askVacate ⟨x, 0, none, false, false, true, none, false, false⟩)) ∧
  (s.vacatedReady c = true → exec (.coreVacated c) s = .next
    (((((s.leavingBlocks c).foldl (fun (x : State) y => x.saveBlock y false) s).saveScc c (s.leavingScc c)).updCore c
      (fun k => { k with vacating := [] })).coreLeft c (!(s.leavingBlocks c).isEmpty) false)) ∧
  (∀ u w, (s.blocks.all (fun q => clusterOf q.2.core != clusterOf c || s.ctxOfBlock q.1 != w.ctx)) = true →
    (s.saveScc c (some (u, w))).sccSaved = Map.put s.sccSaved (clusterOf c) (u, w.atRest) ∧
    (s.saveScc c (some (u, w))).warps = Map.del s.warps u) ∧
  (s.vacatedReady c = false → exec (.coreVacated c) s = .next s) ∧
  (let up : Vacate := ⟨0, 0, some d, false, true, false, none, false, false⟩
   let down : Vacate := ⟨0, 0, some d, true, false, false, none, false, false⟩
   (d < 8 → exec (.dieOnline d) s = .next (s.askVacate up) ∧ exec (.dieOffline d) s = .next (s.askVacate down)) ∧
   (8 ≤ d → exec (.dieOnline d) s = .next s ∧ exec (.dieOffline d) s = .next s) ∧
   (∀ v rest y, s.fw.vacates = v :: rest → v.cores.isSome = true → s.askVacate y = { s with fw := { s.fw with vacates := s.fw.vacates ++ [y] } }) ∧
   (d < 8 → s.fw.vacates = [] → (s.core (32 * d)).online = false → (s.askVacate up).fw.vacates = [] ∧
    (∀ j < 32, (s.askVacate up).core (32 * d + j) =
      { Core.fresh with fenced := (s.core (32 * d + j)).fenced, tasks := (s.core (32 * d + j)).endedTasks }) ∧
    (s.askVacate up).fw.reports = s.fw.reports ++ [(4, d, 1)] ∧ ∀ c, c / 32 ≠ d → (s.askVacate up).core c = s.core c) ∧
   (s.fw.vacates = [] → (s.core (32 * d)).online = true → s.askVacate up = s) ∧
   (s.fw.vacates = [] → (s.core (32 * d)).online = true → (∀ p ∈ s.blocks, p.2.core / 32 ≠ d) → s.askVacate down = s.fenceDie d) ∧
   (s.fw.vacates = [] → (s.core (32 * d)).online = false → (∀ p ∈ s.blocks, p.2.core / 32 ≠ d) → s.askVacate down = s)) ∧
  (∀ base ok p, s.restanteSlot base ok = some p → s.goingOff (p.1 / 32) = false ∧ (s.core p.1).online = true ∧ (s.core p.1).fenced = false) ∧
  (let t := s.askVacate ⟨x, n, die, false, false, false, none, false, false⟩
   s.fw.vacates = [] → s.blocks = [] → t.fw.vacates = [] ∧ t.fw.reports = s.fw.reports ++ [(3, x, 1)]) ∧
  (∀ j < 32, ((s.fenceDie d).core (32 * d + j)).online = false) ∧ (s.fenceDie d).fw.reports = s.fw.reports ++ [(4, d, 0)] ∧
  (∀ p ∈ (s.fenceDie d).warps, p.2.isScc = true → p.2.core / 32 ≠ d)

/-- R284, R288 to R291, R296: a chunk of a copy or gather leaves as requests, byte by byte from its sources; once they are acknowledged
the checkpoint moves past it; a trap stops the command for service or ends it; a command that has moved all its bytes posts its record,
then credits its barrier, then its token, and is gone; a command of a saved block, or of a scalar control core that is away, does none of
this and takes no place among its engine's 16. A chunk waits for the atomics that have passed the die point on bytes it reads (log 58);
its lines join those a head task has written (log 95). -/
def Obligations.CopyEvents : Prop := ∀ (s : State) (k : Nat) (c : Copy), Map.get? s.copies k = some c →
  (s.chunkReady k = false → exec (.copyChunkAcked k) s = .next s) ∧
  (c.status = none → c.fault = none → c.writes ≠ [] → s.writesAcked c.writes = true →
    exec (.copyChunkAcked k) s = .next (s.setCopy k { c with writes := [], checkpoint := c.checkpoint + 1 })) ∧
  (c.status = none → c.fault = none → c.writes = [] → s.copyRests c = false → 4096 * c.checkpoint < c.bytes → s.transferring k c = true →
    s.atomsDue c.eng (s.chunkVas c) = false →
    (∀ m, s.copyChunk c = .inl m →
      let o := ((s.touchChunk c).noteEngine c.core c.warp (m.map (·.1))).engineWrite c.cls c.core c.block c.grid c.ctx m
      (o.1 = [] → exec (.copyChunkAcked k) s = .next (o.2.setCopy k { c with checkpoint := c.checkpoint + 1 })) ∧
      (o.1 ≠ [] → exec (.copyChunkAcked k) s = .next (o.2.setCopy k { c with writes := o.1 }))) ∧
    (∀ t, s.copyChunk c = .inr t → s.engineWaits c.eng t = true → exec (.copyChunkAcked k) s = .next s) ∧
    (∀ t, s.copyChunk c = .inr t → s.engineWaits c.eng t = false → engineStatus t = none →
      exec (.copyChunkAcked k) s = .next (s.setCopy k { c with fault := some (t.cause, t.addr) })) ∧
    (∀ t x, s.copyChunk c = .inr t → s.engineWaits c.eng t = false → engineStatus t = some x →
      exec (.copyChunkAcked k) s = .next (s.setCopy k { c with status := some x }))) ∧
  (∀ m, s.copyChunk c = .inl m → ∀ p v, Map.get? m p = some v → ∃ j < min 4096 (c.bytes - 4096 * c.checkpoint),
    s.enginePlace c.eng (c.dstVa (4096 * c.checkpoint + j)) false true = .inl p ∧
    s.copyByte c (4096 * c.checkpoint + j) = .inl v) ∧
  (∀ src j, c.shape = .linear src → s.copyByte c j = match s.enginePlace c.eng (src + BitVec.ofNat 64 j) true false with
    | .inl p => .inl (s.dieByte c.core p)
    | .inr t => .inr t) ∧
  (c.writes = [] → s.copyRests c = true ∨ s.atomsDue c.eng (s.chunkVas c) = true ∨ s.transferring k c = false → s.chunkReady k = false) ∧
  (s.transferring k c = true ↔ (s.copies.filter (fun p => p.1 < k && s.queued c.core c.cls p.2 && p.2.status.isNone && p.2.fault.isNone &&
    !(p.2.moved && p.2.writes.isEmpty))).length < 16) ∧
  (∀ core cls d, s.queued core cls d = true ↔ d.core = core ∧ d.cls = cls ∧ Map.has s.saved d.block = false ∧ s.awayWarp d.warp = none) ∧
  (s.copyReady k = true → s.copyRests c = false) ∧
  (s.copyRests c = true ↔ s.resting c.block = true ∨
    (c.block = 0 ∧ (s.awayWarp c.warp ≠ none ∨ s.clusterLeaves (clusterOf c.core) c.ctx = true))) ∧
  (s.copyReady k = false → exec (.copyComplete k) s = .next s) ∧
  (s.copyReady k = true →
    let st := c.status.getD 0
    let a : State := s.postIf c.core c.record (if st = 0 then 1 else 2) c.cls st c.tag (if st = 0 then c.bytes else min c.bytes (4096 * c.checkpoint))
    let b : State := { a with copies := Map.del a.copies k }
    let d : State := (if st = 0 then b.count c.grid 0x14 c.bytes else b).countEngine c.grid [0x07, 0x08]
    let e : State := match c.bar with
      | some r => d.creditBar r (if st = 0 then some c.bytes else none)
      | none => d
    let f : State := match c.shape with
      | .tile _ _ hs hd _ _ _ _ => e.updCore c.core (fun x => (x.releaseLabel hs).releaseLabel hd)
      | _ => e
    exec (.copyComplete k) s = .next (f.tokenDone c.warp c.token).sweep)

/-- R306, R307, R311, R313, R317, R319, R320, R322: the MMA or MMV that runs makes one K-step or row, stops at a trap, or completes; a
DRAIN with no earlier command on its tile leaves the queue and then writes row by row, its absolute maximum, and completes; a MACLR at the
head empties its tile. Reads of lines that an earlier DRAIN still writes are held, until its last write of them is acknowledged; an MMV
that waits for its vectors shows no progress on either tile. -/
def Obligations.MatrixEvents : Prop := ∀ (s : State) (core k : Nat) (m : MCmd) (pre rest : List MCmd),
  let c := s.core core
  (s.kstepReady core = false → exec (.mmaKstepEnd core) s = .next s) ∧
  (mulHead [] c.mq = some (pre, m, rest) → c.mq = pre ++ m :: rest ∧ m.op.isMul = true ∧
    ∀ p ∈ pre, p.op.isMul = false ∧ ∀ t ∈ m.op.tiles, t ∉ p.op.tiles) ∧
  (mulHead [] c.mq = some (pre, m, rest) → m.over = false → s.heldByDrain m m.reads = true → s.kstepReady core = false) ∧
  (mulHead [] c.mq = some (pre, m, rest) → s.kstepReady core = true →
    (m.over = true → m.started = true →
      exec (.mmaKstepEnd core) s = .next ((s.updCore core (fun c => { c with mq := pre ++ rest })).matrixDone m)) ∧
    (m.over = true → m.started = false →
      exec (.mmaKstepEnd core) s = .next (((s.matrixFailed m).updCore core (fun c => { c with mq := pre ++ rest })).matrixDone m)) ∧
    (m.over = false → m.started = true → ∀ c' n, s.matrixStep c m = .inl (c', n) → exec (.mmaKstepEnd core) s = .next
      (((s.setCore core { c' with
        mq := pre ++ { m with row := m.row + m.op.step, bytes := m.bytes + n } :: rest }).engineTouch m.eng false m.reads true).count
        m.grid 0x15 m.op.step)) ∧
    (m.over = false → m.started = true → ∀ x, s.matrixStep c m = .inr x →
      exec (.mmaKstepEnd core) s = .next (s.setCore core { c with mq := pre ++ s.mStop m x :: rest })) ∧
    (m.over = false → m.started = false → ∀ c1 n1 c2 n2, s.matrixBegin c m = .inl (c1, n1) → s.matrixStep c1 m = .inl (c2, n2) →
      exec (.mmaKstepEnd core) s = .next (((s.setCore core { c2 with
        mq := pre ++ { m with started := true, row := m.op.first + m.op.step, bytes := m.bytes + n1 + n2 } :: rest }).engineTouch
          m.eng false m.reads true).count m.grid 0x15 m.op.step)) ∧
    (m.over = false → m.started = false → ∀ c1 n1 x, s.matrixBegin c m = .inl (c1, n1) → s.matrixStep c1 m = .inr x →
      exec (.mmaKstepEnd core) s = .next (s.setCore core { c1 with
        mq := pre ++ s.mStop { m with started := true, row := m.op.first, bytes := m.bytes + n1 } x :: rest })) ∧
    (m.over = false → m.started = false → ∀ x, s.matrixBegin c m = .inr x →
      exec (.mmaKstepEnd core) s = .next (s.setCore core { c.matrixMark m with mq := pre ++ s.mStop m x :: rest }))) ∧
  (∀ fmt w vec sc stride rows cols vt yt v load clear, m.op = .mmv fmt w vec sc stride rows cols vt yt v load clear →
    ((c.matrixMark m).tile vt).progress = 0 ∧ (yt ≠ vt → ((c.matrixMark m).tile yt).progress = 0)) ∧
  (∀ d vas x, (d ∈ s.drains.map (·.2) ∧ d.core = m.core ∨ d ∈ (s.core m.core).mq ∧ d.op.isMul = false) → d.seq < m.seq → x ∈ s.linesAt m vas →
    (d.status = none ∧ (∃ j < d.shape.1 - d.row, ∃ va ∈ d.rowVas (d.row + j), ∃ p, s.enginePlace d.eng va false false = .inl p ∧ x = p / 256) ∨
      ∃ n ∈ d.writes, ∃ y, Map.get? s.reqs n = some (.store y) ∧ y.stage = .issued ∧ x ∈ linesOf y.cells) → s.heldByDrain m vas = true) ∧
  (mulHead [] c.mq = some (pre, m, rest) → m.over = false → s.atomsDue m.eng m.reads = true → s.kstepReady core = false) ∧
  (∀ t, (s.engineWaits m.eng t = true → s.mStop m t = m) ∧
    (s.engineWaits m.eng t = false → engineStatus t = none → s.mStop m t = { m with fault := some (t.cause, t.addr) }) ∧
    (∀ x, s.engineWaits m.eng t = false → engineStatus t = some x → s.mStop m t = { m with status := some x })) ∧
  (s.drainHead core = none → exec (.drainStart core) s = .next s) ∧
  (s.drainHead core = some (pre, m, rest) → c.mq = pre ++ m :: rest ∧ (∀ p ∈ pre, ∀ t ∈ m.op.tiles, t ∉ p.op.tiles) ∧
    (∀ t ∈ m.op.tiles, s.beingRead core t = false) ∧
    exec (.drainStart core) s = .next { s.updCore core (fun c => { c with mq := pre ++ rest }) with
      drains := Map.put s.drains s.nextId { m with started := true }, nextId := s.nextId + 1 }) ∧
  (∀ t, c.mq = m :: rest → m.op = .maclr t → s.beingRead core t = false → exec (.maclrAtHead core) s = .next
    (((s.updCore core (fun c => { c.setTile t { c.tile t with kind := 0, rows := 0, cols := 0, elems := [] } with mq := rest })).freeTiles
      core).sweep)) ∧
  (∀ t, c.mq = m :: rest → m.op = .maclr t → s.beingRead core t = true → exec (.maclrAtHead core) s = .next s) ∧
  (s.drainReady k = false → exec (.drainComplete k) s = .next s) ∧
  (Map.get? s.drains k = some m → s.drainReady k = true → m.drainNext = .done →
    exec (.drainComplete k) s = .next (({ s with drains := Map.del s.drains k } : State).matrixDone m)) ∧
  (Map.get? s.drains k = some m → m.drainNext = .row → m.accumulates = true →
    s.heldByDrain m (m.rowVas m.row) = true ∨ s.atomsDue m.eng (m.rowVas m.row) = true → s.drainReady k = false) ∧
  (∀ dst stride t fmt accum absmax scale scope amax e, Map.get? s.drains k = some m →
    m.op = .drain dst stride t fmt accum absmax scale scope amax e → s.drainReady k = true → m.drainNext = .row →
    let vas := vaRange (dst + BitVec.ofNat 64 (m.row * stride)) (m.shape.2 * outNibbles fmt / 2)
    (∀ x, s.rowPlaces m vas accum = .inr x → exec (.drainComplete k) s = .next (s.setDrain k (s.mStop m x))) ∧
    (∀ ks, s.rowPlaces m vas accum = .inl ks →
      let row := drainRow m.op ((s.core m.core).tile t) m.row (if accum then ks.map (s.dieByte m.core) else []) m.amx
      let o := ((s.engineTouch m.eng false vas accum).noteEngine m.core m.warp ks).engineWrite 3 m.core m.block m.grid m.ctx
        ((ks.zip row.1).foldl (fun m p => Map.put m p.1 p.2) [])
      exec (.drainComplete k) s = .next (o.2.setDrain k { m with
        row := m.row + 1, amx := row.2, writes := m.writes ++ o.1, bytes := m.bytes + m.shape.2 * outNibbles fmt / 2 }))) ∧
  (∀ dst stride t fmt accum absmax scale scope amax e, Map.get? s.drains k = some m →
    m.op = .drain dst stride t fmt accum absmax scale scope amax e → s.drainReady k = true → m.drainNext = .amax →
    ∀ ks, s.rowPlaces m (vaRange amax 4) true = .inl ks → ∃ (a : Atom) (t : State), exec (.drainComplete k) s = .next t ∧
      let u := (s.engineTouch m.eng false [amax] false).noteEngine m.core m.warp ks
      t = (u.addReq (.atom a)).setDrain k { m with amx := none, writes := m.writes ++ [u.nextId] } ∧
      a.cls = 3 ∧ a.core = m.core ∧ a.ctx = m.ctx ∧ a.grid = m.grid ∧ a.scope = scope ∧ a.aop = 16 ∧ a.ret = none ∧
      a.parts = [⟨0, ks.headD 0, (m.amx.getD 0).setWidth 64, 0, 0⟩])

/-- R327, R330, R331, R333, R334: a PLOAD whose load has ended posts its record where one is due, then its token; a load reads its body 64
bytes at a time, each step's bytes as the die point holds them then, and ends with the status that the traps of those reads, or the body's
SHAKE256 (by FIPS 202, log entry 98), give; a load that fails ends those that share its copy; a CLOSING parcel without an occupant is
ABSENT, its generation kept, and leaves its copy to a load that shares it. R342 to R348, R350, R351: the oldest queued walk starts with
its visited map clear and its window filled; a round issues the points that are resident or have waited too long and defers the others;
what a round issued is delivered as warps or FIFO groups of 32; a refill that a fault of the set has stopped goes on before another round;
a walk with no position left, or ended, or cancelled, completes with its status. -/
def Obligations.ParcelAndWalkEvents : Prop :=
  (∀ (s : State) (core key : Nat),
  let p := Map.getD (s.core core).parcels key .absent
  (∀ w, s.pwaitReady core = some w → w.core = core ∧ exec (.parcelLoadComplete core) s = .next (
    let a : State := s.postIf core w.record 5 6 (w.status.getD 0) w.receipt w.bytes
    (({ a with pwaits := a.pwaits.erase w } : State).countEngine (a.gridOf (a.warp w.warp)) [0x07, 0x08]).tokenDone w.warp w.token)) ∧
  (s.pwaitReady core = none → s.loadReady core = some key → exec (.parcelLoadComplete core) s = .next ((s.loadParcel core key).startBlocks core)) ∧
  (s.pwaitReady core = none → s.loadReady core = none → exec (.parcelLoadComplete core) s = .next s) ∧
  (s.loadReady core = some key → key ∈ (s.core core).loads ∧ ((p.shared = true ∧ s.copyOf core key ≠ none) ∨ p.fault = none)) ∧
  (∀ i, s.parcelInfo key = some i → p.shared = false → p.got.length < 256 + 2 * i.halfwords →
    (∀ bs, s.parcelBytes core key (parcelVas i p.got.length) = .inl bs →
      bs.length = min 64 (256 + 2 * i.halfwords - p.got.length) ∧ (∀ b ∈ bs, b.2 = s.dieByte core b.1) ∧
      s.loadParcel core key = (s.llcUses (bs.map (·.1)) false).setParcel core key { p with got := p.got ++ bs.map (·.2) }) ∧
    (∀ t, s.parcelBytes core key (parcelVas i p.got.length) = .inr t →
      s.loadParcel core key = if t.cause = 0x08 then s.setParcel core key { p with fault := some t.cause }
        else s.endLoad core key (if t.cause = 0x16 then 3 else 2) p)) ∧
  (∀ i, s.parcelInfo key = some i → p.shared = false → 256 + 2 * i.halfwords ≤ p.got.length →
    (shake256 p.got = i.digest → s.loadParcel core key = s.endLoad core key 0 { p with code := codeOf p.got i.halfwords, entries := entriesOf p.got }) ∧
    (shake256 p.got ≠ i.digest → s.loadParcel core key = s.endLoad core key 5 p)) ∧
  (∀ i q, s.parcelInfo key = some i → p.shared = true → s.copyOf core key = some q →
    s.loadParcel core key = s.endLoad core key 0 { p with code := q.code, entries := q.entries }) ∧
  (∀ body n j, j < n → (codeOf body n)[j]? = some (BitVec.ofNat 16 (field body (256 + 2 * j) 2))) ∧
  (∀ (status : Nat) (q : Parcel), Map.get? ((s.endParcel core key status q).core core).parcels key =
    some (if status = 0 then { q with last := 0, got := [], state := if q.evict then 3 else 2, fault := none }
      else { q with last := status, got := [], state := 0, code := [], entries := [], pages := 0, fault := none })) ∧
  (∀ status q k2, status ≠ 0 → k2 ∈ (s.core core).loads → k2 / 65536 ≠ key / 65536 → (Map.getD (s.core core).parcels k2 .absent).shared = true →
    (s.parcelInfo k2).map (·.digest) = (s.parcelInfo key).map (·.digest) →
    ∃ x, Map.get? ((s.endLoad core key status q).core core).parcels k2 = some x ∧ x.state = 0 ∧ x.last = status ∧ x.code = []) ∧
  (∀ q, s.endLoad core key 0 q = s.endParcel core key 0 q) ∧
  (p.state = 3 → s.occupancy core (key / 65536) (key % 65536) = 0 → ∃ t, exec (.parcelBecomesAbsent core key) s = .next t ∧
    Map.get? (t.core core).parcels key = some { p with state := 0, code := [], entries := [], pages := 0, fault := none, got := [] } ∧
    ∀ k2 q i j, ((s.core core).parcels.map (·.1)).Nodup → Map.get? (s.core core).parcels k2 = some q → q.state = 1 → q.shared = true → k2 / 65536 ≠ key / 65536 →
      s.parcelInfo key = some i → s.parcelInfo k2 = some j → i.library = true → j.library = true → j.digest = i.digest →
      Map.get? (t.core core).parcels k2 = some { q with code := p.code, entries := p.entries }) ∧
  (p.state ≠ 3 ∨ s.occupancy core (key / 65536) (key % 65536) ≠ 0 → exec (.parcelBecomesAbsent core key) s = .next s)) ∧
  (∀ (s : State) (core k : Nat) (w : Walk),
  (s.walkStartable core k = false → exec (.walkStart core k) s = .next s) ∧
  ((Map.get? (s.core core).walks k).bind (·.val) = some w → s.walkStartable core k = true →
    (w.cancel ≠ 0 → exec (.walkStart core k) s = .next (s.walkDone core k w.cancel w)) ∧
    (w.cancel = 0 → w.spawn = true → exec (.walkStart core k) s = .next (
      let a : State := ((List.range w.n).foldl (fun (s : State) i => s.mapBit w i false) s).observeTick
      a.refill core k { w with state := 1 })) ∧
    (w.cancel = 0 → w.spawn = false → exec (.walkStart core k) s = .next (
      let a : State := ((List.range w.n).foldl (fun (s : State) i => s.mapBit w i false) s).observeTick
      let x := (a.core core).bankOf w.fifo
      (a.updCore core (fun c => c.setBank w.fifo { x with producers := x.producers + 1 })).refill core k { w with state := 1 }))) ∧
  (w.set = 0 → let v := s.fillWindow core w.window w
    let new := min (w.window - w.win.length) (w.n - w.nextPos)
    v.win = w.win ++ (List.range new).map (fun j => (w.nextPos + j, w.nextPos + j, 0, s.tick.toNat)) ∧ v.nextPos = w.nextPos + new ∧
    v.fault = w.fault ∧ v.status = w.status ∧ v.out = w.out ∧ v.issued = w.issued) ∧
  (w.set ≠ 0 → w.win.length < w.window → w.nextPos < w.n → let v := s.fillWindow core w.window w
    (∀ t, s.pointOf core w w.nextPos = .inr t → engineStatus t = none → v = { w with fault := some (t.cause, t.addr) }) ∧
    (∀ t x, s.pointOf core w w.nextPos = .inr t → engineStatus t = some x → v = { w with status := x }) ∧
    (∀ q, s.pointOf core w w.nextPos = .inl q → v.win[w.win.length]? = some (w.nextPos, q, 0, s.tick.toNat))) ∧
  (s.roundReady core = false → exec (.walkRoundEnd core) s = .next s) ∧
  ((s.core core).running = some (k, w) → w.out = [] → w.over = false → w.fault ≠ none ∨ s.resting w.block = true ∨ s.setDue core w = true →
    s.roundReady core = false) ∧
  ((s.core core).running = some (k, w) → s.roundReady core = true →
    (w.out ≠ [] → exec (.walkRoundEnd core) s = .next (s.walkDeliver core k w)) ∧
    (w.out = [] → w.over = true → exec (.walkRoundEnd core) s = .next (s.walkDone core k w.ends w)) ∧
    (w.out = [] → w.over = false → s.walkAlive w = false →
      exec (.walkRoundEnd core) s = .next (s.setWalk core k { w with status := if w.cancel ≠ 0 then w.cancel else 5 })) ∧
    (w.out = [] → w.over = false → s.walkAlive w = true → w.win.length < w.window → w.nextPos < w.n →
      exec (.walkRoundEnd core) s = .next (s.refill core k w)) ∧
    (w.out = [] → w.over = false → s.walkAlive w = true → w.window ≤ w.win.length ∨ w.n ≤ w.nextPos →
      exec (.walkRoundEnd core) s = .next (s.walkRound core k w))) ∧
  (w.over = true ↔ w.ends ≠ 0 ∨ w.n ≤ w.issued) ∧ (w.status ≠ 0 → w.ends = w.status) ∧
  (w.status = 0 → w.win.length < w.window → w.nextPos < w.n → w.ends = w.cancel) ∧
  (w.status = 0 → w.window ≤ w.win.length ∨ w.n ≤ w.nextPos → w.ends = 0) ∧
  (Map.get? (s.core core).walks k ≠ none → let a := s.observeTick
    let goes (p : Nat × Nat × Nat × Nat) : Bool :=
      a.resident core w p.2.1 || decide (w.bound ≤ p.2.2.1) || (decide (w.limit ≠ 0) && decide (w.limit ≤ a.tick.toNat - p.2.2.2))
    let stay := (w.win.filter (fun p => !goes p)).map (fun p => (p.1, p.2.1, p.2.2.1 + 1, p.2.2.2))
    ∃ v, (Map.get? ((s.walkRound core k w).core core).walks k).bind (·.val) = some v ∧
      v.out = (w.win.filter goes).map (fun p => (p.1, p.2.1, p.2.2.1)) ∧ v.issued = w.issued + (w.win.filter goes).length ∧
      v.win.take stay.length = stay ∧ (w.cancel ≠ 0 → v.win = stay ∧ v.status = w.cancel)) ∧
  (w.spawn = true → s.walkAlive w = true → w.out ≠ [] → Map.get? (s.core core).walks k ≠ none →
    let t := s.walkDeliver core k w
    (∀ j x, (w.out.take 32)[j]? = some x → ((t.warp s.nextId).lane j).pc = w.entry ∧ ((t.warp s.nextId).lane j).val 0 = BitVec.ofNat 32 x.2.1 ∧
      ((t.warp s.nextId).lane j).val 2 = BitVec.ofNat 32 x.1 ∧ ((t.warp s.nextId).lane j).val 3 = BitVec.ofNat 32 x.2.2) ∧
    (t.warp s.nextId).block = w.block ∧ (t.warp s.nextId).walked = true ∧
    ((Map.get? (t.core core).walks k).bind (·.val)) = some { w with out := w.out.drop 32 }) ∧
  (w.spawn = false → s.walkAlive w = true → s.walkFifo core w = true → Map.get? (s.core core).walks k ≠ none →
    let x := (s.core core).bankOf w.fifo
    let t := s.walkDeliver core k w
    ((t.core core).bankOf w.fifo).fifo = x.fifo ++ [(List.range 32).map (fun j =>
      match (w.out.take 32)[j]? with | some p => BitVec.ofNat 32 p.2.1 | none => 0xFFFFFFFF)]) ∧
  (∀ c, (w.cancelled c).cancel = (if w.cancel = 0 then c else w.cancel) ∧ (w.cancelled c).out = w.out ∧ (w.cancelled c).win = w.win))

/-- R290, R301, R313, R331, R335, R350, R362, R367, R371, R380: a fault that has been served lets its engine try again, one that cannot be
ends the command with the status of its cause, in a saved block's image too; a suspended lane resumes as by RETT, at the address that the
firmware has written where it has, or ends with its grid. The reply to a PARCEL_ABSENT handler follows the receipt of its own PLOAD (log
70): a receipt without a generation asks for quota pages, any other for the load that it names. -/
def Obligations.ServiceReplies : Prop := ∀ (s : State) (k u : Nat) (m : Word) (st d : BitVec 16) (cause : Nat) (a : Dword) (pcs : List (Nat × Word)),
  (∀ c, Map.get? s.copies k = some c → c.fault = some (cause, a) → exec (.engineFaultServiceReply (.copy k) true) s =
    .next (s.setCopy k { c with fault := none })) ∧
  (∀ c, Map.get? s.copies k = some c → c.fault = some (cause, a) → ∃ t, exec (.engineFaultServiceReply (.copy k) false) s = .next t ∧
    Map.get? t.copies k = some { c with fault := none, status := some (if cause = 0x08 then 1 else 2) }) ∧
  (∀ c ok, Map.get? s.copies k = some c → c.fault = none → exec (.engineFaultServiceReply (.copy k) ok) s = .next s) ∧
  (∀ (x : MCmd), x.fault = some (cause, a) → x.reply true = { x with fault := none } ∧
    x.reply false = { x with fault := none, status := some (x.status.getD (faultStatus cause)) }) ∧
  (∀ x ok, Map.get? s.drains k = some x → ∃ t, exec (.engineFaultServiceReply (.drain k) ok) s = .next t ∧ Map.get? t.drains k = some (x.reply ok)) ∧
  (∀ pre x r ok, mulHead [] (s.core k).mq = some (pre, x, r) → ∃ t, exec (.engineFaultServiceReply (.matrix k) ok) s = .next t ∧
    (t.core k).mq = pre ++ x.reply ok :: r) ∧
  (∀ j w, (s.core k).running = some (j, w) → w.fault = some (cause, a) → exec (.engineFaultServiceReply (.walker k) true) s =
    .next (s.setWalk k j { w with fault := none })) ∧
  (∀ j w, (s.core k).running = some (j, w) → w.fault = some (cause, a) → exec (.engineFaultServiceReply (.walker k) false) s =
    .next (s.setWalk k j { w with fault := none, status := faultStatus cause })) ∧
  (∀ key, (s.core k).loads.find? (fun q => (Map.getD (s.core k).parcels q .absent).fault.isSome) = some key →
    let p := Map.getD (s.core k).parcels key .absent
    exec (.engineFaultServiceReply (.parcel k) true) s = .next (s.setParcel k key { p with fault := none, got := [] }) ∧
    exec (.engineFaultServiceReply (.parcel k) false) s = .next ((s.endLoad k key 1 p).startBlocks k)) ∧
  (∀ v c, s.aeOf k = some v → (s.warp v).check = some c → c.fault = some cause →
    exec (.engineFaultServiceReply (.address k) false) s = .next ((s.aeEnd v (0x100 + cause)).sweep) ∧
    exec (.engineFaultServiceReply (.address k) true) s = .next ((s.updWarp v (fun w => { w with
      check := some { c with fault := none, xlat := [], bad := [] } })).startWalks v)) ∧
  (∀ (b n : Nat) (g : Image) ok, Map.get? s.saved b = some g →
    (∃ t g', exec (.engineFaultServiceReply (.savedMatrix b n) ok) s = .next t ∧ Map.get? t.saved b = some g' ∧
      ∀ j, g'.mq[j]? = if j = n then (g.mq[j]?).map (fun x => x.reply ok) else g.mq[j]?) ∧
    (∃ t g', exec (.engineFaultServiceReply (.savedWalk b) ok) s = .next t ∧ Map.get? t.saved b = some g' ∧
      ∀ j w, (Map.get? g.walks j).bind (·.val) = some w → (Map.get? g'.walks j).bind (·.val) = some (w.reply ok)) ∧
    (∃ t g', exec (.engineFaultServiceReply (.savedAddress b) ok) s = .next t ∧ Map.get? t.saved b = some g' ∧
      ∀ v w, Map.get? g.warps v = some w → Map.get? g'.warps v = some (w.replyAway ok))) ∧
  (∀ w, Map.get? s.warps u = some w → exec (.tsvcReplyResume u ⟨m, pcs⟩) s =
    .next ((s.replied w m .resume).foldl (fun (x : State) l => x.leaveHandler u l)
      ((s.serveQuota w (s.replied w m .resume)).updWarp u (fun w => w.resumeLanes (s.replied w m .resume) pcs)))) ∧
  (∀ w, Map.get? s.warps u = none → s.awayWarp u = some w → exec (.tsvcReplyResume u ⟨m, pcs⟩) s =
    .next (s.updAway u (fun x => x.resumeLanes (s.replied w m .resume) pcs))) ∧
  (∀ (w : Warp) ls l x, Map.get? w.lanes l = some x → Map.get? (w.resumeLanes ls pcs).lanes l = some (
    let y : Lane := match pcs.find? (fun q => q.1 == l) with | some q => { x with resumePc := q.2, resumePast := false } | none => x
    if ls.contains l then { y with
      pc := y.resumePc, past := y.resumePast, prio := y.resumePrio, frag := if y.resumePrio = 63 then y.frag else 0, place := .frontier
      noWatch := y.tcause == 0x14 && y.resumePc == y.tpc }
    else x)) ∧
  (∀ w, Map.get? s.warps u = some w → w.kind = .warp → s.replied w m (.finish st.toNat d.toNat) ≠ [] →
    exec (.tsvcReplyEnd u m st d) s =
      .next (((s.endLanes u (s.replied w m (.finish st.toNat d.toNat))).kill (s.gridOf w) st.toNat d.toNat).sweep)) ∧
  (∀ w c, Map.get? s.warps u = some w → w.kind = .scc c → s.replied w m (.finish st.toNat d.toNat) ≠ [] →
    exec (.tsvcReplyEnd u m st d) s = .next (s.haltScc u c)) ∧
  (∀ w, Map.get? s.warps u = some w → s.replied w m (.finish st.toNat d.toNat) = [] → exec (.tsvcReplyEnd u m st d) s = .next s) ∧
  (∀ w g, Map.get? s.warps u = none → s.awayWarp u = some w → w.kind = .warp → Map.get? s.saved w.block = some g →
    s.replied w m (.finish st.toNat d.toNat) ≠ [] → exec (.tsvcReplyEnd u m st d) s = .next (s.kill g.block.grid st.toNat d.toNat)) ∧
  (∀ w (x : Lane), x.place = .tsvc → x.tcause = 0x08 → s.mayReply w x (.finish 5 0) = false) ∧
  (∀ (w : Warp) (x : Lane), x.tcause = 0x06 → let key := parcelKey w.ctx (x.tinfo.toNat / 65536)
    (x.asked = none → s.fixedReply w x = some .resume) ∧
    (∀ r, x.asked = some r → r.toNat % 65536 = 0 →
      (s.fitsSoon w.core key = true ∨ s.idleParcels w.core w.ctx ≠ [] → s.fixedReply w x = some .resume) ∧
      (s.fitsSoon w.core key = false → s.idleParcels w.core w.ctx = [] → s.fixedReply w x = some (.finish 9 6))) ∧
    (∀ r st id, x.asked = some r → r.toNat % 65536 ≠ 0 → id = (w.core * 2 ^ 24 + key) * 65536 + r.toNat % 65536 →
      (s.fw.reports.filter (fun y => y.1 == 2 && y.2.1 == id)).getLast? = some (2, id, st) →
      s.fixedReply w x = some (if st = 0 then .resume else .finish 9 st)))

/-- R383 to R387: a comparator breakpoint that is due traps where the instruction sent its lanes; a parked warp goes on, as the debugger
has written it, when resumed; a debug session is attached; a stop is taken for a tick not past, and then the clocks stand there until the
tool lets them go at the next; watchpoint ranges and trace rings are set. The model's choices: a stop for a past tick is refused with a
report of kind 8 (logs 78, 77), clocks that stand take nothing but the release (log 78), the debugger's writes come with the resume (log
67), and which lanes a breakpoint takes (log 69). R387 to R389: the records of a core's trace. A record is 16 bytes; it lies at the ring's
offset, which wraps; one that finds no room is counted, and the next one written is preceded by a LOST record with the count (which find
none is free: log 7; where the loss is told: log 67). An issue adds a sync group where one is due, an ISSUE record unless the warp goes on
from where its last instruction left it, a BRANCH record for a BRC, and for a transfer through a register a TARGET record for each of its
targets. R387, R388: what a step appends to the ring of a traced core. Every instruction that issues there adds its records, and has its
own effect besides: NOP an ISSUE record where the warp comes from elsewhere, and none where it goes on; a BRC with the lanes that take it;
a JMPR its target. -/
def Obligations.DebugEvents : Prop :=
  (∀ (s : State) (u x c n k : Nat) (t base limit : BitVec 64) (ring : BitVec 48)
    (ws : List DebugWrite),
  (∀ w pc ls, Map.get? s.warps u = some w → w.bp = some (pc, ls) → w.check = none → w.held = false →
    let a : State := s.updWarp u (fun w => { w with bp := none })
    let on := ls.filter (fun l => (w.lane l).breaks)
    ((∀ l ∈ on, (w.lane l).helper = true) → exec (.comparatorBreakpoint u) s = .next a) ∧
    (∀ l ∈ on, (w.lane l).helper = false →
      exec (.comparatorBreakpoint u) s = .next (a.takeTrap u false on 0x13 (fun _ => ⟨0x13, 0, 0⟩) pc (fun k => ⟨k.pc, k.prio, k.past⟩)))) ∧
  (∀ y : Lane, y.breaks = true ↔ y.place ≠ .ended ∧ (y.helper = true ∨ (y.place ≠ .head ∧ ∀ b, y.place ≠ .slot b))) ∧
  ((s.warp u).bp = none → exec (.comparatorBreakpoint u) s = .next s) ∧
  (∀ w, Map.get? s.warps u = some w → (∀ p ∈ w.lanes, p.2.task = none) → exec (.debugResume ⟨u, ws⟩) s = .next (s.updWarp u (fun w => w.debugGo ws))) ∧
  (Map.get? s.warps u = none → exec (.debugResume ⟨u, ws⟩) s = .next (s.updAway u (fun w => w.debugGo ws))) ∧
  (∀ w : Warp, w.parked = false → w.debugGo ws = w) ∧
  (∀ (w : Warp) (l : Nat) (y : Lane), w.parked = true → Map.get? w.lanes l = some y → Map.get? (w.debugGo ws).lanes l =
    some (let z := ws.foldl (fun k d => k.debugWrite l d) y
      if z.place = .debug then { z with place := .frontier } else z)) ∧
  (∀ (y : Lane) (l : Nat) (r : BitVec 6) (p : BitVec 3) (v : Word), y.debugWrite l (.reg l r v) = y.put r.toNat v ∧
    y.debugWrite l (.pred l p true) = y.putP p true ∧ (y.debugWrite l (.resume l v)).pc = v ∧
    (∀ j, j ≠ l → y.debugWrite l (.reg j r v) = y ∧ y.debugWrite l (.resume j v) = y)) ∧
  (x < 256 → ∃ r, exec (.debugSessionAttach x) s = .next r ∧ (r.ctx x).debug = true) ∧
  (256 ≤ x → exec (.debugSessionAttach x) s = .next s) ∧
  (s.tick ≤ t → s.fw.stopped = false → exec (.debugStopRequest t) s = .next { s with fw := { s.fw with stopAt := some t } }) ∧
  (t < s.tick → ∃ r, exec (.debugStopRequest t) s = .next r ∧ r.fw.stopAt = s.fw.stopAt ∧ r.fw.reports = s.fw.reports ++ [(8, t.toNat, 0)]) ∧
  (s.fw.stopAt = some t → s.tick ≤ t → s.fw.stopped = false → exec .clockStop s = .next { s with tick := t, fw := { s.fw with stopped := true } }) ∧
  (s.fw.stopAt = none → exec .clockStop s = .next s) ∧
  (s.fw.stopped = true → exec .debugStopRelease s = .next { s with tick := s.tick + 1, fw := { s.fw with stopped := false, stopAt := none } }) ∧
  (s.fw.stopped = false → exec .debugStopRelease s = .next s) ∧
  (s.fw.stopped = true → .debugStopRelease ∉ s.inputs → step s = settled (.next s)) ∧
  (n < 16 → base.toNat % 64 = 0 → limit.toNat % 64 = 0 → (s.core c).online = true → ∃ r, exec (.watchpointRangeWrite c n base limit) s = .next r ∧
    Map.get? (r.core c).watches n = some { (s.core c).watch n with base := base, limit := limit }) ∧
  (16 ≤ n ∨ base.toNat % 64 ≠ 0 ∨ limit.toNat % 64 ≠ 0 → exec (.watchpointRangeWrite c n base limit) s = .next s) ∧
  ((s.core c).online = true → ring.toNat % 4096 = 0 → k ≤ 16 → s.mappable ring.toNat = true → s.mappable (ring.toNat + 4096 * 2 ^ k - 1) = true →
    ∃ r, exec (.traceRingConfig c (some (ring, k))) s = .next r ∧ (r.core c).trace = some ⟨ring.toNat, 4096 * 2 ^ k, 0, 0⟩ ∧
      ∀ v w, Map.get? s.warps v = some w → w.core = c → (r.warp v).lastSync = none) ∧
  ((s.core c).online = true → ∃ r, exec (.traceRingConfig c none) s = .next r ∧ (r.core c).trace = none)) ∧
  (∀ (s : State) (u core : Nat) (w : Warp) (T : Trace) (r : TraceRec) (since : Word) (body : List TraceRec) (pc : Word)
    (prio : BitVec 6) (frag : List Nat) (kind : Nat) (dests : List (Nat × Word)),
  (r.bytes.length = 16 ∧ field r.bytes 0 1 = r.kind % 256 ∧ field r.bytes 1 1 = r.slot % 256 ∧ field r.bytes 2 1 = r.prio % 256 ∧
    field r.bytes 3 1 = 0 ∧ field r.bytes 4 4 = r.mask.toNat ∧ field r.bytes 8 4 = r.addr.toNat ∧ field r.bytes 12 4 = r.delta.toNat) ∧
  (T.base + T.at_ + 16 ≤ 2 ^ 48 → let t := s.traceAt core T 0 r
    (∀ j < 16, t.byte (T.base + T.at_ + j) = r.bytes.getD j 0) ∧ (∀ p, p < T.base + T.at_ ∨ T.base + T.at_ + 16 ≤ p → t.byte p = s.byte p) ∧
    (t.core core).trace = some { T with at_ := (T.at_ + 16) % T.size, lost := 0 }) ∧
  ((s.core core).trace = none → s.traceOut core since r = s) ∧
  ((s.core core).trace = some T →
    (s.freeWord.getLsbD 0 = true → ∃ t, s.traceOut core since r = t ∧ t.mem = s.mem ∧ (t.core core).trace = some { T with lost := T.lost + 1 }) ∧
    (s.freeWord.getLsbD 0 = false → T.lost = 0 → s.traceOut core since r = s.useFree.traceAt core T 0 r) ∧
    (s.freeWord.getLsbD 0 = false → T.lost ≠ 0 → s.traceOut core since r = (s.useFree.traceAt core T 0
      { r with kind := 15, prio := 0, mask := BitVec.ofNat 32 T.lost, addr := (s.tickOn core).setWidth 32, delta := since }).traceAt core
        { T with at_ := (T.at_ + 16) % T.size, lost := 0 } 0 r)) ∧
  (w.kind = .warp → (s.core w.core).trace ≠ none →
    let a := s.observeTick
    let now := (a.tickOn w.core).toNat
    let due : Prop := ∀ t, w.lastSync = some t → t + 4096 ≤ now
    let recs (d : Word) : List TraceRec :=
      (if w.seq = some (pc, prio) then [] else [⟨1, w.slot, prio.toNat, maskOf (frag.filter (fun l => !(w.lane l).helper)), pc, d⟩]) ++
      (if kind = 0 then [] else if kind = 2 then [⟨2, w.slot, prio.toNat, maskOf (dests.map (·.1)), pc, d⟩]
        else ((dests.map (·.2)).eraseDups).map (fun t => ⟨kind, w.slot, prio.toNat, maskOf ((dests.filter (fun p => p.2 == t)).map (·.1)), t, d⟩))
    (∀ t, w.lastSync = some t → ¬ due → s.traceIssue u w body pc prio frag kind dests =
      (recs (BitVec.ofNat 32 (now - t))).foldl (fun x r => x.traceOut w.core (BitVec.ofNat 32 (now - t)) r) a) ∧
    (due → s.traceIssue u w body pc prio frag kind dests = (recs 0).foldl (fun x r => x.traceOut w.core 0 r)
      ((body.foldl (fun x r => x.traceOut w.core 0 r) (a.traceOut w.core (match w.lastSync with | some t => BitVec.ofNat 32 (now - t) | none => 0)
        ⟨3, w.slot, 0, BitVec.ofNat 32 body.length, BitVec.ofNat 32 now, BitVec.ofNat 32 (now / 2 ^ 32)⟩)).updWarp u
          (fun x => { x with lastSync := some now })))) ∧
  (let b := s.syncBody w
   b.head? = some ⟨9, w.slot, 0, BitVec.ofNat 32 (s.block w.block).bix, BitVec.ofNat 32 w.wix, BitVec.ofNat 32 w.ctx⟩ ∧
   (∀ x ∈ b, x.kind = 9 ∨ x.kind = 4 ∨ x.kind = 5 ∨ x.kind = 6 ∨ x.kind = 7) ∧
   (∀ l k, l < 32 → Map.get? w.lanes l = some k → k.ready = true →
    ∃ x ∈ b, x.kind = 4 ∧ x.mask.getLsbD l = true ∧ x.addr = k.pc ∧ x.prio = k.prio.toNat) ∧
   (∀ l k, l < 32 → Map.get? w.lanes l = some k → k.alive = true → k.ready = false →
    ∃ x ∈ b, x.kind = 6 ∧ x.mask.getLsbD l = true ∧ x.addr = k.pc ∧ x.prio = k.prio.toNat) ∧
   (∀ j < 8, w.joinE j ≠ 0 ∨ w.joinParked j ≠ 0 → ⟨5, w.slot, j, w.joinE j, w.joinParked j, 0⟩ ∈ b) ∧
   (∀ p ∈ (s.core w.core).parcels, p.1 / 65536 = w.ctx → p.2.state ≠ 0 → ∃ x ∈ b, x.kind = 7 ∧ x.prio = p.2.state ∧
    x.addr = BitVec.ofNat 32 (p.1 % 65536 * 65536 + p.2.gen % 65536)))) ∧
  (let calm (s : State) (w : Warp) (T : Trace) (t0 : Nat) : Prop := (s.core w.core).trace = some T ∧ T.lost = 0 ∧ w.kind = .warp ∧ w.lastSync = some t0 ∧
    (s.observeTick.tickOn w.core).toNat < t0 + 4096 ∧ T.base + T.at_ + 16 ≤ 2 ^ 48
  let delta (s : State) (w : Warp) (t0 : Nat) : Word := BitVec.ofNat 32 ((s.observeTick.tickOn w.core).toNat - t0)
  let wrote (s t : State) (w : Warp) (T : Trace) (r : TraceRec) : Prop :=
    if s.observeTick.freeWord.getLsbD 0 = true then (∀ p, t.byte p = s.byte p) ∧ (t.core w.core).trace = some { T with lost := 1 }
    else (∀ j < 16, t.byte (T.base + T.at_ + j) = r.bytes.getD j 0) ∧
      (∀ p, p < T.base + T.at_ ∨ T.base + T.at_ + 16 ≤ p → t.byte p = s.byte p) ∧
      (t.core w.core).trace = some { T with at_ := (T.at_ + 16) % T.size }
  (∀ (s : State) (u : Nat) (w : Warp) (h : Lane) (n : Need) (k : Iss → State → Eff) (t : State), s.Prepared u w h n → k (w.iss u h n.wlen) s = .ok t →
    issue s n k = .next ((t.traced s w (w.iss u h n.wlen) n).issued w (w.iss u h n.wlen) n)) ∧
  (∀ (s : State) (u : Nat) (w : Warp) (h : Lane) (T : Trace) (t0 : Nat), s.Prepared u w h { lpb := 0, wlen := 1 } → calm s w T t0 →
    let i := w.iss u h 1
    (w.seq ≠ some (i.pc, i.prio) → ∃ t, exec .nop s = .next t ∧
      wrote s t w T ⟨1, w.slot, i.prio.toNat, maskOf (i.frag.filter (fun l => !(w.lane l).helper)), i.pc, delta s w t0⟩) ∧
    (w.seq = some (i.pc, i.prio) → ∃ t, exec .nop s = .next t ∧ (∀ p, t.byte p = s.byte p) ∧ (t.core w.core).trace = some T)) ∧
  (∀ (s : State) (u : Nat) (w : Warp) (h : Lane) (T : Trace) (t0 : Nat) (o : BitVec 14) (p : BitVec 6) (neg : Bool) (c : BitVec 3),
    s.Prepared u w h { lpb := 0, prio := p, jump := 2, branch := true, sent := fun k => if k.pred c != neg then some 0 else none } → calm s w T t0 →
    let i := w.iss u h 2
    let dst : Int := ((i.pc.toNat % 65536 + (i.len - 2) : Nat) : Int) + o.toInt
    w.seq = some (i.pc, i.prio) → 0 ≤ dst → dst < (s.parcel w.core w.ctx (i.pc.toNat / 65536)).length →
    ∃ t, exec (.brc o p neg c) s = .next t ∧
      wrote s t w T ⟨2, w.slot, i.prio.toNat, maskOf (i.n.filter (fun l => (w.lane l).pred c != neg)), i.pc, delta s w t0⟩) ∧
  (∀ (s : State) (u : Nat) (w : Warp) (h : Lane) (T : Trace) (t0 : Nat) (a : RegE) (p : BitVec 6) (x : Word),
    s.Prepared u w h { srcs := [a.opd], lpb := 0, prio := p, jump := 8, branch := true, sent := fun k => some (k.val a.r.toNat) } → calm s w T t0 →
    let i := w.iss u h 2
    w.seq = some (i.pc, i.prio) → (∀ l ∈ i.n, (w.lane l).val a.r.toNat = x) → x.toNat / 65536 = i.pc.toNat / 65536 →
    x.toNat % 65536 < (s.parcel w.core w.ctx (x.toNat / 65536)).length →
    ∃ t, exec (.jmpr a p) s = .next t ∧ wrote s t w T ⟨8, w.slot, i.prio.toNat, maskOf i.n, x, delta s w t0⟩))

/-- R11, R373, R375, R376, R412: a failed core is fenced, or one of its die's four spares takes its place, and every grid with a block on
it ends with status 3; a line, slice or page that is lost ends the contexts that map it; a corrected error is counted; a failed peer loses
what is under way to it; the firmware starts a scalar control core that does not run. The model's choices: what a corrected error leaves,
which contexts a lost unit ends (log 66), a scalar control core without a grid runs in context 0 (log 16), a restart while it runs is
ignored (log 78), registers start at 0 (logs 9, 10). -/
def Obligations.ErrorEvents : Prop := ∀ (s : State) (c i : Nat) (pa : BitVec 48) (ls : List Nat) (entry : BitVec 32) (g : Option Nat),
  ((s.core c).online = true → (s.core c).fenced = false → exec (.uncorrectableError (.core c)) s = .next (s.fenceCore c)) ∧
  ((s.core c).online = false ∨ (s.core c).fenced = true → exec (.uncorrectableError (.core c)) s = .next s) ∧
  (s.fw.vacates = [] → s.coreBlocks c = [] → (s.blocks.map (·.1)).Nodup → (s.warps.map (·.1)).Nodup →
    let n := Map.getD s.fw.spares (c / 32) 0
    let t := s.fenceCore c
    (4 ≤ n → (t.core c).fenced = true) ∧
    (n < 4 → { t.core c with tasks := [] } = { Core.fresh with tasks := [] } ∧ Map.get? t.fw.spares (c / 32) = some (n + 1))) ∧
  (s.namesOk → (s.blocks.map (·.1)).Nodup → (s.warps.map (·.1)).Nodup → ∀ b k G, Map.get? s.blocks b = some k → k.core = c → Map.get? s.grids k.grid = some G → G.ended = false → G.status = none → s.liveWarps b ≠ [] →
    (∀ G', Map.get? (s.fenceCore c).grids k.grid = some G' → G'.status = some (3, 0)) ∧
    ∀ u w, Map.get? s.warps u = some w → w.kind = .warp → w.block = b → ∀ w', Map.get? (s.fenceCore c).warps u = some w' → w'.live = false) ∧
  ((s.warps.map (·.1)).Nodup → ∀ x u w j, Map.get? s.warps u = some w → w.kind = .scc j → w.ctx = x → w.live = true →
    ((s.endContext x).warp u).live = false ∧ j ∈ (s.endContext x).sccHalted) ∧
  (let p := s.localPa pa.toNat / 65536
   let a : State := { s with fw := { s.fw with retired := s.fw.retired ++ [p] } }
   exec (.uncorrectableError (.page pa)) s = .next (((a.mappers (p * 65536) 65536).foldl State.endContext a).cancelContained)) ∧
  (let l := s.localPa pa.toNat / 256
   let a : State := { s with fw := { s.fw with fencedWays := s.fw.fencedWays ++ [(homeSlice (l * 256), l)], lostLines := s.fw.lostLines ++ [l] } }
   exec (.uncorrectableError (.line pa)) s = .next (((a.mappers (l * 256) 256).foldl State.endContext a).cancelContained)) ∧
  (let a : State := { s with fw := { s.fw with fencedSlices := s.fw.fencedSlices ++ [c], lostLines := s.fw.lostLines ++ ls } }
   exec (.uncorrectableError (.slice c ls)) s =
     .next (ls.foldl (fun (s : State) l => (s.mappers (l * 256) 256).foldl State.endContext s) a).cancelContained) ∧
  exec .softErrorCorrected s = .next { s with fw := { s.fw with corrected := s.fw.corrected + 1 } } ∧
  (256 ≤ i ∨ i ∈ s.fw.failedPeers → exec (.peerFailure i) s = .next s) ∧
  (i < 256 → i ∉ s.fw.failedPeers → exec (.peerFailure i) s = .next (
    let a : State := { s with fw := { s.fw with failedPeers := s.fw.failedPeers ++ [i] } }
    let b : State := ((a.mappers (2 ^ 47 + i * 2 ^ 39) (2 ^ 39)).foldl State.endContext a).cancelContained
    (b.dropReqs (fun y => y.lostWith i)).sweep)) ∧
  (∀ f, (s.dropReqs f).reqs = s.reqs.filter (fun p => !(f p.2)) ∧ (s.dropReqs f).mem = s.mem ∧ (s.dropReqs f).grids = s.grids) ∧
  (∀ y : Req, y.lostWith i = true ↔ (∃ p ∈ y.pas, isRelay p = true ∧ peerOf p = i) ∧
    ((∃ t, y = .store t ∧ t.stage ≠ .acked) ∨ ∃ z, y = .xaddm z)) ∧
  (s.sccReady c g = true → ∃ t, exec (.sccRestart c entry g) s = .next t ∧ (t.warp s.nextId).kind = .scc c ∧
    ((t.warp s.nextId).lane 0).pc = entry ∧ ((t.warp s.nextId).lane 0).place = .frontier ∧ (∀ r, ((t.warp s.nextId).lane 0).cell r = .zero) ∧
    (t.warp s.nextId).core = coreAt c 0 ∧ (t.warp s.nextId).ctx = (match g with | some g => (s.grid g).ctx | none => 0) ∧
    c ∉ t.sccHalted ∧ Map.get? t.sccGrid c = g) ∧
  (s.sccReady c g = false → exec (.sccRestart c entry g) s = .next s)

/-- R405 to R407, R422: a queue is set up where nothing taken is left; a reset lets a stopped one go on; an aligned 8-byte doorbell write
gives its write index, and any other is reported; the packet whose turn it is is taken: a malformed one stops its queue, a LAUNCH becomes
a pending seed group, a WAIT_SIGNAL watches its signal until it is met, a SET_SIGNAL writes or adds and is done. The model's choices: a
bad doorbell write is reported with kind 9 (log 77), a malformed packet counts as taken (log 75), a signal with an error value stops its
queue (log 68), and a refused setup changes nothing (log 10). -/
def Obligations.QueueEvents : Prop := ∀ (s : State) (q k x prio weight off size i : Nat) (base : BitVec 48) (v : BitVec 64),
  (q < 1024 → base.toNat % 4096 = 0 → 4 ≤ k → k ≤ 16 → x < 256 → prio ≤ 3 → 1 ≤ weight → weight ≤ 255 →
    (∀ o, Map.get? s.queues q = some o → o.taken = []) → exec (.queueSetup q base k x prio weight) s =
      .next { s with queues := Map.put s.queues q ⟨base.toNat, k, x, prio, weight, 0, 0, false, []⟩ }) ∧
  (1024 ≤ q ∨ base.toNat % 4096 ≠ 0 ∨ k < 4 ∨ 16 < k ∨ 256 ≤ x ∨ 3 < prio ∨ weight = 0 ∨ 255 < weight →
    exec (.queueSetup q base k x prio weight) s = .next s) ∧
  exec (.queueReset q) s = .next (s.updQueue q (fun o => { o with error := false })) ∧
  (off < 8192 → off % 8 = 0 → exec (.doorbellWrite off 8 v) s = .next (s.updQueue (off / 8) (fun o => { o with write := v.toNat }))) ∧
  (off < 8192 → off % 8 ≠ 0 ∨ size ≠ 8 → ∃ t, exec (.doorbellWrite off size v) s = .next t ∧ t.queues = s.queues ∧
    t.fw.reports = s.fw.reports ++ [(9, off, size)]) ∧
  ((s.queues.map (·.1)).Nodup → ∀ type o r, s.taking q type = some (o, r) → Map.get? s.queues q = some o ∧ r = s.packetBytes o ∧
    o.error = false ∧ o.read < o.write) ∧
  (∀ o r, s.taking q 1 = some (o, r) → badPacket r = true → exec (.packetLaunch q) s = .next ((s.take q o none).stopQueue q o.read)) ∧
  (∀ o r, s.taking q 2 = some (o, r) → badPacket r = true → exec (.packetWaitSignal q) s = .next ((s.take q o none).stopQueue q o.read)) ∧
  (∀ o r, s.taking q 3 = some (o, r) → badPacket r = true → exec (.packetSetSignal q) s = .next ((s.take q o none).stopQueue q o.read)) ∧
  (∀ o r a, s.taking q 1 = some (o, r) → badPacket r = false → s.setFree r = true →
    (s.take q o (some (packetOf o.read r))).registerImage o.ctx (packetOf o.read r).va = some a →
    exec (.packetLaunch q) s = .next (a.seed q o r)) ∧
  (∀ o r, s.taking q 1 = some (o, r) → badPacket r = false → s.setFree r = true →
    let a := s.take q o (some (packetOf o.read r))
    a.registerImage o.ctx (packetOf o.read r).va = none →
    exec (.packetLaunch q) s = .next ((a.updPacket (q, o.read) (fun p => { p with status := some (8, 0) })).packetDone (q, o.read))) ∧
  (∀ (a : State) (o : Queue) (r : List Byte), Map.get? (a.seed q o r).grids a.newHandle = some { Grid.absent with
    ctx := o.ctx, info := GridRec.seed (field r 4 2) (field r 6 1) (packetOf o.read r).operand (packetOf o.read r).completion o.prio
      (packetOf o.read r).limit (packetOf o.read r).events.isSome
    packet := some (q, o.read), pendSeq := a.nextId, ended := false
    counters := (packetOf o.read r).events.map (fun e => ⟨e.1, [0, 0, 0, 0]⟩) }) ∧
  (∀ o r, s.taking q 2 = some (o, r) → badPacket r = false → exec (.packetWaitSignal q) s = .next (s.take q o (some (packetOf o.read r)))) ∧
  (∀ p w, s.waitReady q i = some (p, w) → w.getLsbD 63 = false → exec (.waitSignalMet q i) s = .next (s.dropPacket (q, i))) ∧
  (∀ p w, s.waitReady q i = some (p, w) → w.getLsbD 63 = true → exec (.waitSignalMet q i) s = .next ((s.dropPacket (q, i)).stopQueue q i)) ∧
  (s.waitReady q i = none → exec (.waitSignalMet q i) s = .next s) ∧
  (∀ o r p, s.taking q 3 = some (o, r) → badPacket r = false →
    let a := s.take q o none
    a.place o.ctx 0 .none (packetOf o.read r).va 8 true true = .inl p →
    exec (.packetSetSignal q) s = .next (a.performSys o.ctx (cellsAt p (leBytes 8 (if (packetOf o.read r).cond = 0 then (packetOf o.read r).operand
      else BitVec.ofNat 64 (leNat (a.bytes p 8)) + (packetOf o.read r).operand).toNat)))) ∧
  (∀ o p, Map.get? (s.take q o p).queues q = (Map.get? s.queues q).map (fun k => { k with
    read := k.read + 1, taken := match p with | some p => k.taken ++ [p] | none => k.taken }))

/-- R209, R325, R414, R420, R422: a context's root table, quota, peer groups, host service and keys are set where they may be; an
invalidation of a range takes every cached translation that meets it, once the accesses before it are done: that it waits for all of the
context's is the model's choice (log 73), as are the quota's sum (log 79) and that a bad request changes nothing (log 10). R411, R421 to
R424: at boot a complex runs where its firmware verifies (by FIPS 205, log entry 98) under a key whose hash an unrevoked fuse slot holds
(log entry 6), A first, and the eight compute dies come online; a failure is reported; without running firmware no input for it has an
effect and no packet is taken. At an update the standby boots the new firmware as at boot, and takes over where its version can import the
table, or else halts; an attestation is signed over its nonce and what it reports; the clock moves by 50 MHz. The bounds of the clock, 50
and 1300 MHz, are the model's choice (log 81), as are the form of the reports (log 77), what a halted standby leaves (log 80) and that a
bad request changes nothing (log 10). -/
def Obligations.ContextAndFirmwareEvents : Prop :=
  (∀ (s : State) (x n pool rank ranks : Nat) (pa : BitVec 48) (va len : BitVec 64) (g : BitVec 32) (key : BitVec 512),
  (x < 256 → pa.toNat % 16384 = 0 → isHbm pa.toNat = true → exec (.rootTableSet x pa) s =
    .next (s.updCtx x (fun c => { c with root := some pa.toNat }))) ∧
  (256 ≤ x ∨ pa.toNat % 16384 ≠ 0 ∨ isHbm pa.toNat = false → exec (.rootTableSet x pa) s = .next s) ∧
  (x < 256 → s.quotaSum x n pool ≤ 128 → ∃ t, exec (.quotaSet x n pool) s = .next t ∧ (t.ctx x).quota = n ∧ t.fw.library = pool) ∧
  (128 < s.quotaSum x n pool → exec (.quotaSet x n pool) s = .next s) ∧
  (x < 256 → rank < ranks → exec (.peerGroupSet x g rank ranks) s =
    .next (s.updCtx x (fun c => { c with groups := Map.put c.groups g.toNat ⟨rank, ranks, 0⟩ }))) ∧
  (ranks ≤ rank → exec (.peerGroupSet x g rank ranks) s = .next s) ∧
  (x < 256 → exec (.hostServiceRegister x) s = .next (s.updCtx x (fun c => { c with service := true }))) ∧
  (x < 256 → exec (.contextKeyRegister x key) s = .next (s.updCtx x (fun c => { c with keys := c.keys ++ [key] }))) ∧
  (s.invalidateReady x = false → exec (.tlbInvalidateRange x va len) s = .next s) ∧
  (s.invalidateReady x = true → (∀ p ∈ s.reqs, (∀ t, p.2 = .store t → t.ctx = x → t.stage ≠ .issued ∧ t.stage ≠ .passed) ∧
      (∀ l, p.2 = .load l → (s.warp l.warp).ctx = x → l.serve = .done)) ∧
    ∀ c ∈ s.cores, ∀ y ∈ c.2.tasks, (s.grid y.2.grid).ctx = x → y.2.buf = []) ∧
  (s.invalidateReady x = true → ∃ t, exec (.tlbInvalidateRange x va len) s = .next t ∧ t.mem = s.mem ∧ t.warps = s.warps ∧ t.reqs = s.reqs ∧
    let lo := va.toNat % 2 ^ 57
    ∀ (c d : Nat) (k : Core) (l : List Xlat),
      (Map.get? s.cores c = some k → Map.get? t.cores c = some { k with
        tlb := k.tlb.filter (fun e => !(e.ctx == x && decide (e.base < lo + len.toNat ∧ lo < e.base + e.size))) }) ∧
      (Map.get? s.tlbs d = some l → Map.get? t.tlbs d =
        some (l.filter (fun e => !(e.ctx == x && decide (e.base < lo + len.toNat ∧ lo < e.base + e.size))))))) ∧
  (∀ (s : State) (a b : SignedCode) (nonce : BitVec 256) (x : Option Nat) (code : List (BitVec 8)) (cert : Cert) (d : Nat),
  let okA := firmwareOk a.code a.cert
  let okB := firmwareOk b.code b.cert
  let v := Config.firmwareVersion (shake256 code)
  (∀ code cert, firmwareOk code cert = true ↔ (∃ k < 4, Config.keyRevoked k = false ∧ shake256 (leBytes 64 cert.key.toNat) = Config.keyFuse k) ∧
    slhVerifies cert.key code cert.sig = true) ∧
  (s.fw.booted = true → exec (.boot a b) s = .next s) ∧
  (s.fw.booted = false → ∃ t, exec (.boot a b) s = .next t ∧ t.fw.booted = (okA || okB) ∧ t.fw.activeB = (!okA && okB) ∧
    t.fw.bootFailed = !(okA && okB) ∧ t.fw.standbyHalted = !(okA && okB) ∧
    t.fw.reports = s.fw.reports ++ (if okA && okB then [] else [(7, if okA then 0 else 1, if okB then 0 else 1)]) ++
      (if okA || okB then (List.range 8).map (fun d => (4, d, 1)) else []) ∧
    (okA = true → t.fw.versionA = Config.firmwareVersion (shake256 a.code)) ∧ (okB = true → t.fw.versionB = Config.firmwareVersion (shake256 b.code)) ∧
    (okA || okB = true → d < 8 → ∀ j < 32, t.core (32 * d + j) =
      { Core.fresh with fenced := (s.core (32 * d + j)).fenced, tasks := (s.core (32 * d + j)).endedTasks }) ∧
    (okA || okB = false → t.cores = s.cores)) ∧
  (s.fw.booted = false → (∀ i, s.nextInput = some i → byFirmware i = true → s.does (some .input) = .done { s with inputs := s.inputs.erase i }) ∧
    ∀ q k, s.queueEvents q k = []) ∧
  (s.fw.booted = false → exec (.liveUpdate code cert) s = .next s) ∧
  (s.fw.booted = true → firmwareOk code cert = false → ∃ t, exec (.liveUpdate code cert) s = .next t ∧ t.fw.standbyHalted = true ∧
    t.fw.activeB = s.fw.activeB ∧ t.fw.active = s.fw.active ∧ { t with fw := s.fw } = s) ∧
  (s.fw.booted = true → firmwareOk code cert = true → v.1 = s.fw.active.1 → s.fw.active.2 ≤ v.2 → ∃ t, exec (.liveUpdate code cert) s = .next t ∧
    t.fw.activeB = !s.fw.activeB ∧ t.fw.active = v ∧ t.fw.standbyHalted = false ∧ { t with fw := s.fw } = s) ∧
  (s.fw.booted = true → firmwareOk code cert = true → v.1 ≠ s.fw.active.1 ∨ v.2 < s.fw.active.2 →
    exec (.liveUpdate code cert) s = .next { s with fw := { s.fw with standbyHalted := true } }) ∧
  (∃ t r, exec (.attestationRequest nonce x) s = .next t ∧ t.fw.attest = s.fw.attest ++ [nonce :: r ++ [Config.attest (nonce :: r)]]) ∧
  (∃ t, exec (.powerClockStep true) s = .next t ∧ t.fw.clockMhz = min 1300 (s.fw.clockMhz + 50)) ∧
  (50 < s.fw.clockMhz → ∃ t, exec (.powerClockStep false) s = .next t ∧ t.fw.clockMhz + 50 = s.fw.clockMhz) ∧
  (s.fw.clockMhz ≤ 50 → exec (.powerClockStep false) s = .next s))

/-- R208, R412, R416, R418, R419: peers and the host read what is performed at its home, and what they write is performed there, but for
lost data; queue pairs carry messages and remote reads and writes; a collective that can go on runs, then completes with the bytes it has
written. The model's choices: reports of kinds 5 and 10 (log 77), the other participants' values of a collective, which are free (log 72),
host and RDMA writes that are performed and in the array at once (log 74), and bad requests that change nothing (log 10). -/
def Obligations.LinkEvents : Prop := ∀ (s : State) (qp x mtu n i k : Nat) (own : BitVec 8) (peers : List (BitVec 8)) (pa : BitVec 39) (ha : BitVec 48)
    (v va base : BitVec 64) (bs : List (BitVec 8)),
  (∃ t m, exec (.relayBringUp own peers) s = .next t ∧ t.fw.ownPeer = some own.toNat ∧ t.fw.peers = peers.map (·.toNat) ∧
    t.fw.reports = s.fw.reports ++ [(10, own.toNat, m)] ∧ ∀ j < 256, m.testBit j = peers.contains (BitVec.ofNat 8 j)) ∧
  (peerOk .load pa.toNat n = true → s.contained pa.toNat = false → exec (.peerAccess .load pa n v) s =
    .next { s with fw := { s.fw with replies := s.fw.replies ++ [s.bytes pa.toNat n] } }) ∧
  (peerOk .store pa.toNat n = true → s.contained pa.toNat = false → ∃ t, exec (.peerAccess .store pa n v) s = .next t ∧
    (∀ j < n, t.byte (pa.toNat + j) = BitVec.ofNat 8 (v.toNat / 256 ^ j)) ∧
    ∀ a, a < pa.toNat ∨ pa.toNat + n ≤ a → t.byte a = s.byte a) ∧
  (peerOk (.atomic 0 0) pa.toNat 4 = true → s.contained pa.toNat = false → ∃ t, exec (.peerAccess (.atomic 0 0) pa 4 v) s = .next t ∧
    t.fw.replies = s.fw.replies ++ [s.bytes pa.toNat 4] ∧
    leNat (t.bytes pa.toNat 4) = (leNat (s.bytes pa.toNat 4) + v.toNat) % 2 ^ 32) ∧
  (∀ a, peerOk a pa.toNat n = false → exec (.peerAccess a pa n v) s = .next s) ∧
  (qp < 16384 → mtu = 1024 ∨ mtu = 2048 ∨ mtu = 4096 → exec (.queuePairSetup qp mtu) s =
    .next { s with fw := { s.fw with qps := Map.put s.fw.qps qp mtu } }) ∧
  (mtu ≠ 1024 → mtu ≠ 2048 → mtu ≠ 4096 → exec (.queuePairSetup qp mtu) s = .next s) ∧
  (∀ ks, Map.has s.fw.qps qp = true → s.places x 0 .none va bs.length false true = .inl ks → exec (.rdmaWrite qp x va bs) s =
    .next (s.performSys x ((ks.zip bs).foldl (fun m p => Map.put m p.1 p.2) []))) ∧
  (∀ t, Map.has s.fw.qps qp = true → s.places x 0 .none va bs.length false true = .inr t → exec (.rdmaWrite qp x va bs) s =
    .next (s.report 5 qp t.cause)) ∧
  (∀ ks, Map.has s.fw.qps qp = true → s.places x 0 .none va n true false = .inl ks → exec (.rdmaRead qp x va n) s =
    .next { s with fw := { s.fw with replies := s.fw.replies ++ [ks.map s.hostByte] } }) ∧
  (Map.has s.fw.qps qp = true → exec (.rdmaSend qp bs) s = .next { s with fw := { s.fw with received := s.fw.received ++ [(qp, bs)] } }) ∧
  (Map.has s.fw.qps qp = false → exec (.rdmaWrite qp x va bs) s = .next s ∧ exec (.rdmaRead qp x va n) s = .next s ∧ exec (.rdmaSend qp bs) s = .next s) ∧
  (∀ m, s.fw.received.find? (fun m => m.1 == qp) = some m → exec (.rdmaReceive qp x va) s =
    .next (({ s with fw := { s.fw with received := s.fw.received.erase m } } : State).rdmaWrite qp x va m.2)) ∧
  (s.fw.received.find? (fun m => m.1 == qp) = none → exec (.rdmaReceive qp x va) s = .next s) ∧
  ((∀ j < n, (isHbm (ha.toNat + j) || isHost (ha.toNat + j)) = true ∧ s.contained (ha.toNat + j) = false) → exec (.hostRead ha n) s =
    .next { s with fw := { s.fw with hostReads := s.fw.hostReads ++ [(List.range n).map (fun j => s.hostByte (ha.toNat + j))] } }) ∧
  ((∀ j < bs.length, (isHbm (ha.toNat + j) || isHost (ha.toNat + j)) = true ∧ s.contained (ha.toNat + j) = false) →
    ∃ t, exec (.hostWrite ha bs) s = .next t ∧ (∀ j y, bs[j]? = some y → t.byte (ha.toNat + j) = y ∧ t.hostByte (ha.toNat + j) = y) ∧
      ∀ a, a < ha.toNat ∨ ha.toNat + bs.length ≤ a → t.byte a = s.byte a ∧
        ((∀ q ∈ s.stores, q.2.buffered = true → ∀ j < bs.length, ha.toNat + j ∉ q.2.pas) → t.hostByte a = s.hostByte a)) ∧
  exec (.linkEnumeration i base) s = .next { s with fw := { s.fw with windows := Map.put s.fw.windows i base } } ∧
  (s.collReady k = false → exec (.collectiveComplete k) s = .next s) ∧
  (∀ c, s.collReady k = true → Map.get? s.colls k = some c → c.status = none → c.writes = none → exec (.collectiveComplete k) s = .next (s.collRun k c)) ∧
  (∀ c, s.collReady k = true → Map.get? s.colls k = some c → c.status ≠ none ∨ c.writes ≠ none → exec (.collectiveComplete k) s = .next (
    let a : State := s.postIf c.core c.record 7 7 (c.status.getD 0) c.tag (s.collBytes c)
    ((({ a with colls := Map.del a.colls k } : State).countEngine c.grid [0x07, 0x08]).tokenDone c.warp c.token).sweep)) ∧
  (∀ c : Coll, (c.writes = none → s.collBytes c = 0) ∧ ∀ ks, c.writes = some ks → s.collBytes c = collSize c.type * c.count - c.lost -
    (ks.map (fun k => match Map.get? s.reqs k with
      | some (.store t) => if t.stage = .issued ∨ t.stage = .passed then t.cells.length else 0
      | _ => 0)).sum) ∧
  (∀ (c : Coll) (g : PeerGroup) (src : Nat → Nat) (other : Nat → Nat → Nat) (j : Nat),
    (c.op = 3 → c.root = g.rank → c.result g src other j = src j) ∧
    (c.op = 2 → g.rank * (c.count / g.ranks) ≤ j → j < (g.rank + 1) * (c.count / g.ranks) →
      c.result g src other j = src (j - g.rank * (c.count / g.ranks))) ∧
    (c.op < 2 → c.mode = 2 → g.ranks = 1 → c.type ≠ 3 → c.result g src other j = ((Acc.zero.add (accTerm (BitVec.ofNat 64 (src j)))).round).bits) ∧
    (c.op < 2 → c.mode = 1 → c.type = 3 → c.reduce = 0 → c.firstLeaf = 0 → c.leaves = 1024 →
      c.result g src other j = ((List.range 1024).map (fun l => src (l * c.count + j))).sum % 2 ^ 32) ∧
    (c.op < 2 → c.mode ≠ 1 → c.type = 3 → (c.mode = 2 ∨ c.reduce = 0) → 0 < g.ranks → c.result g src other j % 2 ^ 32 =
      (src j + (((List.range g.ranks).filter (· ≠ other j g.ranks % g.ranks)).map (other j)).sum) % 2 ^ 32))
end

