-- ==== Sys2Proof/Laws/Map.lean ====
section
/-! SUPPORT. Read after write on finite maps. -/

set_option Elab.async false

namespace Sys2Proof.Machine.Map

variable {α : Type}

theorem get?_put (m : Map α) (k : Nat) (v : α) (j : Nat) : get? (put m k v) j = if k = j then some v else get? m j := by
  induction m with
  | nil => simp [put, get?]
  | cons p r ih =>
    obtain ⟨i, u⟩ := p
    unfold put
    split
    · simp [get?]
    · split
      · subst_vars; simp only [get?]; split <;> rfl
      · simp only [get?, ih]
        by_cases h : i = j <;> by_cases h' : k = j <;> simp_all

@[simp] theorem get?_put_self (m : Map α) (k : Nat) (v : α) : get? (put m k v) k = some v := by simp [get?_put]

theorem get?_put_ne (m : Map α) {k j : Nat} (v : α) (h : k ≠ j) : get? (put m k v) j = get? m j := by simp [get?_put, h]

theorem get?_del (m : Map α) (k j : Nat) : get? (del m k) j = if k = j then none else get? m j := by
  induction m with
  | nil => simp [del, get?]
  | cons p r ih =>
    obtain ⟨i, u⟩ := p
    simp only [del, List.filter_cons] at ih ⊢
    by_cases h : i = k
    · subst h
      simp only [bne_self_eq_false, Bool.false_eq_true, if_false, ih, get?]
      split <;> rfl
    · simp only [bne_iff_ne, ne_eq, h, not_false_eq_true, if_true, get?, ih]
      by_cases h1 : i = j <;> by_cases h2 : k = j <;> simp_all

theorem getD_setD [DecidableEq α] (m : Map α) (k : Nat) (v d : α) (j : Nat) :
    getD (setD m k v d) j d = if k = j then v else getD m j d := by
  unfold getD setD
  split
  · rw [get?_del]; split <;> simp_all
  · rw [get?_put]; split <;> simp_all

@[simp] theorem getD_put_self (m : Map α) (k : Nat) (v d : α) : getD (put m k v) k d = v := by simp [getD]

theorem getD_put_ne (m : Map α) {k j : Nat} (v d : α) (h : k ≠ j) : getD (put m k v) j d = getD m j d := by
  simp [getD, get?_put, h]

theorem get?_upd (m : Map α) (k : Nat) (f : α → α) (j : Nat) :
    get? (upd m k f) j = if k = j then (get? m k).map f else get? m j := by
  unfold upd
  cases h : get? m k with
  | none => simp only [Option.map_none]; split <;> simp_all
  | some v => rw [get?_put]; simp

theorem get?_mapV (m : Map α) (f : Nat → α → α) (j : Nat) : get? (mapV m f) j = (get? m j).map (f j) := by
  induction m with
  | nil => rfl
  | cons p r ih =>
    obtain ⟨i, v⟩ := p
    simp only [mapV, List.map_cons, get?] at ih ⊢
    by_cases h : i = j
    · subst h; simp
    · simp [h, ih]

theorem mapV_mapV (m : Map α) (f g : Nat → α → α) : mapV (mapV m f) g = mapV m (fun k v => g k (f k v)) := by
  simp [mapV, List.map_map, Function.comp_def]

theorem mapV_id (m : Map α) : mapV m (fun _ v => v) = m := by simp [mapV]

theorem upd_upd (m : Map α) (k : Nat) (f g : α → α) (j : Nat) :
    get? (upd (upd m k f) k g) j = get? (upd m k (fun v => g (f v))) j := by
  simp only [get?_upd, if_true]
  split <;> simp [Option.map_map, Function.comp_def]

theorem getD_of_get? {m : Map α} {k : Nat} {v : α} (h : get? m k = some v) (d : α) : getD m k d = v := by simp [getD, h]

end Sys2Proof.Machine.Map
end

