-- ==== Sys2Proof/Laws/Issue.lean ====
section
/-! SUPPORT. What the shared operation `issue` does, said once: an instruction that is ready passes the gate unchanged, and a completed
issue leaves its effect and nothing else but the books of an issue. -/

set_option Elab.async false

namespace Sys2Proof.Machine

/-! ### The gate -/

theorem foldl_append_nil {α β : Type} (f : β → List α) (l : List β) (h : ∀ x ∈ l, f x = []) :
    l.foldl (fun acc x => acc ++ f x) [] = [] := by
  induction l with
  | nil => rfl
  | cons x r ih =>
    rw [List.foldl_cons, h x (List.mem_cons_self ..), List.append_nil]
    exact ih (fun y hy => h y (List.mem_cons_of_mem _ hy))

theorem mem_foldl_append {α β : Type} (f : β → List α) (l : List β) (acc : List α) (a : α) :
    a ∈ l.foldl (fun acc x => acc ++ f x) acc ↔ a ∈ acc ∨ ∃ x ∈ l, a ∈ f x := by
  induction l generalizing acc with
  | nil => simp
  | cons x r ih =>
    rw [List.foldl_cons, ih, List.mem_append]
    simp only [List.mem_cons, exists_eq_or_imp, or_assoc]

theorem Need.names_eq (n : Need) :
    n.names = n.srcs.foldl (fun acc o => acc ++ (match o with | .regs l _ => l | .scope _ => [])) [] ++ n.dsts := by
  unfold Need.names
  congr 2
  funext acc o
  cases o <;> simp

/-- The registers of a source are among the names. -/
theorem Need.mem_names {n : Need} {l : List Nat} {e : Bool} {r : Nat} (h : Opd.regs l e ∈ n.srcs) (hr : r ∈ l) : r ∈ n.names := by
  rw [Need.names_eq]
  apply List.mem_append_left
  rw [mem_foldl_append]
  exact .inr ⟨_, h, hr⟩

theorem Iss.n_sub_act {w : Warp} {u : Nat} {h : Lane} {len l : Nat} (hl : l ∈ (w.iss u h len).n) : l ∈ (w.iss u h len).act :=
  (List.mem_filter.mp hl).1

theorem Iss.act_sub_frag {w : Warp} {u : Nat} {h : Lane} {len l : Nat} (hl : l ∈ (w.iss u h len).act) : l ∈ (w.iss u h len).frag :=
  (List.mem_filter.mp hl).1

/-- A full register is neither empty nor orphaned. -/
theorem full_not_empty {k : Lane} {r : Nat} (h : (k.cell r).fe = .full) : k.isEmpty r = false := by simp [Lane.isEmpty, h]
theorem full_not_orphan {k : Lane} {r : Nat} (h : (k.cell r).fe = .full) : k.isOrphan r = false := by simp [Lane.isOrphan, h]

variable {s : State} {u : Nat} {w : Warp} {h : Lane} {n : Need}

theorem Need.unmapped_find (hm : n.mappedSrcs w = []) {l : List Nat} {e : Bool} (ho : Opd.regs l e ∈ n.srcs) (p : QMap → Bool) :
    w.qmaps.find? (fun q => l.contains q.reg && p q) = none := by
  rw [List.find?_eq_none]
  intro q hq hc
  have h1 := (List.filter_eq_nil_iff.mp (List.append_eq_nil_iff.mp hm).1) q hq
  apply h1
  rw [List.any_eq_true]
  refine ⟨_, ho, ?_⟩
  simp only [Bool.and_eq_true] at hc
  exact hc.1

/-- With no mapped source, no implicit source of a lane that takes part is mapped. -/
theorem Need.unmapped_also (hm : n.mappedSrcs w = []) (hh : w.head = some h) {l r : Nat} (hl : l ∈ (w.iss u h n.wlen).act)
    (hr : r ∈ n.also l (w.lane l)) : w.mapOf r = none := by
  unfold Warp.mapOf
  rw [List.find?_eq_none]
  intro q hq hc
  obtain ⟨h1, h2⟩ := List.append_eq_nil_iff.mp hm
  have a := List.filter_eq_nil_iff.mp h1 q hq
  rw [Bool.not_eq_true] at a
  apply List.filter_eq_nil_iff.mp h2 q hq
  refine Bool.and_eq_true_iff.mpr ⟨congrArg not a, ?_⟩
  rw [List.contains_iff_mem, hh, mem_foldl_append]
  exact .inr ⟨l, hl, by simpa [eq_of_beq hc] using hr⟩

/-- An instruction that is ready passes every check, and the checks change nothing. -/
theorem State.Ready.gate (r : s.Ready u w h n) : s.gate w (w.iss u h n.wlen) n = .go s := by
  have hact : (w.iss u h n.wlen).act ≠ [] := by
    obtain ⟨l, hl⟩ := List.exists_mem_of_ne_nil _ r.lanes
    exact List.ne_nil_of_mem (Iss.n_sub_act hl)
  have h1 : ((List.range 8).any (fun k => (w.iss u h n.wlen).wait.getLsbD k && w.tokBusy k && !w.isAe)) = false := by
    rw [List.any_eq_false]
    intro k hk hc
    simp only [Bool.and_eq_true, Bool.not_eq_true'] at hc
    have := r.tokens k (List.mem_range.mp hk) hc.1.1 hc.1.2
    simp [this] at hc
  have h9 : s.alsoTrap w (w.iss u h n.wlen) n = none := by
    have a : (w.iss u h n.wlen).n.any (fun l => (n.also l (w.lane l)).any (fun r => (w.mapOf r).isNone && (w.lane l).isOrphan r)) = false := by
      rw [List.any_eq_false]; intro k hk; rw [Bool.not_eq_true, List.any_eq_false]; intro x hx
      simp [full_not_orphan (r.full k (Iss.n_sub_act hk) x (List.mem_append_right _ hx))]
    have b : (w.iss u h n.wlen).n.any (fun l => (n.also l (w.lane l)).any (fun r => (w.mapOf r).any (fun q =>
        !s.queueReady w (n.mappedSrcs w) q && ((s.core w.core).bankOf q.bank).producers == 0))) = false := by
      rw [List.any_eq_false]; intro k hk; rw [Bool.not_eq_true, List.any_eq_false]; intro x hx
      cases hq : w.mapOf x with
      | none => simp
      | some q => exact absurd hq (by rw [Need.unmapped_also r.unmapped r.head (Iss.n_sub_act hk) hx]; nofun)
    simp only [State.alsoTrap, a, b, Bool.false_eq_true, if_false]
  have h2 : n.srcs.findSome? (s.srcTrap w (w.iss u h n.wlen) []) = none := by
    rw [List.findSome?_eq_none_iff]
    intro o ho
    cases o with
    | scope k => rfl
    | regs l e =>
      have hfull : ∀ k ∈ (w.iss u h n.wlen).n, ∀ x ∈ l, ((w.lane k).cell x).fe = .full := fun k hk x hx =>
        r.full k (Iss.n_sub_act hk) x (List.mem_append_left _ (Need.mem_names ho hx))
      have a : (w.iss u h n.wlen).n.any (fun k => l.any (fun x => (w.mapOf x).isNone && (w.lane k).isOrphan x)) = false := by
        rw [List.any_eq_false]; intro k hk; rw [Bool.not_eq_true, List.any_eq_false]; intro x hx
        simp [full_not_orphan (hfull k hk x hx)]
      have b : (w.iss u h n.wlen).n.any (fun k => l.any (fun x => (w.mapOf x).isNone && (w.lane k).isEmpty x)) = false := by
        rw [List.any_eq_false]; intro k hk; rw [Bool.not_eq_true, List.any_eq_false]; intro x hx
        simp [full_not_empty (hfull k hk x hx)]
      simp only [State.srcTrap, a, b, Need.unmapped_find r.unmapped ho, Bool.false_eq_true, if_false, Bool.and_false]
  have h3 : n.waits w (w.iss u h n.wlen) = [] := by
    unfold Need.waits
    apply foldl_append_nil
    intro l hl
    rw [List.map_eq_nil_iff, List.filter_eq_nil_iff]
    intro x hx
    simp [full_not_empty (r.full l hl x hx)]
  have h4 : s.otherWaits (w.iss u h n.wlen).u w n = false := by
    unfold State.otherWaits
    rw [r.unmapped]
    simp only [List.any_nil, Bool.false_or]
    rw [List.any_eq_false]
    intro o ho
    cases o with
    | scope k => simpa [Warp.iss] using r.scopes k ho
    | regs l e => simp
  have h5 : (n.mem && w.acquiring) = false := by
    cases hm : n.mem with
    | false => rfl
    | true => simpa using r.acquire hm
  have h6 : (n.handler && !(w.iss u h n.wlen).handler) = false := by
    cases hm : n.handler with
    | false => rfl
    | true => simp [r.handler hm]
  have h7 : ((n.atHead || !(n.mappedSrcs w).isEmpty) && !(s.waitingTasks w (w.iss u h n.wlen).act).isEmpty) = false := by
    rw [r.unmapped]
    cases hm : n.atHead with
    | false => rfl
    | true => simp [r.tasks hm]
  have h8 : ((w.iss u h n.wlen).act.isEmpty || n.perWarp && (w.iss u h n.wlen).n.isEmpty) = false := by
    simp [hact, r.lanes]
  unfold State.gate
  rw [h1, h8, r.legal, h6, h7]
  simp only [h2, h9, Option.orElse, Bool.false_eq_true, if_false, h3, h4, h5, r.unmapped, List.isEmpty_nil, Bool.not_false, Bool.and_self, if_true,
    List.foldl_nil]

/-- A ready instruction issues: what its own part answers is what the step leaves. -/
theorem issue_ready (r : s.Ready u w h n) (k : Iss → State → Eff) :
    issue s n k = .next (s.outcome s w (w.iss u h n.wlen) n (k (w.iss u h n.wlen) s)) := by
  unfold issue
  rw [r.acts.1]
  simp only [r.acts.2]
  unfold State.issueBy
  simp only [r.idle, r.head, r.gate, Bool.false_eq_true, if_false]

end Sys2Proof.Machine
end

