-- ==== Sys2Proof/Laws/Books.lean ====
section
/-! SUPPORT. The books of an issue (R156, R157, R384, R388 to R393): the operations that keep them change nothing else, so a completed issue
leaves its effect alone. -/

set_option Elab.async false

namespace Sys2Proof.Machine

namespace State.Alike

theorem refl (s : State) : State.Alike s s := ⟨fun _ => rfl, fun _ => rfl, fun _ => rfl, rfl⟩

theorem trans {a b c : State} (h : State.Alike a b) (k : State.Alike b c) : State.Alike a c :=
  ⟨fun v => (k.warps v).trans (h.warps v), fun v => (k.cores v).trans (h.cores v), fun v => (k.grids v).trans (h.grids v), k.rest.trans h.rest⟩

end State.Alike

/-! ### One record at a time -/

theorem unwait_eq (w : Warp) : w.unwait = { w with hold := match w.hold with
    | some (.fence _ _ _) => none
    | some (.restante _ _ _) => none
    | x => x } := by
  unfold Warp.unwait
  split <;> simp_all

/-- What a note beside the effect leaves to show. -/
theorem shown_note (w : Warp) (p : Option Pfx) (st : Option (Stop × Option (Word × BitVec 6))) (q : Option (Word × BitVec 6))
    (b : Option (Word × List Nat)) : ({ w with pfx := p, stop := st, seq := q, bp := b } : Warp).shown = w.shown := by
  simp only [Warp.shown, unwait_eq]

/-- What the register cache holds does not show. -/
theorem shown_cache (w : Warp) (c : List (Nat × Bool)) : ({ w with cache := c } : Warp).shown = w.shown := by
  simp only [Warp.shown, unwait_eq]

theorem shown_unwait (w : Warp) : ({ w.unwait with pfx := none, stop := none } : Warp).shown = w.shown := by
  simp only [Warp.shown, unwait_eq]
  rcases w.hold with _ | (_ | _ | _ | _ | _ | _) <;> rfl


theorem alike_updWarp {s : State} {u : Nat} {f : Warp → Warp} (h : ∀ w, Map.get? s.warps u = some w → (f w).shown = w.shown) :
    State.Alike s (s.updWarp u f) := by
  refine ⟨fun v => ?_, fun _ => rfl, fun _ => rfl, rfl⟩
  simp only [State.updWarp, Map.get?_upd]
  split
  · rename_i e
    subst e
    cases hw : Map.get? s.warps u with
    | none => rfl
    | some w => simp only [Option.map_some, h w hw]
  · rfl

theorem core_updCore (s : State) (c : Nat) (f : Core → Core) (d : Nat) :
    (s.updCore c f).core d = if c = d then f (s.core c) else s.core d := by
  simp only [State.updCore, State.setCore, State.core, Map.getD, Map.get?_put]
  split <;> rfl

theorem alike_updCore {s : State} {c : Nat} {f : Core → Core} (h : (f (s.core c)).shown = (s.core c).shown) :
    State.Alike s (s.updCore c f) := by
  refine ⟨fun _ => rfl, fun d => ?_, fun _ => rfl, rfl⟩
  rw [core_updCore]
  split
  · subst_vars; exact h
  · rfl

theorem alike_updGrid {s : State} {g : Nat} {f : Grid → Grid} (h : ∀ k, (f k).shown = k.shown) : State.Alike s (s.updGrid g f) := by
  refine ⟨fun _ => rfl, fun _ => rfl, fun v => ?_, rfl⟩
  simp only [State.updGrid, Map.get?_upd]
  split
  · rename_i e
    subst e
    cases Map.get? s.grids g with
    | none => rfl
    | some k => simp only [Option.map_some, h k]
  · rfl

/-! ### The operations that keep the books -/

theorem alike_count (s : State) (g code n : Nat) : State.Alike s (s.count g code n) := by
  unfold State.count
  split
  · exact .refl s
  · exact alike_updGrid (fun _ => rfl)

theorem alike_charge (s : State) (core g leaf n : Nat) : State.Alike s (s.charge core g leaf n) :=
  (alike_updCore rfl).trans (alike_updGrid (fun _ => rfl))

theorem mapV_useful (m : Map Task) (p : Nat → Bool) (c : Nat) :
    Map.mapV (Map.mapV m (fun k t => if p k then { t with useful := t.useful ++ [c] } else t)) (fun _ t => { t with useful := [] }) =
      Map.mapV m (fun _ t => { t with useful := [] }) := by
  rw [Map.mapV_mapV]
  congr 1
  funext k t
  split <;> rfl

theorem alike_countIssue (s : State) (i : Iss) (n : Need) (leaf : Nat) : State.Alike s (s.countIssue i n leaf) := by
  unfold State.countIssue
  dsimp only
  split
  · exact .refl s
  · refine ((((alike_count ..).trans (alike_count ..)).trans (alike_count ..)).trans (alike_count ..)).trans
      ((alike_charge ..).trans (alike_updCore ?_))
    simp only [Core.shown]
    split
    · rw [mapV_useful]
    · rfl

theorem alike_flushCache (s : State) (u : Nat) : State.Alike s (s.flushCache u) := by
  unfold State.flushCache
  dsimp only
  split
  · exact .refl s
  · exact (alike_updWarp (fun w _ => shown_cache w _)).trans (alike_count ..)

theorem alike_cached (s : State) (w : Warp) (i : Iss) (n : Need) : State.Alike s (s.cached w i n) := by
  unfold State.cached
  dsimp only
  split
  · exact .refl s
  · exact ((alike_updWarp (fun w _ => shown_cache w _)).trans (alike_count ..)).trans (alike_count ..)

theorem alike_stall (s : State) (u : Nat) (r : Option Stop) : State.Alike s (s.stall u r) := by
  unfold State.stall
  split
  · exact .refl s
  · exact ((alike_updWarp (fun w _ => shown_note w _ _ _ _)).trans (alike_flushCache ..)).trans (alike_updCore rfl)

theorem alike_compare (s : State) (core : Nat) (i : Iss) : State.Alike s (s.compare core i) := by
  unfold State.compare
  dsimp only
  split
  · exact alike_updWarp (fun w _ => shown_note w _ _ _ _)
  · exact .refl s

theorem alike_noteSeq (s : State) (w : Warp) (i : Iss) (n : Need) : State.Alike s (s.noteSeq w i n) :=
  alike_updWarp (fun w _ => shown_note w _ _ _ _)

/-! ### A completed issue -/

theorem shown_split (w : Warp) (ls : List Nat) : (w.split ls).shown = w.shown.split ls := by
  simp only [Warp.shown, Warp.split, unwait_eq, Warp.lane]

/-- States that are alike stay so when their fragments part. -/
theorem alike_parted {a b : State} (h : State.Alike a b) (i : Iss) : State.Alike (a.parted i) (b.parted i) := by
  unfold State.parted
  split
  · refine ⟨fun v => ?_, h.cores, h.grids, h.rest⟩
    simp only [State.updWarp, Map.get?_upd]
    split
    · have := h.warps i.u
      revert this
      cases Map.get? a.warps i.u <;> cases Map.get? b.warps i.u <;> simp [shown_split]
      intro e; rw [e]
    · exact h.warps v
  · exact h

theorem get?_parted (s : State) (i : Iss) (v : Nat) : Map.get? (s.parted i).warps v =
    if i.handler && i.u == v then (Map.get? s.warps v).map (fun w => w.split i.frag) else Map.get? s.warps v := by
  unfold State.parted
  cases i.handler
  · rfl
  · simp only [if_true, State.updWarp, Map.get?_upd, Bool.true_and, beq_iff_eq]
    split <;> simp_all

theorem check_of_shown {a b : Warp} (h : a.shown = b.shown) : a.check = b.check := by
  have := congrArg Warp.check h
  simpa only [Warp.shown, unwait_eq] using this

theorem warp_updLanes (s : State) (u : Nat) (ls : List Nat) (f : Nat → Lane → Lane) (w : Warp) (h : Map.get? s.warps u = some w) :
    Map.get? (s.updLanes u ls f).warps u =
      some { w with lanes := Map.mapV w.lanes (fun l k => if ls.contains l then f l k else k) } := by
  simp [State.updLanes, State.updWarp, Map.get?_upd, h]

/-- A completed issue: the lanes whose guard was false move on, and beside that only the books change. -/
theorem issued_alike {t : State} {w w' : Warp} {i : Iss} {n : Need} (hu : Map.get? t.warps i.u = some w')
    (hc : ∀ c, w'.check = some c → c.pops = []) (hm : n.mappedSrcs w = []) (whole : Bool) :
    State.Alike ((t.updLanes i.u (i.frag.filter (fun l => !i.act.contains l)) (fun _ k => if k.helper then k else k.advance i.len)).parted i)
      (t.issued w i n whole) := by
  unfold State.issued
  rw [if_neg (by simp [Map.has, hu])]
  dsimp only
  rw [hm]
  simp only [List.map_nil, List.isEmpty_nil, Bool.true_or, if_true]
  generalize hs1 : t.updLanes i.u (i.frag.filter (fun l => !i.act.contains l)) (fun _ k => if k.helper then k else k.advance i.len) = s1
  have hw1 : Map.get? s1.warps i.u = some { w' with lanes := Map.mapV w'.lanes (fun l k =>
      if (i.frag.filter (fun l => !i.act.contains l)).contains l then (if k.helper then k else k.advance i.len) else k) } := by
    rw [← hs1]; exact warp_updLanes _ _ _ _ _ hu
  have a2 : State.Alike s1 (s1.updWarp i.u (fun w => { w.unwait with pfx := none, stop := none })) :=
    alike_updWarp (fun w _ => shown_unwait w)
  have a4 := ((a2.trans (alike_noteSeq _ w i n)).trans (alike_countIssue _ i n (if !whole then 4 else if i.n.isEmpty then 3 else 2))).trans
    (alike_cached _ w i n)
  revert a4
  generalize State.cached _ w i n = s4
  intro a4
  have a5 : State.Alike s1 (if (s4.warp i.u).head.isNone || i.n.any (fun l => ((s4.warp i.u).lane l).place.waits) then
      s4.stall i.u (some .idle) else s4) := by
    split
    · exact a4.trans (alike_stall ..)
    · exact a4
  revert a5
  generalize (if (s4.warp i.u).head.isNone || i.n.any (fun l => ((s4.warp i.u).lane l).place.waits) then
    s4.stall i.u (some .idle) else s4) = s6
  intro a5
  have a5 : State.Alike (s1.parted i) (if i.handler then s6.updWarp i.u (fun w => w.split i.frag) else s6) := alike_parted a5 i
  revert a5
  generalize (if i.handler then s6.updWarp i.u (fun w => w.split i.frag) else s6) = s5
  intro a5
  have hw5 : ∃ v, Map.get? s5.warps i.u = some v ∧ v.check = w'.check := by
    have := a5.warps i.u
    rw [get?_parted, hw1] at this
    cases hv : Map.get? s5.warps i.u with
    | none => rw [hv] at this; cases hi : i.handler <;> simp [hi] at this
    | some v =>
      rw [hv] at this
      refine ⟨v, rfl, ?_⟩
      cases hi : i.handler <;> simp only [hi, Bool.false_and, Bool.true_and, BEq.rfl, if_true, Bool.false_eq_true, if_false, Option.map_some] at this
      · simpa using check_of_shown (Option.some.inj this)
      · simpa [Warp.split] using check_of_shown (Option.some.inj this)
  obtain ⟨v, hv, hvc⟩ := hw5
  have hsw : s5.warp i.u = v := by simp [State.warp, Map.getD, hv]
  rw [hsw]
  split
  · rename_i c hcc
    refine a5.trans (alike_updWarp (fun x hx => ?_))
    rw [hv] at hx
    obtain rfl := Option.some.inj hx
    have hp := hc c (by rw [← hvc]; exact hcc)
    have e : ({ c with pops := [] } : Check) = c := by cases c; simp_all
    simp only [e, ← hcc]
  · split
    · exact a5.trans (alike_compare ..)
    · exact a5

/-- What an issued instruction answers when its own part succeeds and tracing is off. -/
theorem outcome_ok {s t : State} {w w' : Warp} {i : Iss} {n : Need} (ht : (t.core w.core).trace = none)
    (hu : Map.get? t.warps i.u = some w') (hc : ∀ c, w'.check = some c → c.pops = []) (hm : n.mappedSrcs w = []) (s0 : State) :
    State.Alike ((t.updLanes i.u (i.frag.filter (fun l => !i.act.contains l)) (fun _ k => if k.helper then k else k.advance i.len)).parted i)
      (s.outcome s0 w i n (.ok t)) := by
  have : t.traced s0 w i n = t := by simp [State.traced, ht]
  simp only [State.outcome, this]
  exact issued_alike hu hc hm true

/-! ### Instructions that act on each lane's own registers -/

theorem busy_check {w : Warp} (h : w.busy = false) : w.check = none := by
  unfold Warp.busy at h
  cases hc : w.check <;> simp_all

/-- The lanes of an issued instruction: those that take part are changed by f, those whose guard is false move on. -/
def Iss.both (i : Iss) (f : Nat → Lane → Lane) (l : Nat) (k : Lane) : Lane :=
  if i.act.contains l then f l k else if i.frag.contains l && !k.helper then k.advance i.len else k

theorem lanes_alike {a b : State} (hw : ∀ v, Map.get? a.warps v = Map.get? b.warps v) (hc : a.cores = b.cores) (hg : a.grids = b.grids)
    (hr : ({ a with warps := [], cores := [], grids := [] } : State) = { b with warps := [], cores := [], grids := [] }) :
    State.Alike b a :=
  ⟨fun v => by rw [hw v], fun c => by simp only [State.core, hc], fun g => by rw [hg], hr⟩

theorem get?_lanesTo (s : State) (u : Nat) (f : Nat → Lane → Lane) (v : Nat) :
    Map.get? (s.lanesTo u f).warps v = if u = v then (Map.get? s.warps u).map (fun w => { w with lanes := Map.mapV w.lanes f })
      else Map.get? s.warps v := by
  simp only [State.lanesTo, State.updWarp, Map.get?_upd]

theorem get?_updLanes (s : State) (u : Nat) (ls : List Nat) (f : Nat → Lane → Lane) (v : Nat) :
    Map.get? (s.updLanes u ls f).warps v = if u = v then (Map.get? s.warps u).map (fun w => { w with
      lanes := Map.mapV w.lanes (fun l k => if ls.contains l then f l k else k) }) else Map.get? s.warps v := by
  simp only [State.updLanes, State.updWarp, Map.get?_upd]

theorem both_eq (i : Iss) (f : Nat → Lane → Lane) (l : Nat) (k : Lane) :
    (if (i.frag.filter (fun l => !i.act.contains l)).contains l then
      (if (if i.act.contains l then f l k else k).helper then (if i.act.contains l then f l k else k)
        else (if i.act.contains l then f l k else k).advance i.len)
      else (if i.act.contains l then f l k else k)) = i.both f l k := by
  unfold Iss.both
  by_cases ha : i.act.contains l = true
  · have hn : (i.frag.filter (fun l => !i.act.contains l)).contains l = false := by
      rw [← Bool.not_eq_true, List.contains_iff_mem, List.mem_filter]; rintro ⟨_, h⟩; rw [ha] at h; cases h
    simp only [ha, hn, if_true, Bool.false_eq_true, if_false]
  · have ha' : i.act.contains l = false := by simpa using ha
    simp only [ha', Bool.false_eq_true, if_false]
    by_cases hf : i.frag.contains l = true
    · have hn : (i.frag.filter (fun l => !i.act.contains l)).contains l = true := by
        rw [List.contains_iff_mem, List.mem_filter]; exact ⟨by simpa using hf, by simpa using ha'⟩
      simp only [hn, hf, if_true, Bool.true_and]
      cases k.helper <;> rfl
    · have hn : (i.frag.filter (fun l => !i.act.contains l)).contains l = false := by
        rw [← Bool.not_eq_true, List.contains_iff_mem, List.mem_filter]; rintro ⟨h, _⟩; simp at hf; exact hf h
      have hf' : i.frag.contains l = false := by simpa using hf
      simp only [hn, hf', Bool.false_and, Bool.false_eq_true, if_false]

/-- A change of the lanes that take part, then the move of the others, is one change of the lanes. -/
theorem both_alike (s : State) (i : Iss) (f : Nat → Lane → Lane) :
    State.Alike (s.lanesTo i.u (i.both f)) ((s.updLanes i.u i.act f).updLanes i.u (i.frag.filter (fun l => !i.act.contains l))
      (fun _ k => if k.helper then k else k.advance i.len)) := by
  refine lanes_alike (fun v => ?_) rfl rfl rfl
  simp only [get?_updLanes, get?_lanesTo, if_true]
  split
  · cases Map.get? s.warps i.u with
    | none => rfl
    | some w =>
      simp only [Option.map_some, Map.mapV_mapV]
      congr 2
      simp only [both_eq]
  · rfl

theorem ran_eq (i : Iss) (f : Nat → Lane → Lane) :
    i.ran f = i.both (fun l k => if (f l k).helper then f l k else (f l k).advance i.len) := rfl

theorem sent_eq (i : Iss) (f : Nat → Lane → Lane) : i.sent f = i.both (fun l k => if k.helper then k else f l k) := rfl

/-- An effect on the lanes that take part, then the fragment's move. -/
theorem adv_eq (s : State) (i : Iss) (f : Nat → Lane → Lane) (v : Nat) :
    Map.get? ((s.updLanes i.u i.act f).adv i).warps v =
      Map.get? (s.updLanes i.u i.act (fun l k => if (f l k).helper then f l k else (f l k).advance i.len)).warps v := by
  simp only [State.adv, get?_updLanes, if_true]
  split
  · cases Map.get? s.warps i.u with
    | none => rfl
    | some w =>
      simp only [Option.map_some, Map.mapV_mapV]
      congr 3
      funext l k
      cases i.act.contains l <;> rfl
  · rfl

/-- The effect of an instruction on lanes, one part after the other, is its effect. -/
theorem did_of_parts {s t : State} {i : Iss} {f : Nat → Lane → Lane}
    (h : State.Alike ((((s.updLanes i.u i.act f).adv i).updLanes i.u (i.frag.filter (fun l => !i.act.contains l))
      (fun _ k => if k.helper then k else k.advance i.len)).parted i) t) : s.Did t i f := by
  unfold State.Did
  rw [ran_eq]
  refine (alike_parted ((both_alike s i _).trans ?_) i).trans h
  refine lanes_alike (fun v => ?_) rfl rfl rfl
  rw [get?_updLanes, adv_eq, adv_eq, get?_updLanes (s.updLanes i.u i.act _)]

/-- A ready instruction whose own part changes each lane by f and lets the fragment move on. -/
theorem lanes_did {s : State} {u : Nat} {w : Warp} {h : Lane} {n : Need} (r : s.Ready u w h n) (f : Nat → Lane → Lane)
    {k : Iss → State → Eff} (hk : k (w.iss u h n.wlen) s =
      .ok ((s.updLanes u (w.iss u h n.wlen).act f).adv (w.iss u h n.wlen))) :
    ∃ t, issue s n k = .next t ∧ s.Did t (w.iss u h n.wlen) f := by
  refine ⟨_, issue_ready r k, did_of_parts (i := w.iss u h n.wlen) ?_⟩
  rw [hk]
  have hw := r.acts.2
  refine outcome_ok (w' := ?w) ?_ ?hu (fun c hc => ?_) r.unmapped s
  case hu => exact warp_updLanes _ _ _ _ _ (warp_updLanes _ _ _ _ _ hw)
  · exact r.untraced
  · simp only [busy_check r.idle] at hc; cases hc

/-- An instruction that acts lane by lane: its effect on every lane that takes part, and nothing else. -/
theorem lanewise_did {s : State} {u : Nat} {w : Warp} {h : Lane} {n : Need} (r : s.Ready u w h n) (f : Lane → (Src → Word) → Lane) :
    ∃ t, lanewise s n f = .next t ∧ s.Did t (w.iss u h n.wlen) (fun l k => f k (s.get w l k)) := by
  refine lanes_did r _ ?_
  have : s.warp u = w := by simp [State.warp, Map.getD, r.acts.2]
  simp only [Warp.iss, this]

/-- The same as a statement about an instruction. -/
theorem acts_lanewise {x : Instr} {n : Need} {F : State → Warp → Nat → Lane → Lane}
    (h : ∀ s, ∃ f : Lane → (Src → Word) → Lane, exec x s = lanewise s n f ∧ ∀ w l k, F s w l k = f k (s.get w l k)) : Acts x n F := by
  intro s u w hd r _
  obtain ⟨f, hx, hF⟩ := h s
  rw [hx]
  obtain ⟨t, h1, h2⟩ := lanewise_did r f
  refine ⟨t, h1, ?_⟩
  have : F s w = (fun l k => f k (s.get w l k)) := by funext l k; exact hF w l k
  simp only [this]; exact h2

/-- A ready instruction whose own part succeeds leaves the state its part gives, with the lanes whose guard is false moved on. -/
theorem ready_ok {s t : State} {u : Nat} {w w' : Warp} {h : Lane} {n : Need} {k : Iss → State → Eff} (r : s.Ready u w h n)
    (hk : k (w.iss u h n.wlen) s = .ok t) (ht : (t.core w.core).trace = none) (hu : Map.get? t.warps u = some w')
    (hc : ∀ c, w'.check = some c → c.pops = []) :
    ∃ t', issue s n k = .next t' ∧ State.Alike ((t.updLanes u ((w.iss u h n.wlen).frag.filter (fun l => !(w.iss u h n.wlen).act.contains l))
      (fun _ k => if k.helper then k else k.advance (w.iss u h n.wlen).len)).parted (w.iss u h n.wlen)) t' := by
  refine ⟨_, issue_ready r k, ?_⟩
  rw [hk]
  exact outcome_ok (i := w.iss u h n.wlen) ht hu hc r.unmapped s

/-- The warp of a ready instruction. -/
theorem State.Ready.warp {s : State} {u : Nat} {w : Warp} {h : Lane} {n : Need} (r : s.Ready u w h n) : s.warp u = w := by
  simp [State.warp, Map.getD, r.acts.2]

/-- An instruction whose own part gives a state G, an effect on the lanes that take part, and the fragment's move: what `Completes` says of it. -/
theorem completes_ok {x : Instr} {n : Need} {p : State → Warp → Iss → Prop} {k : Iss → State → Eff} (hx : ∀ s, exec x s = issue s n k)
    (G : State → Warp → Iss → State) (f : State → Warp → Iss → Nat → Lane → Lane)
    (hk : ∀ s u w h, s.Ready u w h n → p s w (w.iss u h n.wlen) → s.warp u = w →
      k (w.iss u h n.wlen) s = .ok (((G s w (w.iss u h n.wlen)).updLanes u (w.iss u h n.wlen).act (f s w (w.iss u h n.wlen))).adv
        (w.iss u h n.wlen)) ∧
      ((G s w (w.iss u h n.wlen)).core w.core).trace = none ∧
      ∃ w', Map.get? (G s w (w.iss u h n.wlen)).warps u = some w' ∧ w'.check = none) :
    Completes x n p (fun s w i => (G s w i).lanesTo i.u (i.ran (f s w i))) := by
  intro s u w h r hp
  obtain ⟨h1, h2, w', h3, h4⟩ := hk s u w h r hp r.warp
  rw [hx]
  obtain ⟨t, ht, ha⟩ := ready_ok r h1 h2 (warp_updLanes _ _ _ _ _ (warp_updLanes _ _ _ _ _ h3))
    (fun c hc => by simp only [h4] at hc; cases hc)
  exact ⟨t, ht, did_of_parts (i := w.iss u h n.wlen) ha⟩

theorem updLanes_id (s : State) (u : Nat) (ls : List Nat) : s.updLanes u ls (fun _ k => k) = s.updWarp u (fun w => w) := by
  have (w : Warp) : ({ w with lanes := Map.mapV w.lanes (fun l k => if ls.contains l then k else k) } : Warp) = w := by
    have : Map.mapV w.lanes (fun l k => if ls.contains l then k else k) = w.lanes := by simp [Map.mapV]
    rw [this]
  simp only [State.updLanes, this]

/-- The same where the lanes only move on. -/
theorem completes_adv {x : Instr} {n : Need} {p : State → Warp → Iss → Prop} {k : Iss → State → Eff} (hx : ∀ s, exec x s = issue s n k)
    (G : State → Warp → Iss → State)
    (hk : ∀ s u w h, s.Ready u w h n → p s w (w.iss u h n.wlen) → s.warp u = w →
      k (w.iss u h n.wlen) s = .ok ((G s w (w.iss u h n.wlen)).adv (w.iss u h n.wlen)) ∧
      ((G s w (w.iss u h n.wlen)).core w.core).trace = none ∧
      ∃ w', Map.get? (G s w (w.iss u h n.wlen)).warps u = some w' ∧ w'.check = none) :
    Completes x n p (fun s w i => (G s w i).lanesTo i.u (i.ran (fun _ k => k))) := by
  intro s u w h r hp
  obtain ⟨h1, h2, w', h3, h4⟩ := hk s u w h r hp r.warp
  rw [hx]
  obtain ⟨t, ht, ha⟩ := ready_ok r h1 h2 (warp_updLanes _ _ _ _ _ h3) (fun c hc => by simp only [h4] at hc; cases hc)
  refine ⟨t, ht, did_of_parts (i := w.iss u h n.wlen) ?_⟩
  refine State.Alike.trans (alike_parted ?_ _) ha
  refine lanes_alike (fun v => ?_) rfl rfl rfl
  rw [updLanes_id]
  have hu : (w.iss u h n.wlen).u = u := rfl
  simp only [hu, State.adv, get?_updLanes, State.updWarp, Map.get?_upd, if_true]
  split
  · rw [h3]; rfl
  · rfl

/-- An instruction whose own part leaves the lanes that take part where they are. -/
theorem completes_part {x : Instr} {n : Need} {p : State → Warp → Iss → Prop} {k : Iss → State → Eff} (hx : ∀ s, exec x s = issue s n k)
    (G : State → Warp → Iss → State)
    (hk : ∀ s u w h, s.Ready u w h n → p s w (w.iss u h n.wlen) → s.warp u = w →
      k (w.iss u h n.wlen) s = .ok (G s w (w.iss u h n.wlen)) ∧ ((G s w (w.iss u h n.wlen)).core w.core).trace = none ∧
      ∃ w', Map.get? (G s w (w.iss u h n.wlen)).warps u = some w' ∧ ∀ c, w'.check = some c → c.pops = []) :
    Completes x n p (fun s w i => (G s w i).lanesTo i.u i.rest) := by
  intro s u w h r hp
  obtain ⟨h1, h2, w', h3, h4⟩ := hk s u w h r hp r.warp
  rw [hx]
  obtain ⟨t, ht, ha⟩ := ready_ok r h1 h2 h3 h4
  refine ⟨t, ht, State.Alike.trans (alike_parted ?_ _) ha⟩
  refine lanes_alike (fun v => ?_) rfl rfl rfl
  have hu : (w.iss u h n.wlen).u = u := rfl
  rw [get?_lanesTo, get?_updLanes, hu]
  split
  · rw [h3]
    simp only [Option.map_some, Option.some.injEq, Warp.mk.injEq, true_and, and_true]
    simp only [Map.mapV]
    apply List.map_congr_left
    intro q _
    simp only [Iss.rest, Prod.mk.injEq, true_and]
    rw [show ((w.iss u h n.wlen).frag.filter (fun l => !(w.iss u h n.wlen).act.contains l)).contains q.1 =
      ((w.iss u h n.wlen).frag.contains q.1 && !(w.iss u h n.wlen).act.contains q.1) by
        rw [Bool.eq_iff_iff]; simp [List.mem_filter]]
    cases (w.iss u h n.wlen).frag.contains q.1 <;> cases (w.iss u h n.wlen).act.contains q.1 <;> cases q.2.helper <;> simp
  · rfl

/-- Alike states stay so when lanes of an agent change. -/
theorem alike_updLanes {a b : State} (h : State.Alike a b) (u : Nat) (ls : List Nat) (f : Nat → Lane → Lane) :
    State.Alike (a.updLanes u ls f) (b.updLanes u ls f) := by
  refine ⟨fun v => ?_, h.cores, h.grids, h.rest⟩
  rw [get?_updLanes, get?_updLanes]
  split
  · have := h.warps u
    revert this
    cases Map.get? a.warps u <;> cases Map.get? b.warps u <;> simp
    intro e
    simp only [Warp.shown, unwait_eq, Warp.mk.injEq] at e ⊢
    simp_all
  · exact h.warps v

/-- What a trap of lanes of an ordinary fragment does: their trap registers, their way to the handler, the forgotten SPAWN, and books. -/
theorem takeTrap_alike {s : State} {u : Nat} {w : Warp} (hw : Map.get? s.warps u = some w) (ha : w.isAe = false) (ls : List Nat) (cause : Nat)
    (t : Nat → Trap) (tpc : Word) (resume : Lane → Resume) :
    State.Alike ((s.updWarp u (fun w => w.unspawn ls)).updLanes u ls (fun l k =>
      if k.helper then k else { k.takeTrap cause (t l) (maskOf ls) tpc (resume k) with
        frag := 1 + (ls.filter (fun l => !(w.lane l).helper)).headD 0 })) (s.takeTrap u false ls cause t tpc resume) := by
  have hsw : s.warp u = w := by simp [State.warp, Map.getD, hw]
  have go (a : State) (h : State.Alike a (((s.updWarp u (fun w => { w.unwait with pfx := none, stop := none, bp := none }.unspawn ls)).updLanes u ls
      (fun l k => if k.helper then k else { k.takeTrap cause (t l) (maskOf ls) tpc (resume k) with
        frag := 1 + (ls.filter (fun l => !(w.lane l).helper)).headD 0 })))) :
      State.Alike a (s.takeTrap u false ls cause t tpc resume) := by
    unfold State.takeTrap
    simp only [hsw]
    cases hk : w.kind with
    | ae b st f g => simp [Warp.isAe, hk] at ha
    | scc c => dsimp only; split <;> exact h.trans (by first | exact (alike_count ..).trans (alike_count ..) | exact alike_count ..)
    | warp => dsimp only; split <;> exact h.trans (by first | exact (alike_count ..).trans (alike_count ..) | exact alike_count ..)
  refine go _ (alike_updLanes ?_ u ls _)
  refine ⟨fun v => ?_, fun _ => rfl, fun _ => rfl, rfl⟩
  simp only [State.updWarp, Map.get?_upd]
  split
  · cases Map.get? s.warps u with
    | none => rfl
    | some x =>
      simp only [Option.map_some, Warp.shown, Warp.unspawn, unwait_eq]
      rcases x.hold with _ | (_ | _ | _ | _ | _) <;> rfl
  · rfl

theorem enabled_iff (k : Lane) (f : Flags) : (k.enabled f = false) ↔ (k.fpctl >>> 9 &&& f.setWidth 14 = 0) := by
  unfold Lane.enabled
  rw [bne_eq_false_iff_eq]
  constructor <;> intro h <;> apply BitVec.eq_of_getLsbD_eq <;> intro i hi
  · have := congrArg (fun v => v.getLsbD i) h
    simp only [BitVec.getLsbD_and, BitVec.getLsbD_setWidth] at this ⊢
    by_cases h5 : i < 5
    · simp only [h5, decide_true, Bool.true_and, hi] at this ⊢; rw [Bool.and_comm]; exact this
    · have : f.getLsbD i = false := BitVec.getLsbD_of_ge _ _ (by omega)
      simp [this]
  · have := congrArg (fun v => v.getLsbD i) h
    simp only [BitVec.getLsbD_and, BitVec.getLsbD_setWidth, hi, decide_true, Bool.true_and] at this ⊢
    have h14 : i < 14 := by omega
    simp only [h14, decide_true, Bool.true_and] at this
    rw [Bool.and_comm]; exact this

/-- A floating instruction of which no lane of N raises an enabled flag: the result and the sticky flags in every lane that takes part. -/
theorem fpwise_did {s : State} {u : Nat} {w : Warp} {h : Lane} {n : Need} (r : s.Ready u w h { n with ae := false })
    (f : Lane → (Src → Word) → Lane × Flags) (hh : ∀ k g, (f k g).1.helper = k.helper)
    (hq : ∀ l ∈ (w.iss u h n.wlen).n, (w.lane l).enabled (f (w.lane l) (s.get w l (w.lane l))).2 = false) :
    ∃ t, fpwise s n f = .next t ∧
      s.Did t (w.iss u h n.wlen) (fun l k => (f k (s.get w l k)).1.raise (f k (s.get w l k)).2) := by
  have hbad : (w.iss u h n.wlen).n.filter (fun l => (w.lane l).enabled (f (w.lane l) (s.get w l (w.lane l))).2) = [] := by
    rw [List.filter_eq_nil_iff]; intro l hl; simp [hq l hl]
  have hwu : s.warp (w.iss u h n.wlen).u = w := r.warp
  obtain ⟨t, h1, h2⟩ := ready_ok (t := s.updLanes u (w.iss u h n.wlen).act (fun l k =>
      if k.helper then (f k (s.get w l k)).1.raise (f k (s.get w l k)).2
      else ((f k (s.get w l k)).1.raise (f k (s.get w l k)).2).advance (w.iss u h n.wlen).len)) r
    (k := fun i s =>
      let w := s.warp i.u
      let res (l : Nat) (k : Lane) : Lane × Flags := f k (s.get w l k)
      let bad := i.n.filter (fun l => (w.lane l).enabled (res l (w.lane l)).2)
      let s : State := s.updLanes i.u i.act (fun l k =>
        if bad.contains l then k.raise (res l k).2
        else if k.helper then (res l k).1.raise (res l k).2
        else ((res l k).1.raise (res l k).2).advance i.len)
      if bad.isEmpty then .ok s
      else .part (s.takeTrap i.u i.handler bad 0x17 (fun l => ⟨0x17, 0, (res l (w.lane l)).2.setWidth 32⟩) i.pc (fun _ => ⟨i.pc, i.prio, false⟩)))
    (by simp only [hwu, hbad, List.isEmpty_nil, if_true, List.contains_nil, Bool.false_eq_true, if_false]; rfl)
    r.untraced (warp_updLanes _ _ _ _ _ r.acts.2) (fun c hc => by simp only [busy_check r.idle] at hc; cases hc)
  refine ⟨t, h1, ?_⟩
  unfold State.Did
  rw [ran_eq]
  refine State.Alike.trans (alike_parted ?_ _) h2
  have e : (fun l k => if ((f k (s.get w l k)).1.raise (f k (s.get w l k)).2).helper = true
      then (f k (s.get w l k)).1.raise (f k (s.get w l k)).2
      else ((f k (s.get w l k)).1.raise (f k (s.get w l k)).2).advance (w.iss u h n.wlen).len) =
      (fun l k => if k.helper = true then (f k (s.get w l k)).1.raise (f k (s.get w l k)).2
      else ((f k (s.get w l k)).1.raise (f k (s.get w l k)).2).advance (w.iss u h n.wlen).len) := by
    funext l k; simp only [Lane.raise, hh]
  rw [e]
  exact both_alike s (w.iss u h n.wlen) _

theorem enabled_eq (k : Lane) (f : Flags) : k.enabled f = (k.fpctl >>> 9 &&& f.setWidth 14 != 0) := by
  rw [Bool.eq_iff_iff, bne_iff_ne, ne_eq, ← enabled_iff, Bool.not_eq_false]

theorem raising_eq (i : Iss) (w : Warp) (r : Nat → Lane → Lane × Flags) :
    i.n.filter (fun l => (w.lane l).enabled (r l (w.lane l)).2) = i.raising w r := by
  simp only [Iss.raising, enabled_eq]

theorem lane_mapV (w : Warp) (f : Nat → Lane → Lane) (hf : ∀ l k, (f l k).helper = k.helper) (l : Nat) :
    (({ w with lanes := Map.mapV w.lanes f } : Warp).lane l).helper = (w.lane l).helper := by
  simp only [Warp.lane, Map.getD, Map.get?_mapV]
  cases Map.get? w.lanes l <;> simp [hf]

/-- A floating instruction of which lanes of N raise an enabled flag, in an ordinary fragment: those trap, the others complete. -/
theorem fpwise_trapped {s : State} {u : Nat} {w : Warp} {h : Lane} {n : Need} (r : s.Ready u w h { n with ae := false })
    (f : Lane → (Src → Word) → Lane × Flags) (hh : ∀ k g, (f k g).1.helper = k.helper) (ho : (w.iss u h n.wlen).handler = false)
    (hb : (w.iss u h n.wlen).raising w (fun l k => f k (s.get w l k)) ≠ []) :
    ∃ t, fpwise s n f = .next t ∧
      State.Alike ((s.updWarp u (fun x => x.unspawn ((w.iss u h n.wlen).raising w (fun l k => f k (s.get w l k))))).lanesTo u
        ((w.iss u h n.wlen).fpTrapped w ((w.iss u h n.wlen).raising w (fun l k => f k (s.get w l k))) (fun l k => f k (s.get w l k)))) t := by
  have hae : w.isAe = false := by
    cases hk : w.isAe with
    | false => rfl
    | true => have := r.legal; simp [State.illegal, hk] at this
  have hwu : s.warp (w.iss u h n.wlen).u = w := r.warp
  generalize hA : (fun (l : Nat) (k : Lane) =>
    if ((w.iss u h n.wlen).raising w (fun l k => f k (s.get w l k))).contains l then k.raise (f k (s.get w l k)).2
    else if k.helper then (f k (s.get w l k)).1.raise (f k (s.get w l k)).2
    else ((f k (s.get w l k)).1.raise (f k (s.get w l k)).2).advance (w.iss u h n.wlen).len) = A
  have hAh (l : Nat) (k : Lane) : (A l k).helper = k.helper := by
    rw [← hA]; dsimp only; split
    · rfl
    · split <;> simp [Lane.raise, hh, Lane.advance]
  obtain ⟨X, hX⟩ : ∃ X, X = (s.updLanes u (w.iss u h n.wlen).act A).takeTrap u false
    ((w.iss u h n.wlen).raising w (fun l k => f k (s.get w l k))) 0x17
    (fun l => ⟨0x17, 0, (f (w.lane l) (s.get w l (w.lane l))).2.setWidth 32⟩) h.pc (fun _ => ⟨h.pc, h.prio, false⟩) := ⟨_, rfl⟩
  have hs1 : Map.get? (s.updLanes u (w.iss u h n.wlen).act A).warps u = some _ := warp_updLanes _ _ _ _ _ r.acts.2
  have tk := takeTrap_alike hs1 hae ((w.iss u h n.wlen).raising w (fun l k => f k (s.get w l k))) 0x17
    (fun l => ⟨0x17, 0, (f (w.lane l) (s.get w l (w.lane l))).2.setWidth 32⟩) h.pc (fun _ => ⟨h.pc, h.prio, false⟩)
  rw [← hX] at tk
  have hXw := tk.warps u
  rw [get?_updLanes, if_pos rfl] at hXw
  simp only [State.updWarp, Map.get?_upd, if_true, hs1, Option.map_some] at hXw
  obtain ⟨w', hw', hc'⟩ : ∃ w', Map.get? X.warps u = some w' ∧ w'.check = none := by
    cases hx : Map.get? X.warps u with
    | none => rw [hx] at hXw; simp at hXw
    | some w' =>
      rw [hx] at hXw
      refine ⟨w', rfl, (check_of_shown (Option.some.inj hXw)).trans ?_⟩
      simpa [Warp.unspawn] using busy_check r.idle
  have htr : (X.core w.core).trace = none := by
    have := congrArg Core.trace (tk.cores w.core)
    simpa [Core.shown] using this.trans r.untraced
  have hk : fpwise s n f = .next ((X.traced s w (w.iss u h n.wlen) { n with ae := false }).issued w (w.iss u h n.wlen) { n with ae := false } false) := by
    unfold fpwise
    rw [issue_ready r]
    have hr : (w.iss u h n.wlen).n.filter (fun l => (w.lane l).enabled (f (w.lane l) (s.get w l (w.lane l))).2) =
      (w.iss u h n.wlen).raising w (fun l k => f k (s.get w l k)) :=
      raising_eq _ w (fun l k => f k (s.get w l k))
    simp only [hwu, hr]
    rw [if_neg (by rw [List.isEmpty_iff]; exact hb)]
    simp only [State.outcome]
    rw [hX, ← hA, ho]
    rfl
  refine ⟨_, hk, ?_⟩
  rw [show X.traced s w (w.iss u h n.wlen) { n with ae := false } = X by simp [State.traced, htr]]
  have is := issued_alike (i := w.iss u h n.wlen) hw' (fun c hc => by rw [hc'] at hc; cases hc) r.unmapped false
  have hp (a : State) : a.parted (w.iss u h n.wlen) = a := by simp [State.parted, ho]
  rw [hp] at is
  refine State.Alike.trans (State.Alike.trans ?_ (alike_updLanes tk u _ _)) is
  refine lanes_alike (fun v => ?_) rfl rfl rfl
  simp only [get?_updLanes, get?_lanesTo, State.updWarp, Map.get?_upd, if_true]
  split
  · rw [r.acts.2]
    simp only [Option.map_some, Option.some.injEq, Warp.unspawn, Warp.mk.injEq, true_and, and_true, Map.mapV_mapV]
    congr 1
    funext l k
    generalize hbad : (w.iss u h n.wlen).raising w (fun l k => f k (s.get w l k)) = bad at *
    have hsub : ∀ l ∈ bad, l ∈ (w.iss u h n.wlen).n := by rw [← hbad]; intro l hl; exact (List.mem_filter.mp hl).1
    have hfilt (v : Warp) (hv : ∀ l, (v.lane l).helper = (w.lane l).helper) : bad.filter (fun l => !(v.lane l).helper) = bad := by
      rw [List.filter_eq_self]
      intro l hl
      rw [hv]
      exact (List.mem_filter.mp (hsub l hl)).2
    rw [hfilt _ (fun l => lane_mapV w _ (fun l k => by split <;> simp [hAh]) l)]
    clear hX tk is hk
    subst hA
    by_cases hl : bad.contains l = true
    · have ha : (w.iss u h n.wlen).act.contains l = true := by
        rw [List.contains_iff_mem] at hl ⊢; exact (List.mem_filter.mp (hsub l hl)).1
      have hn : ((w.iss u h n.wlen).frag.filter (fun l => !(w.iss u h n.wlen).act.contains l)).contains l = false := by
        rw [← Bool.not_eq_true, List.contains_iff_mem, List.mem_filter]; rintro ⟨_, h⟩; rw [ha] at h; cases h
      simp only [Iss.fpTrapped, hl, ha, hn, if_true, Bool.false_eq_true, if_false]
      cases hk : k.helper <;> simp [Lane.raise, Lane.takeTrap, Warp.iss, hk]
    · have hl' : bad.contains l = false := by simpa using hl
      simp only [Iss.fpTrapped, hl', Bool.false_eq_true, if_false]
      rw [ran_eq, ← both_eq]
      simp only [Lane.raise, hh]
  · rfl

/-- The same as a statement about an instruction. -/
theorem acts_fpwise {x : Instr} {n : Need} {r : State → Warp → Nat → Lane → Lane × Flags} (hn : n.ae = false)
    (h : ∀ s, ∃ f : Lane → (Src → Word) → Lane × Flags, exec x s = fpwise s n f ∧ (∀ k g, (f k g).1.helper = k.helper) ∧
      ∀ w l k, r s w l k = f k (s.get w l k)) : FpActs x n r := by
  refine ⟨fun s u w hd rd hq => ?_, fun s u w hd rd hq => ?_⟩ <;> obtain ⟨f, hx, hh, hF⟩ := h s
  all_goals
    rw [hx]
    have hn' : ({ n with ae := false } : Need) = n := by cases n; simp_all
    have hr : r s w = fun l k => f k (s.get w l k) := by funext l k; exact hF w l k
    simp only [hr] at hq ⊢
  · exact fpwise_did (n := n) (by rw [hn']; exact rd) f hh (fun l hl => by
      rw [enabled_eq]
      simpa using List.filter_eq_nil_iff.mp hq l hl)
  · obtain ⟨t, h1, h2⟩ := fpwise_trapped (n := n) (by rw [hn']; exact rd) f hh hq.1 hq.2
    refine ⟨t, h1, ?_⟩
    rw [show ∀ a : State, a.parted (w.iss u hd n.wlen) = a from fun a => by simp [State.parted, hq.1]]
    exact h2

end Sys2Proof.Machine
end

