-- ==== Sys2Proof/Laws/Dispatch.lean ====
section
/-! SUPPORT. One equation per instruction: exec runs its meaning. Proofs about one instruction cite its equation and never unfold exec. -/

set_option Elab.async false

namespace Sys2Proof.Machine

variable (x_s : State)

theorem exec_add (d : BitVec 6) (a : Src) (b : Src) : exec (.add d a b) x_s = execAdd d a b x_s := rfl
theorem exec_sub (d : BitVec 6) (a : Src) (b : Src) : exec (.sub d a b) x_s = execSub d a b x_s := rfl
theorem exec_mul (d : BitVec 6) (a : Src) (b : Src) : exec (.mul d a b) x_s = execMul d a b x_s := rfl
theorem exec_mulhS (d : BitVec 6) (a : Src) (b : Src) : exec (.mulhS d a b) x_s = execMulhS d a b x_s := rfl
theorem exec_mulhZ (d : BitVec 6) (a : Src) (b : Src) : exec (.mulhZ d a b) x_s = execMulhZ d a b x_s := rfl
theorem exec_mad (d : BitVec 6) (a : Src) (b : Src) : exec (.mad d a b) x_s = execMad d a b x_s := rfl
theorem exec_divS (d : BitVec 6) (a : Src) (b : Src) : exec (.divS d a b) x_s = execDivS d a b x_s := rfl
theorem exec_divZ (d : BitVec 6) (a : Src) (b : Src) : exec (.divZ d a b) x_s = execDivZ d a b x_s := rfl
theorem exec_remS (d : BitVec 6) (a : Src) (b : Src) : exec (.remS d a b) x_s = execRemS d a b x_s := rfl
theorem exec_remZ (d : BitVec 6) (a : Src) (b : Src) : exec (.remZ d a b) x_s = execRemZ d a b x_s := rfl
theorem exec_and (d : BitVec 6) (a : Src) (b : Src) : exec (.and d a b) x_s = execAnd d a b x_s := rfl
theorem exec_or (d : BitVec 6) (a : Src) (b : Src) : exec (.or d a b) x_s = execOr d a b x_s := rfl
theorem exec_xor (d : BitVec 6) (a : Src) (b : Src) : exec (.xor d a b) x_s = execXor d a b x_s := rfl
theorem exec_andn (d : BitVec 6) (a : Src) (b : Src) : exec (.andn d a b) x_s = execAndn d a b x_s := rfl
theorem exec_shl (d : BitVec 6) (a : Src) (b : Src) : exec (.shl d a b) x_s = execShl d a b x_s := rfl
theorem exec_shr (d : BitVec 6) (a : Src) (b : Src) : exec (.shr d a b) x_s = execShr d a b x_s := rfl
theorem exec_sra (d : BitVec 6) (a : Src) (b : Src) : exec (.sra d a b) x_s = execSra d a b x_s := rfl
theorem exec_rol (d : BitVec 6) (a : Src) (b : Src) : exec (.rol d a b) x_s = execRol d a b x_s := rfl
theorem exec_minS (d : BitVec 6) (a : Src) (b : Src) : exec (.minS d a b) x_s = execMinS d a b x_s := rfl
theorem exec_minZ (d : BitVec 6) (a : Src) (b : Src) : exec (.minZ d a b) x_s = execMinZ d a b x_s := rfl
theorem exec_maxS (d : BitVec 6) (a : Src) (b : Src) : exec (.maxS d a b) x_s = execMaxS d a b x_s := rfl
theorem exec_maxZ (d : BitVec 6) (a : Src) (b : Src) : exec (.maxZ d a b) x_s = execMaxZ d a b x_s := rfl
theorem exec_absS (d : BitVec 6) (a : Src) : exec (.absS d a) x_s = execAbsS d a x_s := rfl
theorem exec_popc (d : BitVec 6) (a : Src) : exec (.popc d a) x_s = execPopc d a x_s := rfl
theorem exec_clz (d : BitVec 6) (a : Src) : exec (.clz d a) x_s = execClz d a x_s := rfl
theorem exec_brev (d : BitVec 6) (a : Src) : exec (.brev d a) x_s = execBrev d a x_s := rfl
theorem exec_bfxZ (d : BitVec 6) (a : Src) (b : Src) : exec (.bfxZ d a b) x_s = execBfxZ d a b x_s := rfl
theorem exec_bfxS (d : BitVec 6) (a : Src) (b : Src) : exec (.bfxS d a b) x_s = execBfxS d a b x_s := rfl
theorem exec_bfi (d : BitVec 6) (a : Src) (b : Src) : exec (.bfi d a b) x_s = execBfi d a b x_s := rfl
theorem exec_addw (d : BitVec 6) (a : RegE) (b : RegE) : exec (.addw d a b) x_s = execAddw d a b x_s := rfl
theorem exec_subw (d : BitVec 6) (a : RegE) (b : RegE) : exec (.subw d a b) x_s = execSubw d a b x_s := rfl
theorem exec_mulwS (d : BitVec 6) (a : Src) (b : Src) : exec (.mulwS d a b) x_s = execMulwS d a b x_s := rfl
theorem exec_mulwZ (d : BitVec 6) (a : Src) (b : Src) : exec (.mulwZ d a b) x_s = execMulwZ d a b x_s := rfl
theorem exec_shlw (d : BitVec 6) (a : RegE) (b : Src) : exec (.shlw d a b) x_s = execShlw d a b x_s := rfl
theorem exec_shrw (d : BitVec 6) (a : RegE) (b : Src) : exec (.shrw d a b) x_s = execShrw d a b x_s := rfl
theorem exec_sraw (d : BitVec 6) (a : RegE) (b : Src) : exec (.sraw d a b) x_s = execSraw d a b x_s := rfl
theorem exec_cmpS (c : BitVec 3) (p : BitVec 3) (a : Src) (b : Src) : exec (.cmpS c p a b) x_s = execCmpS c p a b x_s := rfl
theorem exec_cmpZ (c : BitVec 3) (p : BitVec 3) (a : Src) (b : Src) : exec (.cmpZ c p a b) x_s = execCmpZ c p a b x_s := rfl
theorem exec_cmpwS (c : BitVec 3) (p : BitVec 3) (a : RegE) (b : RegE) : exec (.cmpwS c p a b) x_s = execCmpwS c p a b x_s := rfl
theorem exec_cmpwZ (c : BitVec 3) (p : BitVec 3) (a : RegE) (b : RegE) : exec (.cmpwZ c p a b) x_s = execCmpwZ c p a b x_s := rfl
theorem exec_plog (o : BitVec 3) (p : BitVec 3) (r : BitVec 3) (q : BitVec 3) : exec (.plog o p r q) x_s = execPlog o p r q x_s := rfl
theorem exec_ptox (d : BitVec 6) (r : BitVec 3) : exec (.ptox d r) x_s = execPtox d r x_s := rfl
theorem exec_xtop (p : BitVec 3) (a : Src) : exec (.xtop p a) x_s = execXtop p a x_s := rfl
theorem exec_rng (d : BitVec 6) (a : RegE) : exec (.rng d a) x_s = execRng d a x_s := rfl
theorem exec_rngj (a : RegE) (b : RegE) : exec (.rngj a b) x_s = execRngj a b x_s := rfl
theorem exec_fadd (d : BitVec 6) (a : Src) (b : Src) : exec (.fadd d a b) x_s = execFadd d a b x_s := rfl
theorem exec_fsub (d : BitVec 6) (a : Src) (b : Src) : exec (.fsub d a b) x_s = execFsub d a b x_s := rfl
theorem exec_fmul (d : BitVec 6) (a : Src) (b : Src) : exec (.fmul d a b) x_s = execFmul d a b x_s := rfl
theorem exec_ffma (d : BitVec 6) (a : Src) (b : Src) : exec (.ffma d a b) x_s = execFfma d a b x_s := rfl
theorem exec_ffms (d : BitVec 6) (a : Src) (b : Src) : exec (.ffms d a b) x_s = execFfms d a b x_s := rfl
theorem exec_fmin (d : BitVec 6) (a : Src) (b : Src) : exec (.fmin d a b) x_s = execFmin d a b x_s := rfl
theorem exec_fmax (d : BitVec 6) (a : Src) (b : Src) : exec (.fmax d a b) x_s = execFmax d a b x_s := rfl
theorem exec_fdiv (d : BitVec 6) (a : Src) (b : Src) : exec (.fdiv d a b) x_s = execFdiv d a b x_s := rfl
theorem exec_fsqrt (d : BitVec 6) (a : Src) : exec (.fsqrt d a) x_s = execFsqrt d a x_s := rfl
theorem exec_frcp (d : BitVec 6) (a : Src) : exec (.frcp d a) x_s = execFrcp d a x_s := rfl
theorem exec_frsq (d : BitVec 6) (a : Src) : exec (.frsq d a) x_s = execFrsq d a x_s := rfl
theorem exec_fabs (d : BitVec 6) (a : Src) : exec (.fabs d a) x_s = execFabs d a x_s := rfl
theorem exec_fneg (d : BitVec 6) (a : Src) : exec (.fneg d a) x_s = execFneg d a x_s := rfl
theorem exec_fcmp (c : BitVec 3) (p : BitVec 3) (a : Src) (b : Src) : exec (.fcmp c p a b) x_s = execFcmp c p a b x_s := rfl
theorem exec_fclass (d : BitVec 6) (a : Src) : exec (.fclass d a) x_s = execFclass d a x_s := rfl
theorem exec_fex2 (d : BitVec 6) (a : Src) : exec (.fex2 d a) x_s = execFex2 d a x_s := rfl
theorem exec_flg2 (d : BitVec 6) (a : Src) : exec (.flg2 d a) x_s = execFlg2 d a x_s := rfl
theorem exec_dadd (d : BitVec 6) (a : RegE) (b : RegE) : exec (.dadd d a b) x_s = execDadd d a b x_s := rfl
theorem exec_dsub (d : BitVec 6) (a : RegE) (b : RegE) : exec (.dsub d a b) x_s = execDsub d a b x_s := rfl
theorem exec_dmul (d : BitVec 6) (a : RegE) (b : RegE) : exec (.dmul d a b) x_s = execDmul d a b x_s := rfl
theorem exec_dfma (d : BitVec 6) (a : RegE) (b : RegE) : exec (.dfma d a b) x_s = execDfma d a b x_s := rfl
theorem exec_dfms (d : BitVec 6) (a : RegE) (b : RegE) : exec (.dfms d a b) x_s = execDfms d a b x_s := rfl
theorem exec_dmin (d : BitVec 6) (a : RegE) (b : RegE) : exec (.dmin d a b) x_s = execDmin d a b x_s := rfl
theorem exec_dmax (d : BitVec 6) (a : RegE) (b : RegE) : exec (.dmax d a b) x_s = execDmax d a b x_s := rfl
theorem exec_ddiv (d : BitVec 6) (a : RegE) (b : RegE) : exec (.ddiv d a b) x_s = execDdiv d a b x_s := rfl
theorem exec_dsqrt (d : BitVec 6) (a : RegE) : exec (.dsqrt d a) x_s = execDsqrt d a x_s := rfl
theorem exec_dcmp (c : BitVec 3) (p : BitVec 3) (a : RegE) (b : RegE) : exec (.dcmp c p a b) x_s = execDcmp c p a b x_s := rfl
theorem exec_dabs (d : BitVec 6) (a : RegE) : exec (.dabs d a) x_s = execDabs d a x_s := rfl
theorem exec_dneg (d : BitVec 6) (a : RegE) : exec (.dneg d a) x_s = execDneg d a x_s := rfl
theorem exec_hadd2 (d : BitVec 6) (a : Src) (b : Src) : exec (.hadd2 d a b) x_s = execHadd2 d a b x_s := rfl
theorem exec_hmul2 (d : BitVec 6) (a : Src) (b : Src) : exec (.hmul2 d a b) x_s = execHmul2 d a b x_s := rfl
theorem exec_hfma2 (d : BitVec 6) (a : Src) (b : Src) : exec (.hfma2 d a b) x_s = execHfma2 d a b x_s := rfl
theorem exec_badd2 (d : BitVec 6) (a : Src) (b : Src) : exec (.badd2 d a b) x_s = execBadd2 d a b x_s := rfl
theorem exec_bmul2 (d : BitVec 6) (a : Src) (b : Src) : exec (.bmul2 d a b) x_s = execBmul2 d a b x_s := rfl
theorem exec_bfma2 (d : BitVec 6) (a : Src) (b : Src) : exec (.bfma2 d a b) x_s = execBfma2 d a b x_s := rfl
theorem exec_cvt (d : BitVec 6) (a : RegE) (f : BitVec 3) (t : BitVec 3) (r : BitVec 2) (s : Bool) : exec (.cvt d a f t r s) x_s = execCvt d a f t r s x_s := rfl
theorem exec_pkn (d : BitVec 6) (a : BitVec 6) (b : BitVec 6) (p : BitVec 2) (f : BitVec 2) : exec (.pkn d a b p f) x_s = execPkn d a b p f x_s := rfl
theorem exec_upkn (d : BitVec 6) (a : BitVec 6) (i : BitVec 3) (f : BitVec 2) : exec (.upkn d a i f) x_s = execUpkn d a i f x_s := rfl
theorem exec_dot4E4m3 (d : BitVec 6) (a : Src) (b : Src) : exec (.dot4E4m3 d a b) x_s = execDot4E4m3 d a b x_s := rfl
theorem exec_dot4E5m2 (d : BitVec 6) (a : Src) (b : Src) : exec (.dot4E5m2 d a b) x_s = execDot4E5m2 d a b x_s := rfl
theorem exec_dot8E2m1 (d : BitVec 6) (a : Src) (b : Src) : exec (.dot8E2m1 d a b) x_s = execDot8E2m1 d a b x_s := rfl
theorem exec_dot4S8 (d : BitVec 6) (a : Src) (b : Src) : exec (.dot4S8 d a b) x_s = execDot4S8 d a b x_s := rfl
theorem exec_dot8S4 (d : BitVec 6) (a : Src) (b : Src) : exec (.dot8S4 d a b) x_s = execDot8S4 d a b x_s := rfl
theorem exec_dot2Bf16 (d : BitVec 6) (a : Src) (b : Src) : exec (.dot2Bf16 d a b) x_s = execDot2Bf16 d a b x_s := rfl
theorem exec_dot2F16 (d : BitVec 6) (a : Src) (b : Src) : exec (.dot2F16 d a b) x_s = execDot2F16 d a b x_s := rfl
theorem exec_xaccf (c : Bool) (a : BitVec 6) : exec (.xaccf c a) x_s = execXaccf c a x_s := rfl
theorem exec_xacc (c : Bool) (a : BitVec 6) (b : BitVec 6) : exec (.xacc c a b) x_s = execXacc c a b x_s := rfl
theorem exec_xfma (c : Bool) (a : BitVec 6) (b : BitVec 6) : exec (.xfma c a b) x_s = execXfma c a b x_s := rfl
theorem exec_xrnd (d : BitVec 6) (c : Bool) : exec (.xrnd d c) x_s = execXrnd d c x_s := rfl
theorem exec_xclr (c : Bool) : exec (.xclr c) x_s = execXclr c x_s := rfl
theorem exec_addi (d : BitVec 6) (a : RegE) (i : BitVec 11) : exec (.addi d a i) x_s = execAddi d a i x_s := rfl
theorem exec_andi (d : BitVec 6) (a : RegE) (i : BitVec 11) : exec (.andi d a i) x_s = execAndi d a i x_s := rfl
theorem exec_ori (d : BitVec 6) (a : RegE) (i : BitVec 11) : exec (.ori d a i) x_s = execOri d a i x_s := rfl
theorem exec_xori (d : BitVec 6) (a : RegE) (i : BitVec 11) : exec (.xori d a i) x_s = execXori d a i x_s := rfl
theorem exec_shi (d : BitVec 6) (a : RegE) (k : BitVec 2) (n : BitVec 5) : exec (.shi d a k n) x_s = execShi d a k n x_s := rfl
theorem exec_movlo (d : BitVec 6) (i : BitVec 16) : exec (.movlo d i) x_s = execMovlo d i x_s := rfl
theorem exec_movhi (d : BitVec 6) (i : BitVec 16) : exec (.movhi d i) x_s = execMovhi d i x_s := rfl
theorem exec_cmpi (c : BitVec 3) (p : BitVec 3) (a : RegE) (i : BitVec 11) : exec (.cmpi c p a i) x_s = execCmpi c p a i x_s := rfl
theorem exec_sel (d : BitVec 6) (a : RegE) (b : RegE) (p : BitVec 3) (n : Bool) : exec (.sel d a b p n) x_s = execSel d a b p n x_s := rfl
theorem exec_scale (d : BitVec 6) (a : RegE) (b : RegE) (q : BitVec 2) : exec (.scale d a b q) x_s = execScale d a b q x_s := rfl
theorem exec_srd (d : BitVec 6) (s : BitVec 8) : exec (.srd d s) x_s = execSrd d s x_s := rfl
theorem exec_srw (a : RegE) (s : BitVec 8) : exec (.srw a s) x_s = execSrw a s x_s := rfl
theorem exec_ldca (d : BitVec 6) (i : BitVec 16) : exec (.ldca d i) x_s = execLdca d i x_s := rfl
theorem exec_muli (d : BitVec 6) (a : RegE) (i : BitVec 11) : exec (.muli d a i) x_s = execMuli d a i x_s := rfl
theorem exec_ld (d : BitVec 6) (a : RegE) (z : BitVec 3) (o : BitVec 9) : exec (.ld d a z o) x_s = execLd d a z o x_s := rfl
theorem exec_st (d : BitVec 6) (a : RegE) (z : BitVec 3) (o : BitVec 9) : exec (.st d a z o) x_s = execSt d a z o x_s := rfl
theorem exec_ldo (d : BitVec 6) (a : RegE) (z : BitVec 3) (o : BitVec 2) (s : BitVec 3) : exec (.ldo d a z o s) x_s = execLdo d a z o s x_s := rfl
theorem exec_sto (d : BitVec 6) (a : RegE) (z : BitVec 3) (s : BitVec 3) : exec (.sto d a z s) x_s = execSto d a z s x_s := rfl
theorem exec_atom (d : BitVec 6) (a : RegE) (z : BitVec 3) (s : BitVec 3) (r : Bool) (p : BitVec 5) : exec (.atom d a z s r p) x_s = execAtom d a z s r p x_s := rfl
theorem exec_atomn (d : BitVec 6) (a : RegE) (z : BitVec 3) (s : BitVec 3) (r : Bool) (p : BitVec 5) : exec (.atomn d a z s r p) x_s = execAtomn d a z s r p x_s := rfl
theorem exec_prf (a : RegE) : exec (.prf a) x_s = execPrf a x_s := rfl
theorem exec_prfl (a : RegE) : exec (.prfl a) x_s = execPrfl a x_s := rfl
theorem exec_inv : exec (.inv) x_s = execInv x_s := rfl
theorem exec_xld (c : Bool) (a : RegE) : exec (.xld c a) x_s = execXld c a x_s := rfl
theorem exec_xst (c : Bool) (a : RegE) : exec (.xst c a) x_s = execXst c a x_s := rfl
theorem exec_xaddm (c : Bool) (a : RegE) : exec (.xaddm c a) x_s = execXaddm c a x_s := rfl
theorem exec_bra (o : BitVec 18) (p : BitVec 6) : exec (.bra o p) x_s = execBra o p x_s := rfl
theorem exec_brc (o : BitVec 14) (p : BitVec 6) (n : Bool) (c : BitVec 3) : exec (.brc o p n c) x_s = execBrc o p n c x_s := rfl
theorem exec_call (o : BitVec 18) (p : BitVec 6) : exec (.call o p) x_s = execCall o p x_s := rfl
theorem exec_callp (q : BitVec 16) (e : BitVec 6) : exec (.callp q e) x_s = execCallp q e x_s := rfl
theorem exec_jmpr (a : RegE) (p : BitVec 6) : exec (.jmpr a p) x_s = execJmpr a p x_s := rfl
theorem exec_callr (a : RegE) (p : BitVec 6) : exec (.callr a p) x_s = execCallr a p x_s := rfl
theorem exec_retr (a : BitVec 6) : exec (.retr a) x_s = execRetr a x_s := rfl
theorem exec_jenrol (j : BitVec 3) : exec (.jenrol j) x_s = execJenrol j x_s := rfl
theorem exec_jwait (j : BitVec 3) (p : BitVec 6) : exec (.jwait j p) x_s = execJwait j p x_s := rfl
theorem exec_jleave (j : BitVec 3) : exec (.jleave j) x_s = execJleave j x_s := rfl
theorem exec_exit : exec (.exit) x_s = execExit x_s := rfl
theorem exec_trap (c : BitVec 16) : exec (.trap c) x_s = execTrap c x_s := rfl
theorem exec_rett : exec (.rett) x_s = execRett x_s := rfl
theorem exec_mov16 (d : BitVec 5) (s : BitVec 5) : exec (.mov16 d s) x_s = execMov16 d s x_s := rfl
theorem exec_add16 (d : BitVec 5) (s : BitVec 5) : exec (.add16 d s) x_s = execAdd16 d s x_s := rfl
theorem exec_sub16 (d : BitVec 5) (s : BitVec 5) : exec (.sub16 d s) x_s = execSub16 d s x_s := rfl
theorem exec_mul16 (d : BitVec 5) (s : BitVec 5) : exec (.mul16 d s) x_s = execMul16 d s x_s := rfl
theorem exec_and16 (d : BitVec 5) (s : BitVec 5) : exec (.and16 d s) x_s = execAnd16 d s x_s := rfl
theorem exec_or16 (d : BitVec 5) (s : BitVec 5) : exec (.or16 d s) x_s = execOr16 d s x_s := rfl
theorem exec_xor16 (d : BitVec 5) (s : BitVec 5) : exec (.xor16 d s) x_s = execXor16 d s x_s := rfl
theorem exec_andn16 (d : BitVec 5) (s : BitVec 5) : exec (.andn16 d s) x_s = execAndn16 d s x_s := rfl
theorem exec_shl16 (d : BitVec 5) (s : BitVec 5) : exec (.shl16 d s) x_s = execShl16 d s x_s := rfl
theorem exec_shr16 (d : BitVec 5) (s : BitVec 5) : exec (.shr16 d s) x_s = execShr16 d s x_s := rfl
theorem exec_sra16 (d : BitVec 5) (s : BitVec 5) : exec (.sra16 d s) x_s = execSra16 d s x_s := rfl
theorem exec_fadd16 (d : BitVec 5) (s : BitVec 5) : exec (.fadd16 d s) x_s = execFadd16 d s x_s := rfl
theorem exec_fsub16 (d : BitVec 5) (s : BitVec 5) : exec (.fsub16 d s) x_s = execFsub16 d s x_s := rfl
theorem exec_fmul16 (d : BitVec 5) (s : BitVec 5) : exec (.fmul16 d s) x_s = execFmul16 d s x_s := rfl
theorem exec_fmin16 (d : BitVec 5) (s : BitVec 5) : exec (.fmin16 d s) x_s = execFmin16 d s x_s := rfl
theorem exec_fmax16 (d : BitVec 5) (s : BitVec 5) : exec (.fmax16 d s) x_s = execFmax16 d s x_s := rfl
theorem exec_nop : exec (.nop) x_s = execNop x_s := rfl
theorem exec_guard (n : Bool) (p : BitVec 3) : exec (.guard n p) x_s = execGuard n p x_s := rfl
theorem exec_waitk (k : BitVec 8) : exec (.waitk k) x_s = execWaitk k x_s := rfl
theorem exec_movi (d : BitVec 5) (i : BitVec 5) : exec (.movi d i) x_s = execMovi d i x_s := rfl
theorem exec_addi16 (d : BitVec 5) (i : BitVec 5) : exec (.addi16 d i) x_s = execAddi16 d i x_s := rfl
theorem exec_jwait16 (j : BitVec 3) (p : BitVec 6) : exec (.jwait16 j p) x_s = execJwait16 j p x_s := rfl
theorem exec_ret : exec (.ret) x_s = execRet x_s := rfl
theorem exec_exit16 : exec (.exit16) x_s = execExit16 x_s := rfl
theorem exec_barb16 (b : BitVec 4) : exec (.barb16 b) x_s = execBarb16 b x_s := rfl
theorem exec_yield : exec (.yield) x_s = execYield x_s := rfl
theorem exec_movs16 (d : BitVec 4) (s : BitVec 6) : exec (.movs16 d s) x_s = execMovs16 d s x_s := rfl
theorem exec_movu (d : BitVec 6) (a : Src) : exec (.movu d a) x_s = execMovu d a x_s := rfl
theorem exec_movuf (d : BitVec 6) (a : Src) : exec (.movuf d a) x_s = execMovuf d a x_s := rfl
theorem exec_reduAddS32 (d : BitVec 6) (a : Src) : exec (.reduAddS32 d a) x_s = execReduAddS32 d a x_s := rfl
theorem exec_reduAddF32 (d : BitVec 6) (a : Src) : exec (.reduAddF32 d a) x_s = execReduAddF32 d a x_s := rfl
theorem exec_reduMinS (d : BitVec 6) (a : Src) : exec (.reduMinS d a) x_s = execReduMinS d a x_s := rfl
theorem exec_reduMaxS (d : BitVec 6) (a : Src) : exec (.reduMaxS d a) x_s = execReduMaxS d a x_s := rfl
theorem exec_reduMinZ (d : BitVec 6) (a : Src) : exec (.reduMinZ d a) x_s = execReduMinZ d a x_s := rfl
theorem exec_reduMaxZ (d : BitVec 6) (a : Src) : exec (.reduMaxZ d a) x_s = execReduMaxZ d a x_s := rfl
theorem exec_reduAnd (d : BitVec 6) (a : Src) : exec (.reduAnd d a) x_s = execReduAnd d a x_s := rfl
theorem exec_reduOr (d : BitVec 6) (a : Src) : exec (.reduOr d a) x_s = execReduOr d a x_s := rfl
theorem exec_reduXor (d : BitVec 6) (a : Src) : exec (.reduXor d a) x_s = execReduXor d a x_s := rfl
theorem exec_reduFmin (d : BitVec 6) (a : Src) : exec (.reduFmin d a) x_s = execReduFmin d a x_s := rfl
theorem exec_reduFmax (d : BitVec 6) (a : Src) : exec (.reduFmax d a) x_s = execReduFmax d a x_s := rfl
theorem exec_reduAmaxF32 (d : BitVec 6) (a : Src) : exec (.reduAmaxF32 d a) x_s = execReduAmaxF32 d a x_s := rfl
theorem exec_movs (d : BitVec 6) (i : BitVec 6) : exec (.movs d i) x_s = execMovs d i x_s := rfl
theorem exec_qxch (d : BitVec 6) (a : Src) (i : BitVec 6) : exec (.qxch d a i) x_s = execQxch d a i x_s := rfl
theorem exec_shfl (d : BitVec 6) (a : Src) (b : RegE) : exec (.shfl d a b) x_s = execShfl d a b x_s := rfl
theorem exec_shup (d : BitVec 6) (a : Src) (i : BitVec 6) : exec (.shup d a i) x_s = execShup d a i x_s := rfl
theorem exec_shdn (d : BitVec 6) (a : Src) (i : BitVec 6) : exec (.shdn d a i) x_s = execShdn d a i x_s := rfl
theorem exec_shxr (d : BitVec 6) (a : Src) (i : BitVec 6) : exec (.shxr d a i) x_s = execShxr d a i x_s := rfl
theorem exec_vote (d : BitVec 6) (r : BitVec 3) : exec (.vote d r) x_s = execVote d r x_s := rfl
theorem exec_vany (q : BitVec 3) (r : BitVec 3) : exec (.vany q r) x_s = execVany q r x_s := rfl
theorem exec_vall (q : BitVec 3) (r : BitVec 3) : exec (.vall q r) x_s = execVall q r x_s := rfl
theorem exec_scanAddS32 (d : BitVec 6) (a : Src) : exec (.scanAddS32 d a) x_s = execScanAddS32 d a x_s := rfl
theorem exec_scanAddF32 (d : BitVec 6) (a : Src) : exec (.scanAddF32 d a) x_s = execScanAddF32 d a x_s := rfl
theorem exec_elect (p : BitVec 3) : exec (.elect p) x_s = execElect p x_s := rfl
theorem exec_spawn (a : RegE) (i : BitVec 6) : exec (.spawn a i) x_s = execSpawn a i x_s := rfl
theorem exec_binfl : exec (.binfl) x_s = execBinfl x_s := rfl
theorem exec_launch (d : BitVec 6) (a : RegE) : exec (.launch d a) x_s = execLaunch d a x_s := rfl
theorem exec_join (a : Src) : exec (.join a) x_s = execJoin a x_s := rfl
theorem exec_barb (a : Src) (i : BitVec 6) : exec (.barb a i) x_s = execBarb a i x_s := rfl
theorem exec_bara (a : Src) (i : BitVec 6) : exec (.bara a i) x_s = execBara a i x_s := rfl
theorem exec_barw (a : Src) (i : BitVec 6) : exec (.barw a i) x_s = execBarw a i x_s := rfl
theorem exec_barc (a : Src) (i : BitVec 6) : exec (.barc a i) x_s = execBarc a i x_s := rfl
theorem exec_barlast (p : BitVec 3) (a : Src) (i : BitVec 6) : exec (.barlast p a i) x_s = execBarlast p a i x_s := rfl
theorem exec_cpy (d : BitVec 6) (a : BitVec 6) (b : BitVec 6) (k : BitVec 3) (rec : Bool) : exec (.cpy d a b k rec) x_s = execCpy d a b k rec x_s := rfl
theorem exec_cpyd (a : BitVec 6) (k : BitVec 3) (rec : Bool) : exec (.cpyd a k rec) x_s = execCpyd a k rec x_s := rfl
theorem exec_cpyt (d : BitVec 6) (a : BitVec 6) (b : BitVec 6) (k : BitVec 3) (rec : Bool) : exec (.cpyt d a b k rec) x_s = execCpyt d a b k rec x_s := rfl
theorem exec_gathd (a : BitVec 6) (k : BitVec 3) (rec : Bool) : exec (.gathd a k rec) x_s = execGathd a k rec x_s := rfl
theorem exec_tballoc (d : BitVec 6) (q : BitVec 3) : exec (.tballoc d q) x_s = execTballoc d q x_s := rfl
theorem exec_tbinit (d : BitVec 6) (a : RegE) (b : RegE) : exec (.tbinit d a b) x_s = execTbinit d a b x_s := rfl
theorem exec_tbarr (a : RegE) : exec (.tbarr a) x_s = execTbarr a x_s := rfl
theorem exec_tbwait (a : RegE) (q : Bool) : exec (.tbwait a q) x_s = execTbwait a q x_s := rfl
theorem exec_tbref (a : RegE) : exec (.tbref a) x_s = execTbref a x_s := rfl
theorem exec_tbfree (a : RegE) : exec (.tbfree a) x_s = execTbfree a x_s := rfl
theorem exec_pgpop (d : BitVec 6) : exec (.pgpop d) x_s = execPgpop d x_s := rfl
theorem exec_pgpost (a : RegE) : exec (.pgpost a) x_s = execPgpost a x_s := rfl
theorem exec_pgcnt (d : BitVec 6) : exec (.pgcnt d) x_s = execPgcnt d x_s := rfl
theorem exec_aestart (a : RegE) (b : RegE) : exec (.aestart a b) x_s = execAestart a b x_s := rfl
theorem exec_aestop : exec (.aestop) x_s = execAestop x_s := rfl
theorem exec_qmap (d : BitVec 6) (i : BitVec 6) : exec (.qmap d i) x_s = execQmap d i x_s := rfl
theorem exec_qunmap (d : BitVec 6) : exec (.qunmap d) x_s = execQunmap d x_s := rfl
theorem exec_qtst (p : BitVec 3) (i : BitVec 6) : exec (.qtst p i) x_s = execQtst p i x_s := rfl
theorem exec_qpush (a : RegE) (i : BitVec 6) : exec (.qpush a i) x_s = execQpush a i x_s := rfl
theorem exec_qclose (i : BitVec 6) : exec (.qclose i) x_s = execQclose i x_s := rfl
theorem exec_qopen (i : BitVec 6) : exec (.qopen i) x_s = execQopen i x_s := rfl
theorem exec_mmaE4m3 (a : BitVec 6) (b : BitVec 6) (k : BitVec 3) (rec : Bool) : exec (.mmaE4m3 a b k rec) x_s = execMmaE4m3 a b k rec x_s := rfl
theorem exec_mmaE5m2 (a : BitVec 6) (b : BitVec 6) (k : BitVec 3) (rec : Bool) : exec (.mmaE5m2 a b k rec) x_s = execMmaE5m2 a b k rec x_s := rfl
theorem exec_mmaE2m1 (a : BitVec 6) (b : BitVec 6) (k : BitVec 3) (rec : Bool) : exec (.mmaE2m1 a b k rec) x_s = execMmaE2m1 a b k rec x_s := rfl
theorem exec_mmaS8 (a : BitVec 6) (k : BitVec 3) (rec : Bool) : exec (.mmaS8 a k rec) x_s = execMmaS8 a k rec x_s := rfl
theorem exec_mmaS4 (a : BitVec 6) (k : BitVec 3) (rec : Bool) : exec (.mmaS4 a k rec) x_s = execMmaS4 a k rec x_s := rfl
theorem exec_mmaBf16 (a : BitVec 6) (k : BitVec 3) (rec : Bool) : exec (.mmaBf16 a k rec) x_s = execMmaBf16 a k rec x_s := rfl
theorem exec_mmaF16 (a : BitVec 6) (k : BitVec 3) (rec : Bool) : exec (.mmaF16 a k rec) x_s = execMmaF16 a k rec x_s := rfl
theorem exec_mmaF64 (a : BitVec 6) (k : BitVec 3) (rec : Bool) : exec (.mmaF64 a k rec) x_s = execMmaF64 a k rec x_s := rfl
theorem exec_mmv (a : BitVec 6) (k : BitVec 3) (rec : Bool) : exec (.mmv a k rec) x_s = execMmv a k rec x_s := rfl
theorem exec_drain (a : BitVec 6) (k : BitVec 3) (rec : Bool) : exec (.drain a k rec) x_s = execDrain a k rec x_s := rfl
theorem exec_maclr (i : BitVec 6) : exec (.maclr i) x_s = execMaclr i x_s := rfl
theorem exec_mstat (d : BitVec 6) (i : BitVec 6) : exec (.mstat d i) x_s = execMstat d i x_s := rfl
theorem exec_pload (d : BitVec 6) (a : BitVec 6) (k : BitVec 3) (rec : Bool) : exec (.pload d a k rec) x_s = execPload d a k rec x_s := rfl
theorem exec_pevict (a : RegE) : exec (.pevict a) x_s = execPevict a x_s := rfl
theorem exec_pres (p : BitVec 3) (a : RegE) : exec (.pres p a) x_s = execPres p a x_s := rfl
theorem exec_pstat (d : BitVec 6) (a : RegE) : exec (.pstat d a) x_s = execPstat d a x_s := rfl
theorem exec_walk (d : BitVec 6) (a : BitVec 6) (k : BitVec 3) : exec (.walk d a k) x_s = execWalk d a k x_s := rfl
theorem exec_wstat (d : BitVec 6) (a : RegE) : exec (.wstat d a) x_s = execWstat d a x_s := rfl
theorem exec_wcancel (a : RegE) : exec (.wcancel a) x_s = execWcancel a x_s := rfl
theorem exec_wqry (p : BitVec 3) (a : RegE) (b : RegE) : exec (.wqry p a b) x_s = execWqry p a b x_s := rfl
theorem exec_lbdef (d : BitVec 6) (a : RegE) : exec (.lbdef d a) x_s = execLbdef d a x_s := rfl
theorem exec_ldl (d : BitVec 6) (a : RegE) (b : RegE) : exec (.ldl d a b) x_s = execLdl d a b x_s := rfl
theorem exec_stl (d : BitVec 6) (a : RegE) (b : RegE) : exec (.stl d a b) x_s = execStl d a b x_s := rfl
theorem exec_lbfree (a : RegE) : exec (.lbfree a) x_s = execLbfree a x_s := rfl
theorem exec_fence (k : BitVec 2) (c : Bool) (s : BitVec 3) : exec (.fence k c s) x_s = execFence k c s x_s := rfl
theorem exec_fencex (x : BitVec 4) (y : BitVec 4) (s : BitVec 3) : exec (.fencex x y s) x_s = execFencex x y s x_s := rfl
theorem exec_tick (d : BitVec 6) : exec (.tick d) x_s = execTick d x_s := rfl
theorem exec_ticko (d : BitVec 6) : exec (.ticko d) x_s = execTicko d x_s := rfl
theorem exec_pmcfg (c : BitVec 2) (a : RegE) : exec (.pmcfg c a) x_s = execPmcfg c a x_s := rfl
theorem exec_pmrd (d : BitVec 6) (c : BitVec 2) : exec (.pmrd d c) x_s = execPmrd d c x_s := rfl
theorem exec_tdrd (d : BitVec 6) (a : Src) : exec (.tdrd d a) x_s = execTdrd d a x_s := rfl
theorem exec_bankcfg (p : BitVec 3) (a : Src) (b : Src) : exec (.bankcfg p a b) x_s = execBankcfg p a b x_s := rfl
theorem exec_taskbeg (a : RegE) (b : Src) : exec (.taskbeg a b) x_s = execTaskbeg a b x_s := rfl
theorem exec_taskend : exec (.taskend) x_s = execTaskend x_s := rfl
theorem exec_taskrng (a : RegE) (b : Src) : exec (.taskrng a b) x_s = execTaskrng a b x_s := rfl
theorem exec_taskq (d : BitVec 6) : exec (.taskq d) x_s = execTaskq d x_s := rfl
theorem exec_migrate (p : BitVec 3) (a : RegE) : exec (.migrate p a) x_s = execMigrate p a x_s := rfl
theorem exec_brk : exec (.brk) x_s = execBrk x_s := rfl
theorem exec_rpbeg (a : RegE) : exec (.rpbeg a) x_s = execRpbeg a x_s := rfl
theorem exec_rpend (p : BitVec 3) : exec (.rpend p) x_s = execRpend p x_s := rfl
theorem exec_wscap (a : RegE) : exec (.wscap a) x_s = execWscap a x_s := rfl
theorem exec_wsrst (a : RegE) : exec (.wsrst a) x_s = execWsrst a x_s := rfl
theorem exec_setrpc (a : Src) (b : Src) : exec (.setrpc a b) x_s = execSetrpc a b x_s := rfl
theorem exec_texit (a : Src) : exec (.texit a) x_s = execTexit a x_s := rfl
theorem exec_tsvc : exec (.tsvc) x_s = execTsvc x_s := rfl
theorem exec_coll (a : BitVec 6) (k : BitVec 3) : exec (.coll a k) x_s = execColl a k x_s := rfl
theorem exec_signal (a : RegE) (b : Src) : exec (.signal a b) x_s = execSignal a b x_s := rfl
theorem exec_translationCheckDone (w : Nat) : exec (.translationCheckDone w) x_s = execTranslationCheckDone w x_s := rfl
theorem exec_pageWalkReadArrives (k : Nat) : exec (.pageWalkReadArrives k) x_s = execPageWalkReadArrives k x_s := rfl
theorem exec_loadValueArrives (k : Nat) : exec (.loadValueArrives k) x_s = execLoadValueArrives k x_s := rfl
theorem exec_l1Fill (k : Nat) : exec (.l1Fill k) x_s = execL1Fill k x_s := rfl
theorem exec_storeAckDiePoint (k : Nat) : exec (.storeAckDiePoint k) x_s = execStoreAckDiePoint k x_s := rfl
theorem exec_storeAckHome (k : Nat) : exec (.storeAckHome k) x_s = execStoreAckHome k x_s := rfl
theorem exec_requestServedHomeSlice (k : Nat) : exec (.requestServedHomeSlice k) x_s = execRequestServedHomeSlice k x_s := rfl
theorem exec_xaddmLinePerformed (k : Nat) : exec (.xaddmLinePerformed k) x_s = execXaddmLinePerformed k x_s := rfl
theorem exec_scopeWriteTakesEffect (k : Nat) : exec (.scopeWriteTakesEffect k) x_s = execScopeWriteTakesEffect k x_s := rfl
theorem exec_joinRelease (w j : Nat) : exec (.joinRelease w j) x_s = execJoinRelease w j x_s := rfl
theorem exec_barrierComplete (cluster : Bool) (o i : Nat) : exec (.barrierComplete cluster o i) x_s = execBarrierComplete cluster o i x_s := rfl
theorem exec_joinSatisfied (w : Nat) : exec (.joinSatisfied w) x_s = execJoinSatisfied w x_s := rfl
theorem exec_warpEntersActiveSet (w : Nat) : exec (.warpEntersActiveSet w) x_s = execWarpEntersActiveSet w x_s := rfl
theorem exec_binTimerExpire (c i : Nat) : exec (.binTimerExpire c i) x_s = execBinTimerExpire c i x_s := rfl
theorem exec_binFormWarp (c i : Nat) : exec (.binFormWarp c i) x_s = execBinFormWarp c i x_s := rfl
theorem exec_blockPlace (g : Nat) : exec (.blockPlace g) x_s = execBlockPlace g x_s := rfl
theorem exec_swapOut (b : Nat) : exec (.swapOut b) x_s = execSwapOut b x_s := rfl
theorem exec_swapIn (b : Nat) : exec (.swapIn b) x_s = execSwapIn b x_s := rfl
theorem exec_gridTimeLimit (g : Nat) : exec (.gridTimeLimit g) x_s = execGridTimeLimit g x_s := rfl
theorem exec_bankModeChangeDone (c : Nat) : exec (.bankModeChangeDone c) x_s = execBankModeChangeDone c x_s := rfl
theorem exec_copyChunkAcked (k : Nat) : exec (.copyChunkAcked k) x_s = execCopyChunkAcked k x_s := rfl
theorem exec_copyComplete (k : Nat) : exec (.copyComplete k) x_s = execCopyComplete k x_s := rfl
theorem exec_engineFaultServiceReply (e : EngineRef) (ok : Bool) : exec (.engineFaultServiceReply e ok) x_s = execEngineFaultServiceReply e ok x_s := rfl
theorem exec_mmaKstepEnd (c : Nat) : exec (.mmaKstepEnd c) x_s = execMmaKstepEnd c x_s := rfl
theorem exec_drainStart (c : Nat) : exec (.drainStart c) x_s = execDrainStart c x_s := rfl
theorem exec_drainComplete (k : Nat) : exec (.drainComplete k) x_s = execDrainComplete k x_s := rfl
theorem exec_maclrAtHead (c : Nat) : exec (.maclrAtHead c) x_s = execMaclrAtHead c x_s := rfl
theorem exec_parcelLoadComplete (c : Nat) : exec (.parcelLoadComplete c) x_s = execParcelLoadComplete c x_s := rfl
theorem exec_parcelBecomesAbsent (c q : Nat) : exec (.parcelBecomesAbsent c q) x_s = execParcelBecomesAbsent c q x_s := rfl
theorem exec_walkStart (c i : Nat) : exec (.walkStart c i) x_s = execWalkStart c i x_s := rfl
theorem exec_walkRoundEnd (c : Nat) : exec (.walkRoundEnd c) x_s = execWalkRoundEnd c x_s := rfl
theorem exec_commitOfficeReply (w : Nat) : exec (.commitOfficeReply w) x_s = execCommitOfficeReply w x_s := rfl
theorem exec_taskCommitStart (g : Nat) : exec (.taskCommitStart g) x_s = execTaskCommitStart g x_s := rfl
theorem exec_taskCommitComplete (g : Nat) : exec (.taskCommitComplete g) x_s = execTaskCommitComplete g x_s := rfl
theorem exec_tsvcReplyResume (w : Nat) (m : Resumption) : exec (.tsvcReplyResume w m) x_s = execTsvcReplyResume w m x_s := rfl
theorem exec_tsvcReplyEnd (w : Nat) (m : BitVec 32) (status detail : BitVec 16) : exec (.tsvcReplyEnd w m status detail) x_s = execTsvcReplyEnd w m status detail x_s := rfl
theorem exec_comparatorBreakpoint (w : Nat) : exec (.comparatorBreakpoint w) x_s = execComparatorBreakpoint w x_s := rfl
theorem exec_debugResume (w : DebugTurn) : exec (.debugResume w) x_s = execDebugResume w x_s := rfl
theorem exec_preemptRequest (x n : Nat) (die : Option Nat) : exec (.preemptRequest x n die) x_s = execPreemptRequest x n die x_s := rfl
theorem exec_coreVacated (c : Nat) : exec (.coreVacated c) x_s = execCoreVacated c x_s := rfl
theorem exec_contextSwitch (x : Nat) : exec (.contextSwitch x) x_s = execContextSwitch x x_s := rfl
theorem exec_uncorrectableError (u : FailUnit) : exec (.uncorrectableError u) x_s = execUncorrectableError u x_s := rfl
theorem exec_softErrorCorrected : exec (.softErrorCorrected) x_s = execSoftErrorCorrected x_s := rfl
theorem exec_sccRestart (c : Nat) (entry : BitVec 32) (g : Option Nat) : exec (.sccRestart c entry g) x_s = execSccRestart c entry g x_s := rfl
theorem exec_debugStopRequest (t : BitVec 64) : exec (.debugStopRequest t) x_s = execDebugStopRequest t x_s := rfl
theorem exec_clockStop : exec (.clockStop) x_s = execClockStop x_s := rfl
theorem exec_debugStopRelease : exec (.debugStopRelease) x_s = execDebugStopRelease x_s := rfl
theorem exec_watchpointRangeWrite (c n : Nat) (base limit : BitVec 64) : exec (.watchpointRangeWrite c n base limit) x_s = execWatchpointRangeWrite c n base limit x_s := rfl
theorem exec_traceRingConfig (c : Nat) (ring : Option (BitVec 48 × Nat)) : exec (.traceRingConfig c ring) x_s = execTraceRingConfig c ring x_s := rfl
theorem exec_replayArmed (w : Nat) : exec (.replayArmed w) x_s = execReplayArmed w x_s := rfl
theorem exec_replayEnforceTimeout (x line : Nat) : exec (.replayEnforceTimeout x line) x_s = execReplayEnforceTimeout x line x_s := rfl
theorem exec_capturePageSaved (x page : Nat) : exec (.capturePageSaved x page) x_s = execCapturePageSaved x page x_s := rfl
theorem exec_queueSetup (q : Nat) (base : BitVec 48) (k x prio weight : Nat) : exec (.queueSetup q base k x prio weight) x_s = execQueueSetup q base k x prio weight x_s := rfl
theorem exec_queueReset (q : Nat) : exec (.queueReset q) x_s = execQueueReset q x_s := rfl
theorem exec_doorbellWrite (off size : Nat) (v : BitVec 64) : exec (.doorbellWrite off size v) x_s = execDoorbellWrite off size v x_s := rfl
theorem exec_packetLaunch (q : Nat) : exec (.packetLaunch q) x_s = execPacketLaunch q x_s := rfl
theorem exec_packetWaitSignal (q : Nat) : exec (.packetWaitSignal q) x_s = execPacketWaitSignal q x_s := rfl
theorem exec_waitSignalMet (q i : Nat) : exec (.waitSignalMet q i) x_s = execWaitSignalMet q i x_s := rfl
theorem exec_packetSetSignal (q : Nat) : exec (.packetSetSignal q) x_s = execPacketSetSignal q x_s := rfl
theorem exec_tlbInvalidateRange (x : Nat) (va len : BitVec 64) : exec (.tlbInvalidateRange x va len) x_s = execTlbInvalidateRange x va len x_s := rfl
theorem exec_dieOnline (d : Nat) : exec (.dieOnline d) x_s = execDieOnline d x_s := rfl
theorem exec_dieOffline (d : Nat) : exec (.dieOffline d) x_s = execDieOffline d x_s := rfl
theorem exec_liveUpdate (code : List (BitVec 8)) (cert : Cert) : exec (.liveUpdate code cert) x_s = execLiveUpdate code cert x_s := rfl
theorem exec_peerAccess (a : PeerOp) (pa : BitVec 39) (n : Nat) (v : BitVec 64) : exec (.peerAccess a pa n v) x_s = execPeerAccess a pa n v x_s := rfl
theorem exec_peerFailure (i : Nat) : exec (.peerFailure i) x_s = execPeerFailure i x_s := rfl
theorem exec_collectiveComplete (k : Nat) : exec (.collectiveComplete k) x_s = execCollectiveComplete k x_s := rfl
theorem exec_rdmaWrite (qp x : Nat) (va : BitVec 64) (bytes : List (BitVec 8)) : exec (.rdmaWrite qp x va bytes) x_s = execRdmaWrite qp x va bytes x_s := rfl
theorem exec_rdmaRead (qp x : Nat) (va : BitVec 64) (n : Nat) : exec (.rdmaRead qp x va n) x_s = execRdmaRead qp x va n x_s := rfl
theorem exec_rdmaSend (qp : Nat) (bytes : List (BitVec 8)) : exec (.rdmaSend qp bytes) x_s = execRdmaSend qp bytes x_s := rfl
theorem exec_rdmaReceive (qp x : Nat) (va : BitVec 64) : exec (.rdmaReceive qp x va) x_s = execRdmaReceive qp x va x_s := rfl
theorem exec_hostRead (pa : BitVec 48) (n : Nat) : exec (.hostRead pa n) x_s = execHostRead pa n x_s := rfl
theorem exec_hostWrite (pa : BitVec 48) (bytes : List (BitVec 8)) : exec (.hostWrite pa bytes) x_s = execHostWrite pa bytes x_s := rfl
theorem exec_attestationRequest (nonce : BitVec 256) (x : Option Nat) : exec (.attestationRequest nonce x) x_s = execAttestationRequest nonce x x_s := rfl
theorem exec_boot (a b : SignedCode) : exec (.boot a b) x_s = execBoot a b x_s := rfl
theorem exec_powerClockStep (up : Bool) : exec (.powerClockStep up) x_s = execPowerClockStep up x_s := rfl
theorem exec_hostVisible (k : Nat) : exec (.hostVisible k) x_s = execHostVisible k x_s := rfl
theorem exec_restanteWaitTimeout (w : Nat) : exec (.restanteWaitTimeout w) x_s = execRestanteWaitTimeout w x_s := rfl
theorem exec_relayBringUp (own : BitVec 8) (peers : List (BitVec 8)) : exec (.relayBringUp own peers) x_s = execRelayBringUp own peers x_s := rfl
theorem exec_queuePairSetup (qp mtu : Nat) : exec (.queuePairSetup qp mtu) x_s = execQueuePairSetup qp mtu x_s := rfl
theorem exec_rootTableSet (x : Nat) (pa : BitVec 48) : exec (.rootTableSet x pa) x_s = execRootTableSet x pa x_s := rfl
theorem exec_quotaSet (x n pool : Nat) : exec (.quotaSet x n pool) x_s = execQuotaSet x n pool x_s := rfl
theorem exec_peerGroupSet (x : Nat) (g : BitVec 32) (rank ranks : Nat) : exec (.peerGroupSet x g rank ranks) x_s = execPeerGroupSet x g rank ranks x_s := rfl
theorem exec_hostServiceRegister (x : Nat) : exec (.hostServiceRegister x) x_s = execHostServiceRegister x x_s := rfl
theorem exec_contextKeyRegister (x : Nat) (key : BitVec 512) : exec (.contextKeyRegister x key) x_s = execContextKeyRegister x key x_s := rfl
theorem exec_debugSessionAttach (x : Nat) : exec (.debugSessionAttach x) x_s = execDebugSessionAttach x x_s := rfl
theorem exec_linkEnumeration (i : Nat) (base : BitVec 64) : exec (.linkEnumeration i base) x_s = execLinkEnumeration i base x_s := rfl

end Sys2Proof.Machine
end

