-- ==== Sys2Proof/Laws/Encoding.lean ====
section
/-! SUPPORT. The round trip of every layout of R65 to R83: reading the fields of a packed word gives the packed values back. One
lemma per layout says so, and PerInstr.lean picks the layout of each instruction. -/

set_option Elab.async false

namespace Sys2Proof

theorem pack_nil : pack [] = 0 := rfl

theorem pack_cons (n v : Nat) (r : List (Nat × Nat)) : pack ((n, v) :: r) = v % 2 ^ n + 2 ^ n * pack r := rfl

theorem fld_zero (lo m : Nat) : fld 0 lo m = 0 := by simp [fld]

theorem pack_div (n v : Nat) (r : List (Nat × Nat)) : pack ((n, v) :: r) / 2 ^ n = pack r := by
  have h := Nat.mod_lt v (Nat.two_pow_pos n)
  rw [pack_cons, Nat.add_mul_div_left _ _ (Nat.two_pow_pos n), Nat.div_eq_of_lt h, Nat.zero_add]

/-- Fields above the first do not see it. -/
theorem fld_skip {n lo : Nat} (v : Nat) (r : List (Nat × Nat)) (m : Nat) (h : n ≤ lo) :
    fld (pack ((n, v) :: r)) lo m = fld (pack r) (lo - n) m := by
  unfold fld
  obtain ⟨k, rfl⟩ := Nat.exists_eq_add_of_le h
  rw [Nat.add_sub_cancel_left, Nat.pow_add, ← Nat.div_div_eq_div_mul, pack_div]

/-- The low bits of the first field are its own. -/
theorem fld_take {n m : Nat} (v : Nat) (r : List (Nat × Nat)) (h : m ≤ n) : fld (pack ((n, v) :: r)) 0 m = v % 2 ^ m := by
  obtain ⟨k, rfl⟩ := Nat.exists_eq_add_of_le h
  unfold fld
  rw [pack_cons, Nat.pow_zero, Nat.div_one, Nat.pow_add, Nat.mul_assoc, Nat.add_mul_mod_self_left,
    Nat.mod_mul_right_mod]

/-- A field over several zero fields reads as 0. -/
theorem fld_span {n m : Nat} (r : List (Nat × Nat)) (h : n < m) :
    fld (pack ((n, 0) :: r)) 0 m = 2 ^ n * fld (pack r) 0 (m - n) := by
  obtain ⟨k, rfl⟩ := Nat.exists_eq_add_of_le (Nat.le_of_lt h)
  unfold fld
  rw [pack_cons, Nat.add_sub_cancel_left, Nat.pow_zero, Nat.div_one, Nat.div_one, Nat.pow_add, Nat.zero_mod, Nat.zero_add,
    Nat.mul_mod_mul_left]

/-- The widths of a layout, summed. -/
def total : List (Nat × Nat) → Nat
  | [] => 0
  | (n, _) :: r => n + total r

theorem pack_lt : (l : List (Nat × Nat)) → pack l < 2 ^ total l
  | [] => by simp [pack, total]
  | (n, v) :: r => by
    have h := Nat.mod_lt v (Nat.two_pow_pos n)
    have ih := pack_lt r
    rw [pack_cons, total, Nat.pow_add]
    calc v % 2 ^ n + 2 ^ n * pack r < 2 ^ n + 2 ^ n * pack r := Nat.add_lt_add_right h _
      _ = 2 ^ n * (pack r + 1) := by rw [Nat.mul_add, Nat.mul_one, Nat.add_comm]
      _ ≤ 2 ^ n * 2 ^ total r := Nat.mul_le_mul_left _ ih

theorem ofNat_toNat_mod {n : Nat} (x : BitVec n) : BitVec.ofNat n (x.toNat % 2 ^ n) = x := by
  apply BitVec.eq_of_toNat_eq
  simp

theorem bool_of_bit (b : Bool) : (b.toNat % 2 ^ 1 == 1) = b := by cases b <;> rfl

/-- Bits of a word that fits in 32 bits, from its two halfwords. -/
theorem halves {w : Nat} (h : w < 2 ^ 32) :
    (BitVec.ofNat 16 w).toNat + 65536 * (BitVec.ofNat 16 (w / 65536)).toNat = w := by
  simp only [BitVec.toNat_ofNat]; omega

theorem flag_low (w : Nat) : flag (BitVec.ofNat 16 w).toNat 0 = flag w 0 := by
  simp only [flag, fld, BitVec.toNat_ofNat, Nat.pow_zero, Nat.div_one, Nat.pow_one]
  congr 1; omega

/-- A 32-bit word decodes through its class. -/
theorem decode_word {w : Nat} (h : w < 2 ^ 32) (hf : flag w 0 = true) :
    decode (BitVec.ofNat 16 w) (BitVec.ofNat 16 (w / 65536)) = keepWf (decodeWord w) := by
  unfold decode; rw [flag_low, hf, if_pos rfl, halves h]

/-- A 16-bit word decodes without the halfword after it. -/
theorem decode_half {w : Nat} (h : w < 2 ^ 16) (hf : flag w 0 = false) (hi : BitVec 16) :
    decode (BitVec.ofNat 16 w) hi = keepWf (decodeHalf w) := by
  unfold decode; rw [flag_low, hf, if_neg Bool.false_ne_true]
  congr 2; simp only [BitVec.toNat_ofNat]; omega

theorem decDab_enc (mk : BitVec 6 → Src → Src → Instr) (low fn : Nat) (d : BitVec 6) (a : Src) (b : Src) :
    decDab mk (encDab low fn d a b) = some (mk d a b) := by
  simp only [decDab, encDab, bits, flag, fld_skip, fld_take, Nat.reduceLeDiff, Nat.reduceSub, ofNat_toNat_mod, bool_of_bit]

theorem encDab_lt (low fn : Nat) (d : BitVec 6) (a : Src) (b : Src) : encDab low fn d a b < 2 ^ 32 := pack_lt _

theorem encDab_low (low fn : Nat) (d : BitVec 6) (a : Src) (b : Src) : fld (encDab low fn d a b) 0 4 = low % 2 ^ 4 := fld_take _ _ (Nat.le_refl _)

theorem encDab_flag (low fn : Nat) (d : BitVec 6) (a : Src) (b : Src) : flag (encDab low fn d a b) 0 = (low % 2 ^ 1 == 1) := by
  unfold flag encDab; rw [fld_take _ _ (by decide)]

theorem encDab_fn (low fn : Nat) (d : BitVec 6) (a : Src) (b : Src) : fld (encDab low fn d a b) 4 6 = fn % 2 ^ 6 := by
  unfold encDab; rw [fld_skip _ _ _ (by decide), fld_take _ _ (by decide)]

theorem decDa_enc (mk : BitVec 6 → Src → Instr) (low fn : Nat) (d : BitVec 6) (a : Src) :
    decDa mk (encDa low fn d a) = some (mk d a) := by
  simp only [decDa, encDa, bits, flag, fld_skip, fld_take, Nat.reduceLeDiff, Nat.reduceSub, ofNat_toNat_mod, bool_of_bit]
  exact if_pos (by decide)

theorem encDa_lt (low fn : Nat) (d : BitVec 6) (a : Src) : encDa low fn d a < 2 ^ 32 := pack_lt _

theorem encDa_low (low fn : Nat) (d : BitVec 6) (a : Src) : fld (encDa low fn d a) 0 4 = low % 2 ^ 4 := fld_take _ _ (Nat.le_refl _)

theorem encDa_flag (low fn : Nat) (d : BitVec 6) (a : Src) : flag (encDa low fn d a) 0 = (low % 2 ^ 1 == 1) := by
  unfold flag encDa; rw [fld_take _ _ (by decide)]

theorem encDa_fn (low fn : Nat) (d : BitVec 6) (a : Src) : fld (encDa low fn d a) 4 6 = fn % 2 ^ 6 := by
  unfold encDa; rw [fld_skip _ _ _ (by decide), fld_take _ _ (by decide)]

theorem decDpp_enc (mk : BitVec 6 → RegE → RegE → Instr) (low fn : Nat) (d : BitVec 6) (a : RegE) (b : RegE) :
    decDpp mk (encDpp low fn d a b) = some (mk d a b) := by
  simp only [decDpp, encDpp, bits, flag, fld_skip, fld_take, fld_span, Nat.reduceLT, Nat.reduceLeDiff, Nat.reduceSub, ofNat_toNat_mod, bool_of_bit]
  exact if_pos (by decide)

theorem encDpp_lt (low fn : Nat) (d : BitVec 6) (a : RegE) (b : RegE) : encDpp low fn d a b < 2 ^ 32 := pack_lt _

theorem encDpp_low (low fn : Nat) (d : BitVec 6) (a : RegE) (b : RegE) : fld (encDpp low fn d a b) 0 4 = low % 2 ^ 4 := fld_take _ _ (Nat.le_refl _)

theorem encDpp_flag (low fn : Nat) (d : BitVec 6) (a : RegE) (b : RegE) : flag (encDpp low fn d a b) 0 = (low % 2 ^ 1 == 1) := by
  unfold flag encDpp; rw [fld_take _ _ (by decide)]

theorem encDpp_fn (low fn : Nat) (d : BitVec 6) (a : RegE) (b : RegE) : fld (encDpp low fn d a b) 4 6 = fn % 2 ^ 6 := by
  unfold encDpp; rw [fld_skip _ _ _ (by decide), fld_take _ _ (by decide)]

theorem decDpb_enc (mk : BitVec 6 → RegE → Src → Instr) (low fn : Nat) (d : BitVec 6) (a : RegE) (b : Src) :
    decDpb mk (encDpb low fn d a b) = some (mk d a b) := by
  simp only [decDpb, encDpb, bits, flag, fld_skip, fld_take, Nat.reduceLeDiff, Nat.reduceSub, ofNat_toNat_mod, bool_of_bit]
  exact if_pos (by decide)

theorem encDpb_lt (low fn : Nat) (d : BitVec 6) (a : RegE) (b : Src) : encDpb low fn d a b < 2 ^ 32 := pack_lt _

theorem encDpb_low (low fn : Nat) (d : BitVec 6) (a : RegE) (b : Src) : fld (encDpb low fn d a b) 0 4 = low % 2 ^ 4 := fld_take _ _ (Nat.le_refl _)

theorem encDpb_flag (low fn : Nat) (d : BitVec 6) (a : RegE) (b : Src) : flag (encDpb low fn d a b) 0 = (low % 2 ^ 1 == 1) := by
  unfold flag encDpb; rw [fld_take _ _ (by decide)]

theorem encDpb_fn (low fn : Nat) (d : BitVec 6) (a : RegE) (b : Src) : fld (encDpb low fn d a b) 4 6 = fn % 2 ^ 6 := by
  unfold encDpb; rw [fld_skip _ _ _ (by decide), fld_take _ _ (by decide)]

theorem decCmp_enc (mk : BitVec 3 → BitVec 3 → Src → Src → Instr) (low fn : Nat) (c : BitVec 3) (p : BitVec 3) (a : Src) (b : Src) :
    decCmp mk (encCmp low fn c p a b) = some (mk c p a b) := by
  simp only [decCmp, encCmp, bits, flag, fld_skip, fld_take, Nat.reduceLeDiff, Nat.reduceSub, ofNat_toNat_mod, bool_of_bit]

theorem encCmp_lt (low fn : Nat) (c : BitVec 3) (p : BitVec 3) (a : Src) (b : Src) : encCmp low fn c p a b < 2 ^ 32 := pack_lt _

theorem encCmp_low (low fn : Nat) (c : BitVec 3) (p : BitVec 3) (a : Src) (b : Src) : fld (encCmp low fn c p a b) 0 4 = low % 2 ^ 4 := fld_take _ _ (Nat.le_refl _)

theorem encCmp_flag (low fn : Nat) (c : BitVec 3) (p : BitVec 3) (a : Src) (b : Src) : flag (encCmp low fn c p a b) 0 = (low % 2 ^ 1 == 1) := by
  unfold flag encCmp; rw [fld_take _ _ (by decide)]

theorem encCmp_fn (low fn : Nat) (c : BitVec 3) (p : BitVec 3) (a : Src) (b : Src) : fld (encCmp low fn c p a b) 4 6 = fn % 2 ^ 6 := by
  unfold encCmp; rw [fld_skip _ _ _ (by decide), fld_take _ _ (by decide)]

theorem decCmpw_enc (mk : BitVec 3 → BitVec 3 → RegE → RegE → Instr) (low fn : Nat) (c : BitVec 3) (p : BitVec 3) (a : RegE) (b : RegE) :
    decCmpw mk (encCmpw low fn c p a b) = some (mk c p a b) := by
  simp only [decCmpw, encCmpw, bits, flag, fld_skip, fld_take, fld_span, Nat.reduceLT, Nat.reduceLeDiff, Nat.reduceSub, ofNat_toNat_mod, bool_of_bit]
  exact if_pos (by decide)

theorem encCmpw_lt (low fn : Nat) (c : BitVec 3) (p : BitVec 3) (a : RegE) (b : RegE) : encCmpw low fn c p a b < 2 ^ 32 := pack_lt _

theorem encCmpw_low (low fn : Nat) (c : BitVec 3) (p : BitVec 3) (a : RegE) (b : RegE) : fld (encCmpw low fn c p a b) 0 4 = low % 2 ^ 4 := fld_take _ _ (Nat.le_refl _)

theorem encCmpw_flag (low fn : Nat) (c : BitVec 3) (p : BitVec 3) (a : RegE) (b : RegE) : flag (encCmpw low fn c p a b) 0 = (low % 2 ^ 1 == 1) := by
  unfold flag encCmpw; rw [fld_take _ _ (by decide)]

theorem encCmpw_fn (low fn : Nat) (c : BitVec 3) (p : BitVec 3) (a : RegE) (b : RegE) : fld (encCmpw low fn c p a b) 4 6 = fn % 2 ^ 6 := by
  unfold encCmpw; rw [fld_skip _ _ _ (by decide), fld_take _ _ (by decide)]

theorem decPlog_enc (mk : BitVec 3 → BitVec 3 → BitVec 3 → BitVec 3 → Instr) (low fn : Nat) (o : BitVec 3) (p : BitVec 3) (r : BitVec 3) (q : BitVec 3) :
    decPlog mk (encPlog low fn o p r q) = some (mk o p r q) := by
  simp only [decPlog, encPlog, bits, fld_skip, fld_take, Nat.reduceLeDiff, Nat.reduceSub, ofNat_toNat_mod]
  exact if_pos (by decide)

theorem encPlog_lt (low fn : Nat) (o : BitVec 3) (p : BitVec 3) (r : BitVec 3) (q : BitVec 3) : encPlog low fn o p r q < 2 ^ 32 := pack_lt _

theorem encPlog_low (low fn : Nat) (o : BitVec 3) (p : BitVec 3) (r : BitVec 3) (q : BitVec 3) : fld (encPlog low fn o p r q) 0 4 = low % 2 ^ 4 := fld_take _ _ (Nat.le_refl _)

theorem encPlog_flag (low fn : Nat) (o : BitVec 3) (p : BitVec 3) (r : BitVec 3) (q : BitVec 3) : flag (encPlog low fn o p r q) 0 = (low % 2 ^ 1 == 1) := by
  unfold flag encPlog; rw [fld_take _ _ (by decide)]

theorem encPlog_fn (low fn : Nat) (o : BitVec 3) (p : BitVec 3) (r : BitVec 3) (q : BitVec 3) : fld (encPlog low fn o p r q) 4 6 = fn % 2 ^ 6 := by
  unfold encPlog; rw [fld_skip _ _ _ (by decide), fld_take _ _ (by decide)]

theorem decPtox_enc (mk : BitVec 6 → BitVec 3 → Instr) (low fn : Nat) (d : BitVec 6) (r : BitVec 3) :
    decPtox mk (encPtox low fn d r) = some (mk d r) := by
  simp only [decPtox, encPtox, bits, fld_skip, fld_take, Nat.reduceLeDiff, Nat.reduceSub, ofNat_toNat_mod]
  exact if_pos (by decide)

theorem encPtox_lt (low fn : Nat) (d : BitVec 6) (r : BitVec 3) : encPtox low fn d r < 2 ^ 32 := pack_lt _

theorem encPtox_low (low fn : Nat) (d : BitVec 6) (r : BitVec 3) : fld (encPtox low fn d r) 0 4 = low % 2 ^ 4 := fld_take _ _ (Nat.le_refl _)

theorem encPtox_flag (low fn : Nat) (d : BitVec 6) (r : BitVec 3) : flag (encPtox low fn d r) 0 = (low % 2 ^ 1 == 1) := by
  unfold flag encPtox; rw [fld_take _ _ (by decide)]

theorem encPtox_fn (low fn : Nat) (d : BitVec 6) (r : BitVec 3) : fld (encPtox low fn d r) 4 6 = fn % 2 ^ 6 := by
  unfold encPtox; rw [fld_skip _ _ _ (by decide), fld_take _ _ (by decide)]

theorem decXtop_enc (mk : BitVec 3 → Src → Instr) (low fn : Nat) (p : BitVec 3) (a : Src) :
    decXtop mk (encXtop low fn p a) = some (mk p a) := by
  simp only [decXtop, encXtop, bits, flag, fld_skip, fld_take, Nat.reduceLeDiff, Nat.reduceSub, ofNat_toNat_mod, bool_of_bit]
  exact if_pos (by decide)

theorem encXtop_lt (low fn : Nat) (p : BitVec 3) (a : Src) : encXtop low fn p a < 2 ^ 32 := pack_lt _

theorem encXtop_low (low fn : Nat) (p : BitVec 3) (a : Src) : fld (encXtop low fn p a) 0 4 = low % 2 ^ 4 := fld_take _ _ (Nat.le_refl _)

theorem encXtop_flag (low fn : Nat) (p : BitVec 3) (a : Src) : flag (encXtop low fn p a) 0 = (low % 2 ^ 1 == 1) := by
  unfold flag encXtop; rw [fld_take _ _ (by decide)]

theorem encXtop_fn (low fn : Nat) (p : BitVec 3) (a : Src) : fld (encXtop low fn p a) 4 6 = fn % 2 ^ 6 := by
  unfold encXtop; rw [fld_skip _ _ _ (by decide), fld_take _ _ (by decide)]

theorem decDp_enc (mk : BitVec 6 → RegE → Instr) (low fn : Nat) (d : BitVec 6) (a : RegE) :
    decDp mk (encDp low fn d a) = some (mk d a) := by
  simp only [decDp, encDp, bits, flag, fld_skip, fld_take, fld_span, Nat.reduceLT, Nat.reduceLeDiff, Nat.reduceSub, ofNat_toNat_mod, bool_of_bit]
  exact if_pos (by decide)

theorem encDp_lt (low fn : Nat) (d : BitVec 6) (a : RegE) : encDp low fn d a < 2 ^ 32 := pack_lt _

theorem encDp_low (low fn : Nat) (d : BitVec 6) (a : RegE) : fld (encDp low fn d a) 0 4 = low % 2 ^ 4 := fld_take _ _ (Nat.le_refl _)

theorem encDp_flag (low fn : Nat) (d : BitVec 6) (a : RegE) : flag (encDp low fn d a) 0 = (low % 2 ^ 1 == 1) := by
  unfold flag encDp; rw [fld_take _ _ (by decide)]

theorem encDp_fn (low fn : Nat) (d : BitVec 6) (a : RegE) : fld (encDp low fn d a) 4 6 = fn % 2 ^ 6 := by
  unfold encDp; rw [fld_skip _ _ _ (by decide), fld_take _ _ (by decide)]

theorem decPp_enc (mk : RegE → RegE → Instr) (low fn : Nat) (a : RegE) (b : RegE) :
    decPp mk (encPp low fn a b) = some (mk a b) := by
  simp only [decPp, encPp, bits, flag, fld_skip, fld_take, fld_span, Nat.reduceLT, Nat.reduceLeDiff, Nat.reduceSub, ofNat_toNat_mod, bool_of_bit]
  exact if_pos (by decide)

theorem encPp_lt (low fn : Nat) (a : RegE) (b : RegE) : encPp low fn a b < 2 ^ 32 := pack_lt _

theorem encPp_low (low fn : Nat) (a : RegE) (b : RegE) : fld (encPp low fn a b) 0 4 = low % 2 ^ 4 := fld_take _ _ (Nat.le_refl _)

theorem encPp_flag (low fn : Nat) (a : RegE) (b : RegE) : flag (encPp low fn a b) 0 = (low % 2 ^ 1 == 1) := by
  unfold flag encPp; rw [fld_take _ _ (by decide)]

theorem encPp_fn (low fn : Nat) (a : RegE) (b : RegE) : fld (encPp low fn a b) 4 6 = fn % 2 ^ 6 := by
  unfold encPp; rw [fld_skip _ _ _ (by decide), fld_take _ _ (by decide)]

theorem decCvt_enc (mk : BitVec 6 → RegE → BitVec 3 → BitVec 3 → BitVec 2 → Bool → Instr) (low fn : Nat) (d : BitVec 6) (a : RegE) (f : BitVec 3) (t : BitVec 3) (r : BitVec 2) (s : Bool) :
    decCvt mk (encCvt low fn d a f t r s) = some (mk d a f t r s) := by
  simp only [decCvt, encCvt, bits, flag, fld_skip, fld_take, Nat.reduceLeDiff, Nat.reduceSub, ofNat_toNat_mod, bool_of_bit]

theorem encCvt_lt (low fn : Nat) (d : BitVec 6) (a : RegE) (f : BitVec 3) (t : BitVec 3) (r : BitVec 2) (s : Bool) : encCvt low fn d a f t r s < 2 ^ 32 := pack_lt _

theorem encCvt_low (low fn : Nat) (d : BitVec 6) (a : RegE) (f : BitVec 3) (t : BitVec 3) (r : BitVec 2) (s : Bool) : fld (encCvt low fn d a f t r s) 0 4 = low % 2 ^ 4 := fld_take _ _ (Nat.le_refl _)

theorem encCvt_flag (low fn : Nat) (d : BitVec 6) (a : RegE) (f : BitVec 3) (t : BitVec 3) (r : BitVec 2) (s : Bool) : flag (encCvt low fn d a f t r s) 0 = (low % 2 ^ 1 == 1) := by
  unfold flag encCvt; rw [fld_take _ _ (by decide)]

theorem encCvt_fn (low fn : Nat) (d : BitVec 6) (a : RegE) (f : BitVec 3) (t : BitVec 3) (r : BitVec 2) (s : Bool) : fld (encCvt low fn d a f t r s) 4 6 = fn % 2 ^ 6 := by
  unfold encCvt; rw [fld_skip _ _ _ (by decide), fld_take _ _ (by decide)]

theorem decPkn_enc (mk : BitVec 6 → BitVec 6 → BitVec 6 → BitVec 2 → BitVec 2 → Instr) (low fn : Nat) (d : BitVec 6) (a : BitVec 6) (b : BitVec 6) (p : BitVec 2) (f : BitVec 2) :
    decPkn mk (encPkn low fn d a b p f) = some (mk d a b p f) := by
  simp only [decPkn, encPkn, bits, fld_skip, fld_take, Nat.reduceLeDiff, Nat.reduceSub, ofNat_toNat_mod]

theorem encPkn_lt (low fn : Nat) (d : BitVec 6) (a : BitVec 6) (b : BitVec 6) (p : BitVec 2) (f : BitVec 2) : encPkn low fn d a b p f < 2 ^ 32 := pack_lt _

theorem encPkn_low (low fn : Nat) (d : BitVec 6) (a : BitVec 6) (b : BitVec 6) (p : BitVec 2) (f : BitVec 2) : fld (encPkn low fn d a b p f) 0 4 = low % 2 ^ 4 := fld_take _ _ (Nat.le_refl _)

theorem encPkn_flag (low fn : Nat) (d : BitVec 6) (a : BitVec 6) (b : BitVec 6) (p : BitVec 2) (f : BitVec 2) : flag (encPkn low fn d a b p f) 0 = (low % 2 ^ 1 == 1) := by
  unfold flag encPkn; rw [fld_take _ _ (by decide)]

theorem encPkn_fn (low fn : Nat) (d : BitVec 6) (a : BitVec 6) (b : BitVec 6) (p : BitVec 2) (f : BitVec 2) : fld (encPkn low fn d a b p f) 4 6 = fn % 2 ^ 6 := by
  unfold encPkn; rw [fld_skip _ _ _ (by decide), fld_take _ _ (by decide)]

theorem decUpkn_enc (mk : BitVec 6 → BitVec 6 → BitVec 3 → BitVec 2 → Instr) (low fn : Nat) (d : BitVec 6) (a : BitVec 6) (i : BitVec 3) (f : BitVec 2) :
    decUpkn mk (encUpkn low fn d a i f) = some (mk d a i f) := by
  simp only [decUpkn, encUpkn, bits, fld_skip, fld_take, Nat.reduceLeDiff, Nat.reduceSub, ofNat_toNat_mod]
  exact if_pos (by decide)

theorem encUpkn_lt (low fn : Nat) (d : BitVec 6) (a : BitVec 6) (i : BitVec 3) (f : BitVec 2) : encUpkn low fn d a i f < 2 ^ 32 := pack_lt _

theorem encUpkn_low (low fn : Nat) (d : BitVec 6) (a : BitVec 6) (i : BitVec 3) (f : BitVec 2) : fld (encUpkn low fn d a i f) 0 4 = low % 2 ^ 4 := fld_take _ _ (Nat.le_refl _)

theorem encUpkn_flag (low fn : Nat) (d : BitVec 6) (a : BitVec 6) (i : BitVec 3) (f : BitVec 2) : flag (encUpkn low fn d a i f) 0 = (low % 2 ^ 1 == 1) := by
  unfold flag encUpkn; rw [fld_take _ _ (by decide)]

theorem encUpkn_fn (low fn : Nat) (d : BitVec 6) (a : BitVec 6) (i : BitVec 3) (f : BitVec 2) : fld (encUpkn low fn d a i f) 4 6 = fn % 2 ^ 6 := by
  unfold encUpkn; rw [fld_skip _ _ _ (by decide), fld_take _ _ (by decide)]

theorem decXaccf_enc (mk : Bool → BitVec 6 → Instr) (low fn : Nat) (c : Bool) (a : BitVec 6) :
    decXaccf mk (encXaccf low fn c a) = some (mk c a) := by
  simp only [decXaccf, encXaccf, bits, flag, fld_skip, fld_take, Nat.reduceLeDiff, Nat.reduceSub, ofNat_toNat_mod, bool_of_bit]
  exact if_pos (by decide)

theorem encXaccf_lt (low fn : Nat) (c : Bool) (a : BitVec 6) : encXaccf low fn c a < 2 ^ 32 := pack_lt _

theorem encXaccf_low (low fn : Nat) (c : Bool) (a : BitVec 6) : fld (encXaccf low fn c a) 0 4 = low % 2 ^ 4 := fld_take _ _ (Nat.le_refl _)

theorem encXaccf_flag (low fn : Nat) (c : Bool) (a : BitVec 6) : flag (encXaccf low fn c a) 0 = (low % 2 ^ 1 == 1) := by
  unfold flag encXaccf; rw [fld_take _ _ (by decide)]

theorem encXaccf_fn (low fn : Nat) (c : Bool) (a : BitVec 6) : fld (encXaccf low fn c a) 4 6 = fn % 2 ^ 6 := by
  unfold encXaccf; rw [fld_skip _ _ _ (by decide), fld_take _ _ (by decide)]

theorem decXacc_enc (mk : Bool → BitVec 6 → BitVec 6 → Instr) (low fn : Nat) (c : Bool) (a : BitVec 6) (b : BitVec 6) :
    decXacc mk (encXacc low fn c a b) = some (mk c a b) := by
  simp only [decXacc, encXacc, bits, flag, fld_skip, fld_take, Nat.reduceLeDiff, Nat.reduceSub, ofNat_toNat_mod, bool_of_bit]
  exact if_pos (by decide)

theorem encXacc_lt (low fn : Nat) (c : Bool) (a : BitVec 6) (b : BitVec 6) : encXacc low fn c a b < 2 ^ 32 := pack_lt _

theorem encXacc_low (low fn : Nat) (c : Bool) (a : BitVec 6) (b : BitVec 6) : fld (encXacc low fn c a b) 0 4 = low % 2 ^ 4 := fld_take _ _ (Nat.le_refl _)

theorem encXacc_flag (low fn : Nat) (c : Bool) (a : BitVec 6) (b : BitVec 6) : flag (encXacc low fn c a b) 0 = (low % 2 ^ 1 == 1) := by
  unfold flag encXacc; rw [fld_take _ _ (by decide)]

theorem encXacc_fn (low fn : Nat) (c : Bool) (a : BitVec 6) (b : BitVec 6) : fld (encXacc low fn c a b) 4 6 = fn % 2 ^ 6 := by
  unfold encXacc; rw [fld_skip _ _ _ (by decide), fld_take _ _ (by decide)]

theorem decXrnd_enc (mk : BitVec 6 → Bool → Instr) (low fn : Nat) (d : BitVec 6) (c : Bool) :
    decXrnd mk (encXrnd low fn d c) = some (mk d c) := by
  simp only [decXrnd, encXrnd, bits, flag, fld_skip, fld_take, Nat.reduceLeDiff, Nat.reduceSub, ofNat_toNat_mod, bool_of_bit]
  exact if_pos (by decide)

theorem encXrnd_lt (low fn : Nat) (d : BitVec 6) (c : Bool) : encXrnd low fn d c < 2 ^ 32 := pack_lt _

theorem encXrnd_low (low fn : Nat) (d : BitVec 6) (c : Bool) : fld (encXrnd low fn d c) 0 4 = low % 2 ^ 4 := fld_take _ _ (Nat.le_refl _)

theorem encXrnd_flag (low fn : Nat) (d : BitVec 6) (c : Bool) : flag (encXrnd low fn d c) 0 = (low % 2 ^ 1 == 1) := by
  unfold flag encXrnd; rw [fld_take _ _ (by decide)]

theorem encXrnd_fn (low fn : Nat) (d : BitVec 6) (c : Bool) : fld (encXrnd low fn d c) 4 6 = fn % 2 ^ 6 := by
  unfold encXrnd; rw [fld_skip _ _ _ (by decide), fld_take _ _ (by decide)]

theorem decXclr_enc (mk : Bool → Instr) (low fn : Nat) (c : Bool) :
    decXclr mk (encXclr low fn c) = some (mk c) := by
  simp only [decXclr, encXclr, flag, fld_skip, fld_take, Nat.reduceLeDiff, Nat.reduceSub, bool_of_bit]
  exact if_pos (by decide)

theorem encXclr_lt (low fn : Nat) (c : Bool) : encXclr low fn c < 2 ^ 32 := pack_lt _

theorem encXclr_low (low fn : Nat) (c : Bool) : fld (encXclr low fn c) 0 4 = low % 2 ^ 4 := fld_take _ _ (Nat.le_refl _)

theorem encXclr_flag (low fn : Nat) (c : Bool) : flag (encXclr low fn c) 0 = (low % 2 ^ 1 == 1) := by
  unfold flag encXclr; rw [fld_take _ _ (by decide)]

theorem encXclr_fn (low fn : Nat) (c : Bool) : fld (encXclr low fn c) 4 6 = fn % 2 ^ 6 := by
  unfold encXclr; rw [fld_skip _ _ _ (by decide), fld_take _ _ (by decide)]

theorem decImm_enc (mk : BitVec 6 → RegE → BitVec 11 → Instr) (low fn : Nat) (d : BitVec 6) (a : RegE) (i : BitVec 11) :
    decImm mk (encImm low fn d a i) = some (mk d a i) := by
  simp only [decImm, encImm, bits, flag, fld_skip, fld_take, Nat.reduceLeDiff, Nat.reduceSub, ofNat_toNat_mod, bool_of_bit]

theorem encImm_lt (low fn : Nat) (d : BitVec 6) (a : RegE) (i : BitVec 11) : encImm low fn d a i < 2 ^ 32 := pack_lt _

theorem encImm_low (low fn : Nat) (d : BitVec 6) (a : RegE) (i : BitVec 11) : fld (encImm low fn d a i) 0 4 = low % 2 ^ 4 := fld_take _ _ (Nat.le_refl _)

theorem encImm_flag (low fn : Nat) (d : BitVec 6) (a : RegE) (i : BitVec 11) : flag (encImm low fn d a i) 0 = (low % 2 ^ 1 == 1) := by
  unfold flag encImm; rw [fld_take _ _ (by decide)]

theorem encImm_fn (low fn : Nat) (d : BitVec 6) (a : RegE) (i : BitVec 11) : fld (encImm low fn d a i) 4 4 = fn % 2 ^ 4 := by
  unfold encImm; rw [fld_skip _ _ _ (by decide), fld_take _ _ (by decide)]

theorem decShi_enc (mk : BitVec 6 → RegE → BitVec 2 → BitVec 5 → Instr) (low fn : Nat) (d : BitVec 6) (a : RegE) (k : BitVec 2) (n : BitVec 5) :
    decShi mk (encShi low fn d a k n) = some (mk d a k n) := by
  simp only [decShi, encShi, bits, flag, fld_skip, fld_take, Nat.reduceLeDiff, Nat.reduceSub, ofNat_toNat_mod, bool_of_bit]
  exact if_pos (by decide)

theorem encShi_lt (low fn : Nat) (d : BitVec 6) (a : RegE) (k : BitVec 2) (n : BitVec 5) : encShi low fn d a k n < 2 ^ 32 := pack_lt _

theorem encShi_low (low fn : Nat) (d : BitVec 6) (a : RegE) (k : BitVec 2) (n : BitVec 5) : fld (encShi low fn d a k n) 0 4 = low % 2 ^ 4 := fld_take _ _ (Nat.le_refl _)

theorem encShi_flag (low fn : Nat) (d : BitVec 6) (a : RegE) (k : BitVec 2) (n : BitVec 5) : flag (encShi low fn d a k n) 0 = (low % 2 ^ 1 == 1) := by
  unfold flag encShi; rw [fld_take _ _ (by decide)]

theorem encShi_fn (low fn : Nat) (d : BitVec 6) (a : RegE) (k : BitVec 2) (n : BitVec 5) : fld (encShi low fn d a k n) 4 4 = fn % 2 ^ 4 := by
  unfold encShi; rw [fld_skip _ _ _ (by decide), fld_take _ _ (by decide)]

theorem decImm16_enc (mk : BitVec 6 → BitVec 16 → Instr) (low fn : Nat) (d : BitVec 6) (i : BitVec 16) :
    decImm16 mk (encImm16 low fn d i) = some (mk d i) := by
  simp only [decImm16, encImm16, bits, fld_skip, fld_take, Nat.reduceLeDiff, Nat.reduceSub, ofNat_toNat_mod]
  exact if_pos (by decide)

theorem encImm16_lt (low fn : Nat) (d : BitVec 6) (i : BitVec 16) : encImm16 low fn d i < 2 ^ 32 := pack_lt _

theorem encImm16_low (low fn : Nat) (d : BitVec 6) (i : BitVec 16) : fld (encImm16 low fn d i) 0 4 = low % 2 ^ 4 := fld_take _ _ (Nat.le_refl _)

theorem encImm16_flag (low fn : Nat) (d : BitVec 6) (i : BitVec 16) : flag (encImm16 low fn d i) 0 = (low % 2 ^ 1 == 1) := by
  unfold flag encImm16; rw [fld_take _ _ (by decide)]

theorem encImm16_fn (low fn : Nat) (d : BitVec 6) (i : BitVec 16) : fld (encImm16 low fn d i) 4 4 = fn % 2 ^ 4 := by
  unfold encImm16; rw [fld_skip _ _ _ (by decide), fld_take _ _ (by decide)]

theorem decCmpi_enc (mk : BitVec 3 → BitVec 3 → RegE → BitVec 11 → Instr) (low fn : Nat) (c : BitVec 3) (p : BitVec 3) (a : RegE) (i : BitVec 11) :
    decCmpi mk (encCmpi low fn c p a i) = some (mk c p a i) := by
  simp only [decCmpi, encCmpi, bits, flag, fld_skip, fld_take, Nat.reduceLeDiff, Nat.reduceSub, ofNat_toNat_mod, bool_of_bit]

theorem encCmpi_lt (low fn : Nat) (c : BitVec 3) (p : BitVec 3) (a : RegE) (i : BitVec 11) : encCmpi low fn c p a i < 2 ^ 32 := pack_lt _

theorem encCmpi_low (low fn : Nat) (c : BitVec 3) (p : BitVec 3) (a : RegE) (i : BitVec 11) : fld (encCmpi low fn c p a i) 0 4 = low % 2 ^ 4 := fld_take _ _ (Nat.le_refl _)

theorem encCmpi_flag (low fn : Nat) (c : BitVec 3) (p : BitVec 3) (a : RegE) (i : BitVec 11) : flag (encCmpi low fn c p a i) 0 = (low % 2 ^ 1 == 1) := by
  unfold flag encCmpi; rw [fld_take _ _ (by decide)]

theorem encCmpi_fn (low fn : Nat) (c : BitVec 3) (p : BitVec 3) (a : RegE) (i : BitVec 11) : fld (encCmpi low fn c p a i) 4 4 = fn % 2 ^ 4 := by
  unfold encCmpi; rw [fld_skip _ _ _ (by decide), fld_take _ _ (by decide)]

theorem decSel_enc (mk : BitVec 6 → RegE → RegE → BitVec 3 → Bool → Instr) (low fn : Nat) (d : BitVec 6) (a : RegE) (b : RegE) (p : BitVec 3) (n : Bool) :
    decSel mk (encSel low fn d a b p n) = some (mk d a b p n) := by
  simp only [decSel, encSel, bits, flag, fld_skip, fld_take, Nat.reduceLeDiff, Nat.reduceSub, ofNat_toNat_mod, bool_of_bit]

theorem encSel_lt (low fn : Nat) (d : BitVec 6) (a : RegE) (b : RegE) (p : BitVec 3) (n : Bool) : encSel low fn d a b p n < 2 ^ 32 := pack_lt _

theorem encSel_low (low fn : Nat) (d : BitVec 6) (a : RegE) (b : RegE) (p : BitVec 3) (n : Bool) : fld (encSel low fn d a b p n) 0 4 = low % 2 ^ 4 := fld_take _ _ (Nat.le_refl _)

theorem encSel_flag (low fn : Nat) (d : BitVec 6) (a : RegE) (b : RegE) (p : BitVec 3) (n : Bool) : flag (encSel low fn d a b p n) 0 = (low % 2 ^ 1 == 1) := by
  unfold flag encSel; rw [fld_take _ _ (by decide)]

theorem encSel_fn (low fn : Nat) (d : BitVec 6) (a : RegE) (b : RegE) (p : BitVec 3) (n : Bool) : fld (encSel low fn d a b p n) 4 4 = fn % 2 ^ 4 := by
  unfold encSel; rw [fld_skip _ _ _ (by decide), fld_take _ _ (by decide)]

theorem decScale_enc (mk : BitVec 6 → RegE → RegE → BitVec 2 → Instr) (low fn : Nat) (d : BitVec 6) (a : RegE) (b : RegE) (q : BitVec 2) :
    decScale mk (encScale low fn d a b q) = some (mk d a b q) := by
  simp only [decScale, encScale, bits, flag, fld_skip, fld_take, Nat.reduceLeDiff, Nat.reduceSub, ofNat_toNat_mod, bool_of_bit]
  exact if_pos (by decide)

theorem encScale_lt (low fn : Nat) (d : BitVec 6) (a : RegE) (b : RegE) (q : BitVec 2) : encScale low fn d a b q < 2 ^ 32 := pack_lt _

theorem encScale_low (low fn : Nat) (d : BitVec 6) (a : RegE) (b : RegE) (q : BitVec 2) : fld (encScale low fn d a b q) 0 4 = low % 2 ^ 4 := fld_take _ _ (Nat.le_refl _)

theorem encScale_flag (low fn : Nat) (d : BitVec 6) (a : RegE) (b : RegE) (q : BitVec 2) : flag (encScale low fn d a b q) 0 = (low % 2 ^ 1 == 1) := by
  unfold flag encScale; rw [fld_take _ _ (by decide)]

theorem encScale_fn (low fn : Nat) (d : BitVec 6) (a : RegE) (b : RegE) (q : BitVec 2) : fld (encScale low fn d a b q) 4 4 = fn % 2 ^ 4 := by
  unfold encScale; rw [fld_skip _ _ _ (by decide), fld_take _ _ (by decide)]

theorem decSrd_enc (mk : BitVec 6 → BitVec 8 → Instr) (low fn : Nat) (d : BitVec 6) (s : BitVec 8) :
    decSrd mk (encSrd low fn d s) = some (mk d s) := by
  simp only [decSrd, encSrd, bits, fld_skip, fld_take, Nat.reduceLeDiff, Nat.reduceSub, ofNat_toNat_mod]
  exact if_pos (by decide)

theorem encSrd_lt (low fn : Nat) (d : BitVec 6) (s : BitVec 8) : encSrd low fn d s < 2 ^ 32 := pack_lt _

theorem encSrd_low (low fn : Nat) (d : BitVec 6) (s : BitVec 8) : fld (encSrd low fn d s) 0 4 = low % 2 ^ 4 := fld_take _ _ (Nat.le_refl _)

theorem encSrd_flag (low fn : Nat) (d : BitVec 6) (s : BitVec 8) : flag (encSrd low fn d s) 0 = (low % 2 ^ 1 == 1) := by
  unfold flag encSrd; rw [fld_take _ _ (by decide)]

theorem encSrd_fn (low fn : Nat) (d : BitVec 6) (s : BitVec 8) : fld (encSrd low fn d s) 4 4 = fn % 2 ^ 4 := by
  unfold encSrd; rw [fld_skip _ _ _ (by decide), fld_take _ _ (by decide)]

theorem decSrw_enc (mk : RegE → BitVec 8 → Instr) (low fn : Nat) (a : RegE) (s : BitVec 8) :
    decSrw mk (encSrw low fn a s) = some (mk a s) := by
  simp only [decSrw, encSrw, bits, flag, fld_skip, fld_take, Nat.reduceLeDiff, Nat.reduceSub, ofNat_toNat_mod, bool_of_bit]
  exact if_pos (by decide)

theorem encSrw_lt (low fn : Nat) (a : RegE) (s : BitVec 8) : encSrw low fn a s < 2 ^ 32 := pack_lt _

theorem encSrw_low (low fn : Nat) (a : RegE) (s : BitVec 8) : fld (encSrw low fn a s) 0 4 = low % 2 ^ 4 := fld_take _ _ (Nat.le_refl _)

theorem encSrw_flag (low fn : Nat) (a : RegE) (s : BitVec 8) : flag (encSrw low fn a s) 0 = (low % 2 ^ 1 == 1) := by
  unfold flag encSrw; rw [fld_take _ _ (by decide)]

theorem encSrw_fn (low fn : Nat) (a : RegE) (s : BitVec 8) : fld (encSrw low fn a s) 4 4 = fn % 2 ^ 4 := by
  unfold encSrw; rw [fld_skip _ _ _ (by decide), fld_take _ _ (by decide)]

theorem decLdst_enc (mk : BitVec 6 → RegE → BitVec 3 → BitVec 9 → Instr) (low fn : Nat) (d : BitVec 6) (a : RegE) (z : BitVec 3) (o : BitVec 9) :
    decLdst mk (encLdst low fn d a z o) = some (mk d a z o) := by
  simp only [decLdst, encLdst, bits, flag, fld_skip, fld_take, Nat.reduceLeDiff, Nat.reduceSub, ofNat_toNat_mod, bool_of_bit]

theorem encLdst_lt (low fn : Nat) (d : BitVec 6) (a : RegE) (z : BitVec 3) (o : BitVec 9) : encLdst low fn d a z o < 2 ^ 32 := pack_lt _

theorem encLdst_low (low fn : Nat) (d : BitVec 6) (a : RegE) (z : BitVec 3) (o : BitVec 9) : fld (encLdst low fn d a z o) 0 4 = low % 2 ^ 4 := fld_take _ _ (Nat.le_refl _)

theorem encLdst_flag (low fn : Nat) (d : BitVec 6) (a : RegE) (z : BitVec 3) (o : BitVec 9) : flag (encLdst low fn d a z o) 0 = (low % 2 ^ 1 == 1) := by
  unfold flag encLdst; rw [fld_take _ _ (by decide)]

theorem encLdst_fn (low fn : Nat) (d : BitVec 6) (a : RegE) (z : BitVec 3) (o : BitVec 9) : fld (encLdst low fn d a z o) 4 3 = fn % 2 ^ 3 := by
  unfold encLdst; rw [fld_skip _ _ _ (by decide), fld_take _ _ (by decide)]

theorem decLdo_enc (mk : BitVec 6 → RegE → BitVec 3 → BitVec 2 → BitVec 3 → Instr) (low fn : Nat) (d : BitVec 6) (a : RegE) (z : BitVec 3) (o : BitVec 2) (s : BitVec 3) :
    decLdo mk (encLdo low fn d a z o s) = some (mk d a z o s) := by
  simp only [decLdo, encLdo, bits, flag, fld_skip, fld_take, Nat.reduceLeDiff, Nat.reduceSub, ofNat_toNat_mod, bool_of_bit]
  exact if_pos (by decide)

theorem encLdo_lt (low fn : Nat) (d : BitVec 6) (a : RegE) (z : BitVec 3) (o : BitVec 2) (s : BitVec 3) : encLdo low fn d a z o s < 2 ^ 32 := pack_lt _

theorem encLdo_low (low fn : Nat) (d : BitVec 6) (a : RegE) (z : BitVec 3) (o : BitVec 2) (s : BitVec 3) : fld (encLdo low fn d a z o s) 0 4 = low % 2 ^ 4 := fld_take _ _ (Nat.le_refl _)

theorem encLdo_flag (low fn : Nat) (d : BitVec 6) (a : RegE) (z : BitVec 3) (o : BitVec 2) (s : BitVec 3) : flag (encLdo low fn d a z o s) 0 = (low % 2 ^ 1 == 1) := by
  unfold flag encLdo; rw [fld_take _ _ (by decide)]

theorem encLdo_fn (low fn : Nat) (d : BitVec 6) (a : RegE) (z : BitVec 3) (o : BitVec 2) (s : BitVec 3) : fld (encLdo low fn d a z o s) 4 3 = fn % 2 ^ 3 := by
  unfold encLdo; rw [fld_skip _ _ _ (by decide), fld_take _ _ (by decide)]

theorem decSto_enc (mk : BitVec 6 → RegE → BitVec 3 → BitVec 3 → Instr) (low fn : Nat) (d : BitVec 6) (a : RegE) (z : BitVec 3) (s : BitVec 3) :
    decSto mk (encSto low fn d a z s) = some (mk d a z s) := by
  simp only [decSto, encSto, bits, flag, fld_skip, fld_take, Nat.reduceLeDiff, Nat.reduceSub, ofNat_toNat_mod, bool_of_bit]
  exact if_pos (by decide)

theorem encSto_lt (low fn : Nat) (d : BitVec 6) (a : RegE) (z : BitVec 3) (s : BitVec 3) : encSto low fn d a z s < 2 ^ 32 := pack_lt _

theorem encSto_low (low fn : Nat) (d : BitVec 6) (a : RegE) (z : BitVec 3) (s : BitVec 3) : fld (encSto low fn d a z s) 0 4 = low % 2 ^ 4 := fld_take _ _ (Nat.le_refl _)

theorem encSto_flag (low fn : Nat) (d : BitVec 6) (a : RegE) (z : BitVec 3) (s : BitVec 3) : flag (encSto low fn d a z s) 0 = (low % 2 ^ 1 == 1) := by
  unfold flag encSto; rw [fld_take _ _ (by decide)]

theorem encSto_fn (low fn : Nat) (d : BitVec 6) (a : RegE) (z : BitVec 3) (s : BitVec 3) : fld (encSto low fn d a z s) 4 3 = fn % 2 ^ 3 := by
  unfold encSto; rw [fld_skip _ _ _ (by decide), fld_take _ _ (by decide)]

theorem decAtom_enc (mk : BitVec 6 → RegE → BitVec 3 → BitVec 3 → Bool → BitVec 5 → Instr) (low fn : Nat) (d : BitVec 6) (a : RegE) (z : BitVec 3) (s : BitVec 3) (r : Bool) (p : BitVec 5) :
    decAtom mk (encAtom low fn d a z s r p) = some (mk d a z s r p) := by
  simp only [decAtom, encAtom, bits, flag, fld_skip, fld_take, Nat.reduceLeDiff, Nat.reduceSub, ofNat_toNat_mod, bool_of_bit]

theorem encAtom_lt (low fn : Nat) (d : BitVec 6) (a : RegE) (z : BitVec 3) (s : BitVec 3) (r : Bool) (p : BitVec 5) : encAtom low fn d a z s r p < 2 ^ 32 := pack_lt _

theorem encAtom_low (low fn : Nat) (d : BitVec 6) (a : RegE) (z : BitVec 3) (s : BitVec 3) (r : Bool) (p : BitVec 5) : fld (encAtom low fn d a z s r p) 0 4 = low % 2 ^ 4 := fld_take _ _ (Nat.le_refl _)

theorem encAtom_flag (low fn : Nat) (d : BitVec 6) (a : RegE) (z : BitVec 3) (s : BitVec 3) (r : Bool) (p : BitVec 5) : flag (encAtom low fn d a z s r p) 0 = (low % 2 ^ 1 == 1) := by
  unfold flag encAtom; rw [fld_take _ _ (by decide)]

theorem encAtom_fn (low fn : Nat) (d : BitVec 6) (a : RegE) (z : BitVec 3) (s : BitVec 3) (r : Bool) (p : BitVec 5) : fld (encAtom low fn d a z s r p) 4 3 = fn % 2 ^ 3 := by
  unfold encAtom; rw [fld_skip _ _ _ (by decide), fld_take _ _ (by decide)]

theorem decPrf_enc (mk : RegE → Instr) (low fn sub : Nat) (a : RegE) :
    decPrf mk (encPrf low fn sub a) = some (mk a) := by
  simp only [decPrf, encPrf, bits, flag, fld_skip, fld_take, Nat.reduceLeDiff, Nat.reduceSub, ofNat_toNat_mod, bool_of_bit]
  exact if_pos (by decide)

theorem encPrf_lt (low fn sub : Nat) (a : RegE) : encPrf low fn sub a < 2 ^ 32 := pack_lt _

theorem encPrf_low (low fn sub : Nat) (a : RegE) : fld (encPrf low fn sub a) 0 4 = low % 2 ^ 4 := fld_take _ _ (Nat.le_refl _)

theorem encPrf_flag (low fn sub : Nat) (a : RegE) : flag (encPrf low fn sub a) 0 = (low % 2 ^ 1 == 1) := by
  unfold flag encPrf; rw [fld_take _ _ (by decide)]

theorem encPrf_fn (low fn sub : Nat) (a : RegE) : fld (encPrf low fn sub a) 4 3 = fn % 2 ^ 3 := by
  unfold encPrf; rw [fld_skip _ _ _ (by decide), fld_take _ _ (by decide)]

theorem encPrf_sub (low fn sub : Nat) (a : RegE) : fld (encPrf low fn sub a) 23 5 = sub % 2 ^ 5 := by
  simp only [encPrf, fld_skip, fld_take, Nat.reduceLeDiff, Nat.reduceSub]

theorem decInv_enc (mk : Instr) (low fn sub : Nat) :
    decInv mk (encInv low fn sub) = some (mk) := by
  simp only [decInv, encInv, fld_skip, fld_take, fld_span, Nat.reduceLT, Nat.reduceLeDiff, Nat.reduceSub]
  exact if_pos (by decide)

theorem encInv_lt (low fn sub : Nat) : encInv low fn sub < 2 ^ 32 := pack_lt _

theorem encInv_low (low fn sub : Nat) : fld (encInv low fn sub) 0 4 = low % 2 ^ 4 := fld_take _ _ (Nat.le_refl _)

theorem encInv_flag (low fn sub : Nat) : flag (encInv low fn sub) 0 = (low % 2 ^ 1 == 1) := by
  unfold flag encInv; rw [fld_take _ _ (by decide)]

theorem encInv_fn (low fn sub : Nat) : fld (encInv low fn sub) 4 3 = fn % 2 ^ 3 := by
  unfold encInv; rw [fld_skip _ _ _ (by decide), fld_take _ _ (by decide)]

theorem encInv_sub (low fn sub : Nat) : fld (encInv low fn sub) 23 5 = sub % 2 ^ 5 := by
  simp only [encInv, fld_skip, fld_take, Nat.reduceLeDiff, Nat.reduceSub]

theorem decXimg_enc (mk : Bool → RegE → Instr) (low fn sub : Nat) (c : Bool) (a : RegE) :
    decXimg mk (encXimg low fn sub c a) = some (mk c a) := by
  simp only [decXimg, encXimg, bits, flag, fld_skip, fld_take, Nat.reduceLeDiff, Nat.reduceSub, ofNat_toNat_mod, bool_of_bit]
  exact if_pos (by decide)

theorem encXimg_lt (low fn sub : Nat) (c : Bool) (a : RegE) : encXimg low fn sub c a < 2 ^ 32 := pack_lt _

theorem encXimg_low (low fn sub : Nat) (c : Bool) (a : RegE) : fld (encXimg low fn sub c a) 0 4 = low % 2 ^ 4 := fld_take _ _ (Nat.le_refl _)

theorem encXimg_flag (low fn sub : Nat) (c : Bool) (a : RegE) : flag (encXimg low fn sub c a) 0 = (low % 2 ^ 1 == 1) := by
  unfold flag encXimg; rw [fld_take _ _ (by decide)]

theorem encXimg_fn (low fn sub : Nat) (c : Bool) (a : RegE) : fld (encXimg low fn sub c a) 4 3 = fn % 2 ^ 3 := by
  unfold encXimg; rw [fld_skip _ _ _ (by decide), fld_take _ _ (by decide)]

theorem encXimg_sub (low fn sub : Nat) (c : Bool) (a : RegE) : fld (encXimg low fn sub c a) 23 5 = sub % 2 ^ 5 := by
  simp only [encXimg, fld_skip, fld_take, Nat.reduceLeDiff, Nat.reduceSub]

theorem decBra_enc (mk : BitVec 18 → BitVec 6 → Instr) (low fn : Nat) (o : BitVec 18) (p : BitVec 6) :
    decBra mk (encBra low fn o p) = some (mk o p) := by
  simp only [decBra, encBra, bits, fld_skip, fld_take, Nat.reduceLeDiff, Nat.reduceSub, ofNat_toNat_mod]

theorem encBra_lt (low fn : Nat) (o : BitVec 18) (p : BitVec 6) : encBra low fn o p < 2 ^ 32 := pack_lt _

theorem encBra_low (low fn : Nat) (o : BitVec 18) (p : BitVec 6) : fld (encBra low fn o p) 0 4 = low % 2 ^ 4 := fld_take _ _ (Nat.le_refl _)

theorem encBra_flag (low fn : Nat) (o : BitVec 18) (p : BitVec 6) : flag (encBra low fn o p) 0 = (low % 2 ^ 1 == 1) := by
  unfold flag encBra; rw [fld_take _ _ (by decide)]

theorem encBra_fn (low fn : Nat) (o : BitVec 18) (p : BitVec 6) : fld (encBra low fn o p) 4 4 = fn % 2 ^ 4 := by
  unfold encBra; rw [fld_skip _ _ _ (by decide), fld_take _ _ (by decide)]

theorem decBrc_enc (mk : BitVec 14 → BitVec 6 → Bool → BitVec 3 → Instr) (low fn : Nat) (o : BitVec 14) (p : BitVec 6) (n : Bool) (c : BitVec 3) :
    decBrc mk (encBrc low fn o p n c) = some (mk o p n c) := by
  simp only [decBrc, encBrc, bits, flag, fld_skip, fld_take, Nat.reduceLeDiff, Nat.reduceSub, ofNat_toNat_mod, bool_of_bit]

theorem encBrc_lt (low fn : Nat) (o : BitVec 14) (p : BitVec 6) (n : Bool) (c : BitVec 3) : encBrc low fn o p n c < 2 ^ 32 := pack_lt _

theorem encBrc_low (low fn : Nat) (o : BitVec 14) (p : BitVec 6) (n : Bool) (c : BitVec 3) : fld (encBrc low fn o p n c) 0 4 = low % 2 ^ 4 := fld_take _ _ (Nat.le_refl _)

theorem encBrc_flag (low fn : Nat) (o : BitVec 14) (p : BitVec 6) (n : Bool) (c : BitVec 3) : flag (encBrc low fn o p n c) 0 = (low % 2 ^ 1 == 1) := by
  unfold flag encBrc; rw [fld_take _ _ (by decide)]

theorem encBrc_fn (low fn : Nat) (o : BitVec 14) (p : BitVec 6) (n : Bool) (c : BitVec 3) : fld (encBrc low fn o p n c) 4 4 = fn % 2 ^ 4 := by
  unfold encBrc; rw [fld_skip _ _ _ (by decide), fld_take _ _ (by decide)]

theorem decCallp_enc (mk : BitVec 16 → BitVec 6 → Instr) (low fn : Nat) (q : BitVec 16) (e : BitVec 6) :
    decCallp mk (encCallp low fn q e) = some (mk q e) := by
  simp only [decCallp, encCallp, bits, fld_skip, fld_take, Nat.reduceLeDiff, Nat.reduceSub, ofNat_toNat_mod]
  exact if_pos (by decide)

theorem encCallp_lt (low fn : Nat) (q : BitVec 16) (e : BitVec 6) : encCallp low fn q e < 2 ^ 32 := pack_lt _

theorem encCallp_low (low fn : Nat) (q : BitVec 16) (e : BitVec 6) : fld (encCallp low fn q e) 0 4 = low % 2 ^ 4 := fld_take _ _ (Nat.le_refl _)

theorem encCallp_flag (low fn : Nat) (q : BitVec 16) (e : BitVec 6) : flag (encCallp low fn q e) 0 = (low % 2 ^ 1 == 1) := by
  unfold flag encCallp; rw [fld_take _ _ (by decide)]

theorem encCallp_fn (low fn : Nat) (q : BitVec 16) (e : BitVec 6) : fld (encCallp low fn q e) 4 4 = fn % 2 ^ 4 := by
  unfold encCallp; rw [fld_skip _ _ _ (by decide), fld_take _ _ (by decide)]

theorem decJmpr_enc (mk : RegE → BitVec 6 → Instr) (low fn : Nat) (a : RegE) (p : BitVec 6) :
    decJmpr mk (encJmpr low fn a p) = some (mk a p) := by
  simp only [decJmpr, encJmpr, bits, flag, fld_skip, fld_take, Nat.reduceLeDiff, Nat.reduceSub, ofNat_toNat_mod, bool_of_bit]
  exact if_pos (by decide)

theorem encJmpr_lt (low fn : Nat) (a : RegE) (p : BitVec 6) : encJmpr low fn a p < 2 ^ 32 := pack_lt _

theorem encJmpr_low (low fn : Nat) (a : RegE) (p : BitVec 6) : fld (encJmpr low fn a p) 0 4 = low % 2 ^ 4 := fld_take _ _ (Nat.le_refl _)

theorem encJmpr_flag (low fn : Nat) (a : RegE) (p : BitVec 6) : flag (encJmpr low fn a p) 0 = (low % 2 ^ 1 == 1) := by
  unfold flag encJmpr; rw [fld_take _ _ (by decide)]

theorem encJmpr_fn (low fn : Nat) (a : RegE) (p : BitVec 6) : fld (encJmpr low fn a p) 4 4 = fn % 2 ^ 4 := by
  unfold encJmpr; rw [fld_skip _ _ _ (by decide), fld_take _ _ (by decide)]

theorem decRetr_enc (mk : BitVec 6 → Instr) (low fn : Nat) (a : BitVec 6) :
    decRetr mk (encRetr low fn a) = some (mk a) := by
  simp only [decRetr, encRetr, bits, fld_skip, fld_take, Nat.reduceLeDiff, Nat.reduceSub, ofNat_toNat_mod]
  exact if_pos (by decide)

theorem encRetr_lt (low fn : Nat) (a : BitVec 6) : encRetr low fn a < 2 ^ 32 := pack_lt _

theorem encRetr_low (low fn : Nat) (a : BitVec 6) : fld (encRetr low fn a) 0 4 = low % 2 ^ 4 := fld_take _ _ (Nat.le_refl _)

theorem encRetr_flag (low fn : Nat) (a : BitVec 6) : flag (encRetr low fn a) 0 = (low % 2 ^ 1 == 1) := by
  unfold flag encRetr; rw [fld_take _ _ (by decide)]

theorem encRetr_fn (low fn : Nat) (a : BitVec 6) : fld (encRetr low fn a) 4 4 = fn % 2 ^ 4 := by
  unfold encRetr; rw [fld_skip _ _ _ (by decide), fld_take _ _ (by decide)]

theorem decJn_enc (mk : BitVec 3 → Instr) (low fn : Nat) (j : BitVec 3) :
    decJn mk (encJn low fn j) = some (mk j) := by
  simp only [decJn, encJn, bits, fld_skip, fld_take, Nat.reduceLeDiff, Nat.reduceSub, ofNat_toNat_mod]
  exact if_pos (by decide)

theorem encJn_lt (low fn : Nat) (j : BitVec 3) : encJn low fn j < 2 ^ 32 := pack_lt _

theorem encJn_low (low fn : Nat) (j : BitVec 3) : fld (encJn low fn j) 0 4 = low % 2 ^ 4 := fld_take _ _ (Nat.le_refl _)

theorem encJn_flag (low fn : Nat) (j : BitVec 3) : flag (encJn low fn j) 0 = (low % 2 ^ 1 == 1) := by
  unfold flag encJn; rw [fld_take _ _ (by decide)]

theorem encJn_fn (low fn : Nat) (j : BitVec 3) : fld (encJn low fn j) 4 4 = fn % 2 ^ 4 := by
  unfold encJn; rw [fld_skip _ _ _ (by decide), fld_take _ _ (by decide)]

theorem decJwait_enc (mk : BitVec 3 → BitVec 6 → Instr) (low fn : Nat) (j : BitVec 3) (p : BitVec 6) :
    decJwait mk (encJwait low fn j p) = some (mk j p) := by
  simp only [decJwait, encJwait, bits, fld_skip, fld_take, Nat.reduceLeDiff, Nat.reduceSub, ofNat_toNat_mod]
  exact if_pos (by decide)

theorem encJwait_lt (low fn : Nat) (j : BitVec 3) (p : BitVec 6) : encJwait low fn j p < 2 ^ 32 := pack_lt _

theorem encJwait_low (low fn : Nat) (j : BitVec 3) (p : BitVec 6) : fld (encJwait low fn j p) 0 4 = low % 2 ^ 4 := fld_take _ _ (Nat.le_refl _)

theorem encJwait_flag (low fn : Nat) (j : BitVec 3) (p : BitVec 6) : flag (encJwait low fn j p) 0 = (low % 2 ^ 1 == 1) := by
  unfold flag encJwait; rw [fld_take _ _ (by decide)]

theorem encJwait_fn (low fn : Nat) (j : BitVec 3) (p : BitVec 6) : fld (encJwait low fn j p) 4 4 = fn % 2 ^ 4 := by
  unfold encJwait; rw [fld_skip _ _ _ (by decide), fld_take _ _ (by decide)]

theorem decNone4_enc (mk : Instr) (low fn : Nat) :
    decNone4 mk (encNone4 low fn) = some (mk) := by
  simp only [decNone4, encNone4, fld_skip, fld_take, Nat.reduceLeDiff, Nat.reduceSub]
  exact if_pos (by decide)

theorem encNone4_lt (low fn : Nat) : encNone4 low fn < 2 ^ 32 := pack_lt _

theorem encNone4_low (low fn : Nat) : fld (encNone4 low fn) 0 4 = low % 2 ^ 4 := fld_take _ _ (Nat.le_refl _)

theorem encNone4_flag (low fn : Nat) : flag (encNone4 low fn) 0 = (low % 2 ^ 1 == 1) := by
  unfold flag encNone4; rw [fld_take _ _ (by decide)]

theorem encNone4_fn (low fn : Nat) : fld (encNone4 low fn) 4 4 = fn % 2 ^ 4 := by
  unfold encNone4; rw [fld_skip _ _ _ (by decide), fld_take _ _ (by decide)]

theorem decTrap_enc (mk : BitVec 16 → Instr) (low fn : Nat) (c : BitVec 16) :
    decTrap mk (encTrap low fn c) = some (mk c) := by
  simp only [decTrap, encTrap, bits, fld_skip, fld_take, Nat.reduceLeDiff, Nat.reduceSub, ofNat_toNat_mod]
  exact if_pos (by decide)

theorem encTrap_lt (low fn : Nat) (c : BitVec 16) : encTrap low fn c < 2 ^ 32 := pack_lt _

theorem encTrap_low (low fn : Nat) (c : BitVec 16) : fld (encTrap low fn c) 0 4 = low % 2 ^ 4 := fld_take _ _ (Nat.le_refl _)

theorem encTrap_flag (low fn : Nat) (c : BitVec 16) : flag (encTrap low fn c) 0 = (low % 2 ^ 1 == 1) := by
  unfold flag encTrap; rw [fld_take _ _ (by decide)]

theorem encTrap_fn (low fn : Nat) (c : BitVec 16) : fld (encTrap low fn c) 4 4 = fn % 2 ^ 4 := by
  unfold encTrap; rw [fld_skip _ _ _ (by decide), fld_take _ _ (by decide)]

theorem decTwo_enc (mk : BitVec 5 → BitVec 5 → Instr) (low fn : Nat) (d : BitVec 5) (s : BitVec 5) :
    decTwo mk (encTwo low fn d s) = some (mk d s) := by
  simp only [decTwo, encTwo, bits, fld_skip, fld_take, Nat.reduceLeDiff, Nat.reduceSub, ofNat_toNat_mod]

theorem encTwo_lt (low fn : Nat) (d : BitVec 5) (s : BitVec 5) : encTwo low fn d s < 2 ^ 16 := pack_lt _

theorem encTwo_low (low fn : Nat) (d : BitVec 5) (s : BitVec 5) : fld (encTwo low fn d s) 0 2 = low % 2 ^ 2 := fld_take _ _ (Nat.le_refl _)

theorem encTwo_flag (low fn : Nat) (d : BitVec 5) (s : BitVec 5) : flag (encTwo low fn d s) 0 = (low % 2 ^ 1 == 1) := by
  unfold flag encTwo; rw [fld_take _ _ (by decide)]

theorem encTwo_fn (low fn : Nat) (d : BitVec 5) (s : BitVec 5) : fld (encTwo low fn d s) 2 4 = fn % 2 ^ 4 := by
  unfold encTwo; rw [fld_skip _ _ _ (by decide), fld_take _ _ (by decide)]

theorem decNone16_enc (mk : Instr) (low fn : Nat) :
    decNone16 mk (encNone16 low fn) = some (mk) := by
  simp only [decNone16, encNone16, fld_skip, fld_take, Nat.reduceLeDiff, Nat.reduceSub]
  exact if_pos (by decide)

theorem encNone16_lt (low fn : Nat) : encNone16 low fn < 2 ^ 16 := pack_lt _

theorem encNone16_low (low fn : Nat) : fld (encNone16 low fn) 0 2 = low % 2 ^ 2 := fld_take _ _ (Nat.le_refl _)

theorem encNone16_flag (low fn : Nat) : flag (encNone16 low fn) 0 = (low % 2 ^ 1 == 1) := by
  unfold flag encNone16; rw [fld_take _ _ (by decide)]

theorem encNone16_fn (low fn : Nat) : fld (encNone16 low fn) 2 4 = fn % 2 ^ 4 := by
  unfold encNone16; rw [fld_skip _ _ _ (by decide), fld_take _ _ (by decide)]

theorem decGuard_enc (mk : Bool → BitVec 3 → Instr) (low fn : Nat) (n : Bool) (p : BitVec 3) :
    decGuard mk (encGuard low fn n p) = some (mk n p) := by
  simp only [decGuard, encGuard, bits, flag, fld_skip, fld_take, Nat.reduceLeDiff, Nat.reduceSub, ofNat_toNat_mod, bool_of_bit]
  exact if_pos (by decide)

theorem encGuard_lt (low fn : Nat) (n : Bool) (p : BitVec 3) : encGuard low fn n p < 2 ^ 16 := pack_lt _

theorem encGuard_low (low fn : Nat) (n : Bool) (p : BitVec 3) : fld (encGuard low fn n p) 0 2 = low % 2 ^ 2 := fld_take _ _ (Nat.le_refl _)

theorem encGuard_flag (low fn : Nat) (n : Bool) (p : BitVec 3) : flag (encGuard low fn n p) 0 = (low % 2 ^ 1 == 1) := by
  unfold flag encGuard; rw [fld_take _ _ (by decide)]

theorem encGuard_fn (low fn : Nat) (n : Bool) (p : BitVec 3) : fld (encGuard low fn n p) 2 4 = fn % 2 ^ 4 := by
  unfold encGuard; rw [fld_skip _ _ _ (by decide), fld_take _ _ (by decide)]

theorem decWaitk_enc (mk : BitVec 8 → Instr) (low fn : Nat) (k : BitVec 8) :
    decWaitk mk (encWaitk low fn k) = some (mk k) := by
  simp only [decWaitk, encWaitk, bits, fld_skip, fld_take, Nat.reduceLeDiff, Nat.reduceSub, ofNat_toNat_mod]
  exact if_pos (by decide)

theorem encWaitk_lt (low fn : Nat) (k : BitVec 8) : encWaitk low fn k < 2 ^ 16 := pack_lt _

theorem encWaitk_low (low fn : Nat) (k : BitVec 8) : fld (encWaitk low fn k) 0 2 = low % 2 ^ 2 := fld_take _ _ (Nat.le_refl _)

theorem encWaitk_flag (low fn : Nat) (k : BitVec 8) : flag (encWaitk low fn k) 0 = (low % 2 ^ 1 == 1) := by
  unfold flag encWaitk; rw [fld_take _ _ (by decide)]

theorem encWaitk_fn (low fn : Nat) (k : BitVec 8) : fld (encWaitk low fn k) 2 4 = fn % 2 ^ 4 := by
  unfold encWaitk; rw [fld_skip _ _ _ (by decide), fld_take _ _ (by decide)]

theorem decImm5_enc (mk : BitVec 5 → BitVec 5 → Instr) (low fn : Nat) (d : BitVec 5) (i : BitVec 5) :
    decImm5 mk (encImm5 low fn d i) = some (mk d i) := by
  simp only [decImm5, encImm5, bits, fld_skip, fld_take, Nat.reduceLeDiff, Nat.reduceSub, ofNat_toNat_mod]

theorem encImm5_lt (low fn : Nat) (d : BitVec 5) (i : BitVec 5) : encImm5 low fn d i < 2 ^ 16 := pack_lt _

theorem encImm5_low (low fn : Nat) (d : BitVec 5) (i : BitVec 5) : fld (encImm5 low fn d i) 0 2 = low % 2 ^ 2 := fld_take _ _ (Nat.le_refl _)

theorem encImm5_flag (low fn : Nat) (d : BitVec 5) (i : BitVec 5) : flag (encImm5 low fn d i) 0 = (low % 2 ^ 1 == 1) := by
  unfold flag encImm5; rw [fld_take _ _ (by decide)]

theorem encImm5_fn (low fn : Nat) (d : BitVec 5) (i : BitVec 5) : fld (encImm5 low fn d i) 2 4 = fn % 2 ^ 4 := by
  unfold encImm5; rw [fld_skip _ _ _ (by decide), fld_take _ _ (by decide)]

theorem decJwait16_enc (mk : BitVec 3 → BitVec 6 → Instr) (low fn : Nat) (j : BitVec 3) (p : BitVec 6) :
    decJwait16 mk (encJwait16 low fn j p) = some (mk j p) := by
  simp only [decJwait16, encJwait16, bits, fld_skip, fld_take, Nat.reduceLeDiff, Nat.reduceSub, ofNat_toNat_mod]
  exact if_pos (by decide)

theorem encJwait16_lt (low fn : Nat) (j : BitVec 3) (p : BitVec 6) : encJwait16 low fn j p < 2 ^ 16 := pack_lt _

theorem encJwait16_low (low fn : Nat) (j : BitVec 3) (p : BitVec 6) : fld (encJwait16 low fn j p) 0 2 = low % 2 ^ 2 := fld_take _ _ (Nat.le_refl _)

theorem encJwait16_flag (low fn : Nat) (j : BitVec 3) (p : BitVec 6) : flag (encJwait16 low fn j p) 0 = (low % 2 ^ 1 == 1) := by
  unfold flag encJwait16; rw [fld_take _ _ (by decide)]

theorem encJwait16_fn (low fn : Nat) (j : BitVec 3) (p : BitVec 6) : fld (encJwait16 low fn j p) 2 4 = fn % 2 ^ 4 := by
  unfold encJwait16; rw [fld_skip _ _ _ (by decide), fld_take _ _ (by decide)]

theorem decBarb16_enc (mk : BitVec 4 → Instr) (low fn : Nat) (b : BitVec 4) :
    decBarb16 mk (encBarb16 low fn b) = some (mk b) := by
  simp only [decBarb16, encBarb16, bits, fld_skip, fld_take, Nat.reduceLeDiff, Nat.reduceSub, ofNat_toNat_mod]
  exact if_pos (by decide)

theorem encBarb16_lt (low fn : Nat) (b : BitVec 4) : encBarb16 low fn b < 2 ^ 16 := pack_lt _

theorem encBarb16_low (low fn : Nat) (b : BitVec 4) : fld (encBarb16 low fn b) 0 2 = low % 2 ^ 2 := fld_take _ _ (Nat.le_refl _)

theorem encBarb16_flag (low fn : Nat) (b : BitVec 4) : flag (encBarb16 low fn b) 0 = (low % 2 ^ 1 == 1) := by
  unfold flag encBarb16; rw [fld_take _ _ (by decide)]

theorem encBarb16_fn (low fn : Nat) (b : BitVec 4) : fld (encBarb16 low fn b) 2 4 = fn % 2 ^ 4 := by
  unfold encBarb16; rw [fld_skip _ _ _ (by decide), fld_take _ _ (by decide)]

theorem decMovs16_enc (mk : BitVec 4 → BitVec 6 → Instr) (low fn : Nat) (d : BitVec 4) (s : BitVec 6) :
    decMovs16 mk (encMovs16 low fn d s) = some (mk d s) := by
  simp only [decMovs16, encMovs16, bits, fld_skip, fld_take, Nat.reduceLeDiff, Nat.reduceSub, ofNat_toNat_mod]

theorem encMovs16_lt (low fn : Nat) (d : BitVec 4) (s : BitVec 6) : encMovs16 low fn d s < 2 ^ 16 := pack_lt _

theorem encMovs16_low (low fn : Nat) (d : BitVec 4) (s : BitVec 6) : fld (encMovs16 low fn d s) 0 2 = low % 2 ^ 2 := fld_take _ _ (Nat.le_refl _)

theorem encMovs16_flag (low fn : Nat) (d : BitVec 4) (s : BitVec 6) : flag (encMovs16 low fn d s) 0 = (low % 2 ^ 1 == 1) := by
  unfold flag encMovs16; rw [fld_take _ _ (by decide)]

theorem encMovs16_fn (low fn : Nat) (d : BitVec 4) (s : BitVec 6) : fld (encMovs16 low fn d s) 2 4 = fn % 2 ^ 4 := by
  unfold encMovs16; rw [fld_skip _ _ _ (by decide), fld_take _ _ (by decide)]

theorem decDs_enc (mk : BitVec 6 → BitVec 6 → Instr) (low fn : Nat) (d : BitVec 6) (i : BitVec 6) :
    decDs mk (encDs low fn d i) = some (mk d i) := by
  simp only [decDs, encDs, bits, fld_skip, fld_take, Nat.reduceLeDiff, Nat.reduceSub, ofNat_toNat_mod]
  exact if_pos (by decide)

theorem encDs_lt (low fn : Nat) (d : BitVec 6) (i : BitVec 6) : encDs low fn d i < 2 ^ 32 := pack_lt _

theorem encDs_low (low fn : Nat) (d : BitVec 6) (i : BitVec 6) : fld (encDs low fn d i) 0 4 = low % 2 ^ 4 := fld_take _ _ (Nat.le_refl _)

theorem encDs_flag (low fn : Nat) (d : BitVec 6) (i : BitVec 6) : flag (encDs low fn d i) 0 = (low % 2 ^ 1 == 1) := by
  unfold flag encDs; rw [fld_take _ _ (by decide)]

theorem encDs_fn (low fn : Nat) (d : BitVec 6) (i : BitVec 6) : fld (encDs low fn d i) 4 6 = fn % 2 ^ 6 := by
  unfold encDs; rw [fld_skip _ _ _ (by decide), fld_take _ _ (by decide)]

theorem decDai_enc (mk : BitVec 6 → Src → BitVec 6 → Instr) (low fn : Nat) (d : BitVec 6) (a : Src) (i : BitVec 6) :
    decDai mk (encDai low fn d a i) = some (mk d a i) := by
  simp only [decDai, encDai, bits, flag, fld_skip, fld_take, Nat.reduceLeDiff, Nat.reduceSub, ofNat_toNat_mod, bool_of_bit]
  exact if_pos (by decide)

theorem encDai_lt (low fn : Nat) (d : BitVec 6) (a : Src) (i : BitVec 6) : encDai low fn d a i < 2 ^ 32 := pack_lt _

theorem encDai_low (low fn : Nat) (d : BitVec 6) (a : Src) (i : BitVec 6) : fld (encDai low fn d a i) 0 4 = low % 2 ^ 4 := fld_take _ _ (Nat.le_refl _)

theorem encDai_flag (low fn : Nat) (d : BitVec 6) (a : Src) (i : BitVec 6) : flag (encDai low fn d a i) 0 = (low % 2 ^ 1 == 1) := by
  unfold flag encDai; rw [fld_take _ _ (by decide)]

theorem encDai_fn (low fn : Nat) (d : BitVec 6) (a : Src) (i : BitVec 6) : fld (encDai low fn d a i) 4 6 = fn % 2 ^ 6 := by
  unfold encDai; rw [fld_skip _ _ _ (by decide), fld_take _ _ (by decide)]

theorem decDar_enc (mk : BitVec 6 → Src → RegE → Instr) (low fn : Nat) (d : BitVec 6) (a : Src) (b : RegE) :
    decDar mk (encDar low fn d a b) = some (mk d a b) := by
  simp only [decDar, encDar, bits, flag, fld_skip, fld_take, Nat.reduceLeDiff, Nat.reduceSub, ofNat_toNat_mod, bool_of_bit]
  exact if_pos (by decide)

theorem encDar_lt (low fn : Nat) (d : BitVec 6) (a : Src) (b : RegE) : encDar low fn d a b < 2 ^ 32 := pack_lt _

theorem encDar_low (low fn : Nat) (d : BitVec 6) (a : Src) (b : RegE) : fld (encDar low fn d a b) 0 4 = low % 2 ^ 4 := fld_take _ _ (Nat.le_refl _)

theorem encDar_flag (low fn : Nat) (d : BitVec 6) (a : Src) (b : RegE) : flag (encDar low fn d a b) 0 = (low % 2 ^ 1 == 1) := by
  unfold flag encDar; rw [fld_take _ _ (by decide)]

theorem encDar_fn (low fn : Nat) (d : BitVec 6) (a : Src) (b : RegE) : fld (encDar low fn d a b) 4 6 = fn % 2 ^ 6 := by
  unfold encDar; rw [fld_skip _ _ _ (by decide), fld_take _ _ (by decide)]

theorem decVany_enc (mk : BitVec 3 → BitVec 3 → Instr) (low fn : Nat) (q : BitVec 3) (r : BitVec 3) :
    decVany mk (encVany low fn q r) = some (mk q r) := by
  simp only [decVany, encVany, bits, fld_skip, fld_take, Nat.reduceLeDiff, Nat.reduceSub, ofNat_toNat_mod]
  exact if_pos (by decide)

theorem encVany_lt (low fn : Nat) (q : BitVec 3) (r : BitVec 3) : encVany low fn q r < 2 ^ 32 := pack_lt _

theorem encVany_low (low fn : Nat) (q : BitVec 3) (r : BitVec 3) : fld (encVany low fn q r) 0 4 = low % 2 ^ 4 := fld_take _ _ (Nat.le_refl _)

theorem encVany_flag (low fn : Nat) (q : BitVec 3) (r : BitVec 3) : flag (encVany low fn q r) 0 = (low % 2 ^ 1 == 1) := by
  unfold flag encVany; rw [fld_take _ _ (by decide)]

theorem encVany_fn (low fn : Nat) (q : BitVec 3) (r : BitVec 3) : fld (encVany low fn q r) 4 6 = fn % 2 ^ 6 := by
  unfold encVany; rw [fld_skip _ _ _ (by decide), fld_take _ _ (by decide)]

theorem decPd_enc (mk : BitVec 3 → Instr) (low fn : Nat) (p : BitVec 3) :
    decPd mk (encPd low fn p) = some (mk p) := by
  simp only [decPd, encPd, bits, fld_skip, fld_take, Nat.reduceLeDiff, Nat.reduceSub, ofNat_toNat_mod]
  exact if_pos (by decide)

theorem encPd_lt (low fn : Nat) (p : BitVec 3) : encPd low fn p < 2 ^ 32 := pack_lt _

theorem encPd_low (low fn : Nat) (p : BitVec 3) : fld (encPd low fn p) 0 4 = low % 2 ^ 4 := fld_take _ _ (Nat.le_refl _)

theorem encPd_flag (low fn : Nat) (p : BitVec 3) : flag (encPd low fn p) 0 = (low % 2 ^ 1 == 1) := by
  unfold flag encPd; rw [fld_take _ _ (by decide)]

theorem encPd_fn (low fn : Nat) (p : BitVec 3) : fld (encPd low fn p) 4 6 = fn % 2 ^ 6 := by
  unfold encPd; rw [fld_skip _ _ _ (by decide), fld_take _ _ (by decide)]

theorem decPi_enc (mk : RegE → BitVec 6 → Instr) (low fn : Nat) (a : RegE) (i : BitVec 6) :
    decPi mk (encPi low fn a i) = some (mk a i) := by
  simp only [decPi, encPi, bits, flag, fld_skip, fld_take, fld_span, Nat.reduceLT, Nat.reduceLeDiff, Nat.reduceSub, ofNat_toNat_mod, bool_of_bit]
  exact if_pos (by decide)

theorem encPi_lt (low fn : Nat) (a : RegE) (i : BitVec 6) : encPi low fn a i < 2 ^ 32 := pack_lt _

theorem encPi_low (low fn : Nat) (a : RegE) (i : BitVec 6) : fld (encPi low fn a i) 0 4 = low % 2 ^ 4 := fld_take _ _ (Nat.le_refl _)

theorem encPi_flag (low fn : Nat) (a : RegE) (i : BitVec 6) : flag (encPi low fn a i) 0 = (low % 2 ^ 1 == 1) := by
  unfold flag encPi; rw [fld_take _ _ (by decide)]

theorem encPi_fn (low fn : Nat) (a : RegE) (i : BitVec 6) : fld (encPi low fn a i) 4 6 = fn % 2 ^ 6 := by
  unfold encPi; rw [fld_skip _ _ _ (by decide), fld_take _ _ (by decide)]

theorem decNone_enc (mk : Instr) (low fn : Nat) :
    decNone mk (encNone low fn) = some (mk) := by
  simp only [decNone, encNone, fld_skip, fld_take, Nat.reduceLeDiff, Nat.reduceSub]
  exact if_pos (by decide)

theorem encNone_lt (low fn : Nat) : encNone low fn < 2 ^ 32 := pack_lt _

theorem encNone_low (low fn : Nat) : fld (encNone low fn) 0 4 = low % 2 ^ 4 := fld_take _ _ (Nat.le_refl _)

theorem encNone_flag (low fn : Nat) : flag (encNone low fn) 0 = (low % 2 ^ 1 == 1) := by
  unfold flag encNone; rw [fld_take _ _ (by decide)]

theorem encNone_fn (low fn : Nat) : fld (encNone low fn) 4 6 = fn % 2 ^ 6 := by
  unfold encNone; rw [fld_skip _ _ _ (by decide), fld_take _ _ (by decide)]

theorem decA_enc (mk : Src → Instr) (low fn : Nat) (a : Src) :
    decA mk (encA low fn a) = some (mk a) := by
  simp only [decA, encA, bits, flag, fld_skip, fld_take, Nat.reduceLeDiff, Nat.reduceSub, ofNat_toNat_mod, bool_of_bit]
  exact if_pos (by decide)

theorem encA_lt (low fn : Nat) (a : Src) : encA low fn a < 2 ^ 32 := pack_lt _

theorem encA_low (low fn : Nat) (a : Src) : fld (encA low fn a) 0 4 = low % 2 ^ 4 := fld_take _ _ (Nat.le_refl _)

theorem encA_flag (low fn : Nat) (a : Src) : flag (encA low fn a) 0 = (low % 2 ^ 1 == 1) := by
  unfold flag encA; rw [fld_take _ _ (by decide)]

theorem encA_fn (low fn : Nat) (a : Src) : fld (encA low fn a) 4 6 = fn % 2 ^ 6 := by
  unfold encA; rw [fld_skip _ _ _ (by decide), fld_take _ _ (by decide)]

theorem decAi_enc (mk : Src → BitVec 6 → Instr) (low fn : Nat) (a : Src) (i : BitVec 6) :
    decAi mk (encAi low fn a i) = some (mk a i) := by
  simp only [decAi, encAi, bits, flag, fld_skip, fld_take, Nat.reduceLeDiff, Nat.reduceSub, ofNat_toNat_mod, bool_of_bit]
  exact if_pos (by decide)

theorem encAi_lt (low fn : Nat) (a : Src) (i : BitVec 6) : encAi low fn a i < 2 ^ 32 := pack_lt _

theorem encAi_low (low fn : Nat) (a : Src) (i : BitVec 6) : fld (encAi low fn a i) 0 4 = low % 2 ^ 4 := fld_take _ _ (Nat.le_refl _)

theorem encAi_flag (low fn : Nat) (a : Src) (i : BitVec 6) : flag (encAi low fn a i) 0 = (low % 2 ^ 1 == 1) := by
  unfold flag encAi; rw [fld_take _ _ (by decide)]

theorem encAi_fn (low fn : Nat) (a : Src) (i : BitVec 6) : fld (encAi low fn a i) 4 6 = fn % 2 ^ 6 := by
  unfold encAi; rw [fld_skip _ _ _ (by decide), fld_take _ _ (by decide)]

theorem decPai_enc (mk : BitVec 3 → Src → BitVec 6 → Instr) (low fn : Nat) (p : BitVec 3) (a : Src) (i : BitVec 6) :
    decPai mk (encPai low fn p a i) = some (mk p a i) := by
  simp only [decPai, encPai, bits, flag, fld_skip, fld_take, Nat.reduceLeDiff, Nat.reduceSub, ofNat_toNat_mod, bool_of_bit]
  exact if_pos (by decide)

theorem encPai_lt (low fn : Nat) (p : BitVec 3) (a : Src) (i : BitVec 6) : encPai low fn p a i < 2 ^ 32 := pack_lt _

theorem encPai_low (low fn : Nat) (p : BitVec 3) (a : Src) (i : BitVec 6) : fld (encPai low fn p a i) 0 4 = low % 2 ^ 4 := fld_take _ _ (Nat.le_refl _)

theorem encPai_flag (low fn : Nat) (p : BitVec 3) (a : Src) (i : BitVec 6) : flag (encPai low fn p a i) 0 = (low % 2 ^ 1 == 1) := by
  unfold flag encPai; rw [fld_take _ _ (by decide)]

theorem encPai_fn (low fn : Nat) (p : BitVec 3) (a : Src) (i : BitVec 6) : fld (encPai low fn p a i) 4 6 = fn % 2 ^ 6 := by
  unfold encPai; rw [fld_skip _ _ _ (by decide), fld_take _ _ (by decide)]

theorem decTdab_enc (mk : BitVec 6 → BitVec 6 → BitVec 6 → BitVec 3 → Bool → Instr) (low fn : Nat) (d : BitVec 6) (a : BitVec 6) (b : BitVec 6) (k : BitVec 3) (rec : Bool) :
    decTdab mk (encTdab low fn d a b k rec) = some (mk d a b k rec) := by
  simp only [decTdab, encTdab, bits, flag, fld_skip, fld_take, Nat.reduceLeDiff, Nat.reduceSub, ofNat_toNat_mod, bool_of_bit]

theorem encTdab_lt (low fn : Nat) (d : BitVec 6) (a : BitVec 6) (b : BitVec 6) (k : BitVec 3) (rec : Bool) : encTdab low fn d a b k rec < 2 ^ 32 := pack_lt _

theorem encTdab_low (low fn : Nat) (d : BitVec 6) (a : BitVec 6) (b : BitVec 6) (k : BitVec 3) (rec : Bool) : fld (encTdab low fn d a b k rec) 0 4 = low % 2 ^ 4 := fld_take _ _ (Nat.le_refl _)

theorem encTdab_flag (low fn : Nat) (d : BitVec 6) (a : BitVec 6) (b : BitVec 6) (k : BitVec 3) (rec : Bool) : flag (encTdab low fn d a b k rec) 0 = (low % 2 ^ 1 == 1) := by
  unfold flag encTdab; rw [fld_take _ _ (by decide)]

theorem encTdab_fn (low fn : Nat) (d : BitVec 6) (a : BitVec 6) (b : BitVec 6) (k : BitVec 3) (rec : Bool) : fld (encTdab low fn d a b k rec) 4 6 = fn % 2 ^ 6 := by
  unfold encTdab; rw [fld_skip _ _ _ (by decide), fld_take _ _ (by decide)]

theorem decTa_enc (mk : BitVec 6 → BitVec 3 → Bool → Instr) (low fn : Nat) (a : BitVec 6) (k : BitVec 3) (rec : Bool) :
    decTa mk (encTa low fn a k rec) = some (mk a k rec) := by
  simp only [decTa, encTa, bits, flag, fld_skip, fld_take, Nat.reduceLeDiff, Nat.reduceSub, ofNat_toNat_mod, bool_of_bit]
  exact if_pos (by decide)

theorem encTa_lt (low fn : Nat) (a : BitVec 6) (k : BitVec 3) (rec : Bool) : encTa low fn a k rec < 2 ^ 32 := pack_lt _

theorem encTa_low (low fn : Nat) (a : BitVec 6) (k : BitVec 3) (rec : Bool) : fld (encTa low fn a k rec) 0 4 = low % 2 ^ 4 := fld_take _ _ (Nat.le_refl _)

theorem encTa_flag (low fn : Nat) (a : BitVec 6) (k : BitVec 3) (rec : Bool) : flag (encTa low fn a k rec) 0 = (low % 2 ^ 1 == 1) := by
  unfold flag encTa; rw [fld_take _ _ (by decide)]

theorem encTa_fn (low fn : Nat) (a : BitVec 6) (k : BitVec 3) (rec : Bool) : fld (encTa low fn a k rec) 4 6 = fn % 2 ^ 6 := by
  unfold encTa; rw [fld_skip _ _ _ (by decide), fld_take _ _ (by decide)]

theorem decDq_enc (mk : BitVec 6 → BitVec 3 → Instr) (low fn : Nat) (d : BitVec 6) (q : BitVec 3) :
    decDq mk (encDq low fn d q) = some (mk d q) := by
  simp only [decDq, encDq, bits, fld_skip, fld_take, Nat.reduceLeDiff, Nat.reduceSub, ofNat_toNat_mod]
  exact if_pos (by decide)

theorem encDq_lt (low fn : Nat) (d : BitVec 6) (q : BitVec 3) : encDq low fn d q < 2 ^ 32 := pack_lt _

theorem encDq_low (low fn : Nat) (d : BitVec 6) (q : BitVec 3) : fld (encDq low fn d q) 0 4 = low % 2 ^ 4 := fld_take _ _ (Nat.le_refl _)

theorem encDq_flag (low fn : Nat) (d : BitVec 6) (q : BitVec 3) : flag (encDq low fn d q) 0 = (low % 2 ^ 1 == 1) := by
  unfold flag encDq; rw [fld_take _ _ (by decide)]

theorem encDq_fn (low fn : Nat) (d : BitVec 6) (q : BitVec 3) : fld (encDq low fn d q) 4 6 = fn % 2 ^ 6 := by
  unfold encDq; rw [fld_skip _ _ _ (by decide), fld_take _ _ (by decide)]

theorem decP_enc (mk : RegE → Instr) (low fn : Nat) (a : RegE) :
    decP mk (encP low fn a) = some (mk a) := by
  simp only [decP, encP, bits, flag, fld_skip, fld_take, fld_span, Nat.reduceLT, Nat.reduceLeDiff, Nat.reduceSub, ofNat_toNat_mod, bool_of_bit]
  exact if_pos (by decide)

theorem encP_lt (low fn : Nat) (a : RegE) : encP low fn a < 2 ^ 32 := pack_lt _

theorem encP_low (low fn : Nat) (a : RegE) : fld (encP low fn a) 0 4 = low % 2 ^ 4 := fld_take _ _ (Nat.le_refl _)

theorem encP_flag (low fn : Nat) (a : RegE) : flag (encP low fn a) 0 = (low % 2 ^ 1 == 1) := by
  unfold flag encP; rw [fld_take _ _ (by decide)]

theorem encP_fn (low fn : Nat) (a : RegE) : fld (encP low fn a) 4 6 = fn % 2 ^ 6 := by
  unfold encP; rw [fld_skip _ _ _ (by decide), fld_take _ _ (by decide)]

theorem decPq_enc (mk : RegE → Bool → Instr) (low fn : Nat) (a : RegE) (q : Bool) :
    decPq mk (encPq low fn a q) = some (mk a q) := by
  simp only [decPq, encPq, bits, flag, fld_skip, fld_take, fld_span, Nat.reduceLT, Nat.reduceLeDiff, Nat.reduceSub, ofNat_toNat_mod, bool_of_bit]
  exact if_pos (by decide)

theorem encPq_lt (low fn : Nat) (a : RegE) (q : Bool) : encPq low fn a q < 2 ^ 32 := pack_lt _

theorem encPq_low (low fn : Nat) (a : RegE) (q : Bool) : fld (encPq low fn a q) 0 4 = low % 2 ^ 4 := fld_take _ _ (Nat.le_refl _)

theorem encPq_flag (low fn : Nat) (a : RegE) (q : Bool) : flag (encPq low fn a q) 0 = (low % 2 ^ 1 == 1) := by
  unfold flag encPq; rw [fld_take _ _ (by decide)]

theorem encPq_fn (low fn : Nat) (a : RegE) (q : Bool) : fld (encPq low fn a q) 4 6 = fn % 2 ^ 6 := by
  unfold encPq; rw [fld_skip _ _ _ (by decide), fld_take _ _ (by decide)]

theorem decD_enc (mk : BitVec 6 → Instr) (low fn : Nat) (d : BitVec 6) :
    decD mk (encD low fn d) = some (mk d) := by
  simp only [decD, encD, bits, fld_skip, fld_take, Nat.reduceLeDiff, Nat.reduceSub, ofNat_toNat_mod]
  exact if_pos (by decide)

theorem encD_lt (low fn : Nat) (d : BitVec 6) : encD low fn d < 2 ^ 32 := pack_lt _

theorem encD_low (low fn : Nat) (d : BitVec 6) : fld (encD low fn d) 0 4 = low % 2 ^ 4 := fld_take _ _ (Nat.le_refl _)

theorem encD_flag (low fn : Nat) (d : BitVec 6) : flag (encD low fn d) 0 = (low % 2 ^ 1 == 1) := by
  unfold flag encD; rw [fld_take _ _ (by decide)]

theorem encD_fn (low fn : Nat) (d : BitVec 6) : fld (encD low fn d) 4 6 = fn % 2 ^ 6 := by
  unfold encD; rw [fld_skip _ _ _ (by decide), fld_take _ _ (by decide)]

theorem decDi_enc (mk : BitVec 6 → BitVec 6 → Instr) (low fn : Nat) (d : BitVec 6) (i : BitVec 6) :
    decDi mk (encDi low fn d i) = some (mk d i) := by
  simp only [decDi, encDi, bits, fld_skip, fld_take, Nat.reduceLeDiff, Nat.reduceSub, ofNat_toNat_mod]
  exact if_pos (by decide)

theorem encDi_lt (low fn : Nat) (d : BitVec 6) (i : BitVec 6) : encDi low fn d i < 2 ^ 32 := pack_lt _

theorem encDi_low (low fn : Nat) (d : BitVec 6) (i : BitVec 6) : fld (encDi low fn d i) 0 4 = low % 2 ^ 4 := fld_take _ _ (Nat.le_refl _)

theorem encDi_flag (low fn : Nat) (d : BitVec 6) (i : BitVec 6) : flag (encDi low fn d i) 0 = (low % 2 ^ 1 == 1) := by
  unfold flag encDi; rw [fld_take _ _ (by decide)]

theorem encDi_fn (low fn : Nat) (d : BitVec 6) (i : BitVec 6) : fld (encDi low fn d i) 4 6 = fn % 2 ^ 6 := by
  unfold encDi; rw [fld_skip _ _ _ (by decide), fld_take _ _ (by decide)]

theorem decPdi_enc (mk : BitVec 3 → BitVec 6 → Instr) (low fn : Nat) (p : BitVec 3) (i : BitVec 6) :
    decPdi mk (encPdi low fn p i) = some (mk p i) := by
  simp only [decPdi, encPdi, bits, fld_skip, fld_take, fld_span, Nat.reduceLT, Nat.reduceLeDiff, Nat.reduceSub, ofNat_toNat_mod]
  exact if_pos (by decide)

theorem encPdi_lt (low fn : Nat) (p : BitVec 3) (i : BitVec 6) : encPdi low fn p i < 2 ^ 32 := pack_lt _

theorem encPdi_low (low fn : Nat) (p : BitVec 3) (i : BitVec 6) : fld (encPdi low fn p i) 0 4 = low % 2 ^ 4 := fld_take _ _ (Nat.le_refl _)

theorem encPdi_flag (low fn : Nat) (p : BitVec 3) (i : BitVec 6) : flag (encPdi low fn p i) 0 = (low % 2 ^ 1 == 1) := by
  unfold flag encPdi; rw [fld_take _ _ (by decide)]

theorem encPdi_fn (low fn : Nat) (p : BitVec 3) (i : BitVec 6) : fld (encPdi low fn p i) 4 6 = fn % 2 ^ 6 := by
  unfold encPdi; rw [fld_skip _ _ _ (by decide), fld_take _ _ (by decide)]

theorem decI_enc (mk : BitVec 6 → Instr) (low fn : Nat) (i : BitVec 6) :
    decI mk (encI low fn i) = some (mk i) := by
  simp only [decI, encI, bits, fld_skip, fld_take, fld_span, Nat.reduceLT, Nat.reduceLeDiff, Nat.reduceSub, ofNat_toNat_mod]
  exact if_pos (by decide)

theorem encI_lt (low fn : Nat) (i : BitVec 6) : encI low fn i < 2 ^ 32 := pack_lt _

theorem encI_low (low fn : Nat) (i : BitVec 6) : fld (encI low fn i) 0 4 = low % 2 ^ 4 := fld_take _ _ (Nat.le_refl _)

theorem encI_flag (low fn : Nat) (i : BitVec 6) : flag (encI low fn i) 0 = (low % 2 ^ 1 == 1) := by
  unfold flag encI; rw [fld_take _ _ (by decide)]

theorem encI_fn (low fn : Nat) (i : BitVec 6) : fld (encI low fn i) 4 6 = fn % 2 ^ 6 := by
  unfold encI; rw [fld_skip _ _ _ (by decide), fld_take _ _ (by decide)]

theorem decTab_enc (mk : BitVec 6 → BitVec 6 → BitVec 3 → Bool → Instr) (low fn : Nat) (a : BitVec 6) (b : BitVec 6) (k : BitVec 3) (rec : Bool) :
    decTab mk (encTab low fn a b k rec) = some (mk a b k rec) := by
  simp only [decTab, encTab, bits, flag, fld_skip, fld_take, Nat.reduceLeDiff, Nat.reduceSub, ofNat_toNat_mod, bool_of_bit]
  exact if_pos (by decide)

theorem encTab_lt (low fn : Nat) (a : BitVec 6) (b : BitVec 6) (k : BitVec 3) (rec : Bool) : encTab low fn a b k rec < 2 ^ 32 := pack_lt _

theorem encTab_low (low fn : Nat) (a : BitVec 6) (b : BitVec 6) (k : BitVec 3) (rec : Bool) : fld (encTab low fn a b k rec) 0 4 = low % 2 ^ 4 := fld_take _ _ (Nat.le_refl _)

theorem encTab_flag (low fn : Nat) (a : BitVec 6) (b : BitVec 6) (k : BitVec 3) (rec : Bool) : flag (encTab low fn a b k rec) 0 = (low % 2 ^ 1 == 1) := by
  unfold flag encTab; rw [fld_take _ _ (by decide)]

theorem encTab_fn (low fn : Nat) (a : BitVec 6) (b : BitVec 6) (k : BitVec 3) (rec : Bool) : fld (encTab low fn a b k rec) 4 6 = fn % 2 ^ 6 := by
  unfold encTab; rw [fld_skip _ _ _ (by decide), fld_take _ _ (by decide)]

theorem decTda_enc (mk : BitVec 6 → BitVec 6 → BitVec 3 → Bool → Instr) (low fn : Nat) (d : BitVec 6) (a : BitVec 6) (k : BitVec 3) (rec : Bool) :
    decTda mk (encTda low fn d a k rec) = some (mk d a k rec) := by
  simp only [decTda, encTda, bits, flag, fld_skip, fld_take, Nat.reduceLeDiff, Nat.reduceSub, ofNat_toNat_mod, bool_of_bit]
  exact if_pos (by decide)

theorem encTda_lt (low fn : Nat) (d : BitVec 6) (a : BitVec 6) (k : BitVec 3) (rec : Bool) : encTda low fn d a k rec < 2 ^ 32 := pack_lt _

theorem encTda_low (low fn : Nat) (d : BitVec 6) (a : BitVec 6) (k : BitVec 3) (rec : Bool) : fld (encTda low fn d a k rec) 0 4 = low % 2 ^ 4 := fld_take _ _ (Nat.le_refl _)

theorem encTda_flag (low fn : Nat) (d : BitVec 6) (a : BitVec 6) (k : BitVec 3) (rec : Bool) : flag (encTda low fn d a k rec) 0 = (low % 2 ^ 1 == 1) := by
  unfold flag encTda; rw [fld_take _ _ (by decide)]

theorem encTda_fn (low fn : Nat) (d : BitVec 6) (a : BitVec 6) (k : BitVec 3) (rec : Bool) : fld (encTda low fn d a k rec) 4 6 = fn % 2 ^ 6 := by
  unfold encTda; rw [fld_skip _ _ _ (by decide), fld_take _ _ (by decide)]

theorem decPdp_enc (mk : BitVec 3 → RegE → Instr) (low fn : Nat) (p : BitVec 3) (a : RegE) :
    decPdp mk (encPdp low fn p a) = some (mk p a) := by
  simp only [decPdp, encPdp, bits, flag, fld_skip, fld_take, fld_span, Nat.reduceLT, Nat.reduceLeDiff, Nat.reduceSub, ofNat_toNat_mod, bool_of_bit]
  exact if_pos (by decide)

theorem encPdp_lt (low fn : Nat) (p : BitVec 3) (a : RegE) : encPdp low fn p a < 2 ^ 32 := pack_lt _

theorem encPdp_low (low fn : Nat) (p : BitVec 3) (a : RegE) : fld (encPdp low fn p a) 0 4 = low % 2 ^ 4 := fld_take _ _ (Nat.le_refl _)

theorem encPdp_flag (low fn : Nat) (p : BitVec 3) (a : RegE) : flag (encPdp low fn p a) 0 = (low % 2 ^ 1 == 1) := by
  unfold flag encPdp; rw [fld_take _ _ (by decide)]

theorem encPdp_fn (low fn : Nat) (p : BitVec 3) (a : RegE) : fld (encPdp low fn p a) 4 6 = fn % 2 ^ 6 := by
  unfold encPdp; rw [fld_skip _ _ _ (by decide), fld_take _ _ (by decide)]

theorem decTdan_enc (mk : BitVec 6 → BitVec 6 → BitVec 3 → Instr) (low fn : Nat) (d : BitVec 6) (a : BitVec 6) (k : BitVec 3) :
    decTdan mk (encTdan low fn d a k) = some (mk d a k) := by
  simp only [decTdan, encTdan, bits, fld_skip, fld_take, Nat.reduceLeDiff, Nat.reduceSub, ofNat_toNat_mod]
  exact if_pos (by decide)

theorem encTdan_lt (low fn : Nat) (d : BitVec 6) (a : BitVec 6) (k : BitVec 3) : encTdan low fn d a k < 2 ^ 32 := pack_lt _

theorem encTdan_low (low fn : Nat) (d : BitVec 6) (a : BitVec 6) (k : BitVec 3) : fld (encTdan low fn d a k) 0 4 = low % 2 ^ 4 := fld_take _ _ (Nat.le_refl _)

theorem encTdan_flag (low fn : Nat) (d : BitVec 6) (a : BitVec 6) (k : BitVec 3) : flag (encTdan low fn d a k) 0 = (low % 2 ^ 1 == 1) := by
  unfold flag encTdan; rw [fld_take _ _ (by decide)]

theorem encTdan_fn (low fn : Nat) (d : BitVec 6) (a : BitVec 6) (k : BitVec 3) : fld (encTdan low fn d a k) 4 6 = fn % 2 ^ 6 := by
  unfold encTdan; rw [fld_skip _ _ _ (by decide), fld_take _ _ (by decide)]

theorem decPdpp_enc (mk : BitVec 3 → RegE → RegE → Instr) (low fn : Nat) (p : BitVec 3) (a : RegE) (b : RegE) :
    decPdpp mk (encPdpp low fn p a b) = some (mk p a b) := by
  simp only [decPdpp, encPdpp, bits, flag, fld_skip, fld_take, Nat.reduceLeDiff, Nat.reduceSub, ofNat_toNat_mod, bool_of_bit]
  exact if_pos (by decide)

theorem encPdpp_lt (low fn : Nat) (p : BitVec 3) (a : RegE) (b : RegE) : encPdpp low fn p a b < 2 ^ 32 := pack_lt _

theorem encPdpp_low (low fn : Nat) (p : BitVec 3) (a : RegE) (b : RegE) : fld (encPdpp low fn p a b) 0 4 = low % 2 ^ 4 := fld_take _ _ (Nat.le_refl _)

theorem encPdpp_flag (low fn : Nat) (p : BitVec 3) (a : RegE) (b : RegE) : flag (encPdpp low fn p a b) 0 = (low % 2 ^ 1 == 1) := by
  unfold flag encPdpp; rw [fld_take _ _ (by decide)]

theorem encPdpp_fn (low fn : Nat) (p : BitVec 3) (a : RegE) (b : RegE) : fld (encPdpp low fn p a b) 4 6 = fn % 2 ^ 6 := by
  unfold encPdpp; rw [fld_skip _ _ _ (by decide), fld_take _ _ (by decide)]

theorem decFence_enc (mk : BitVec 2 → Bool → BitVec 3 → Instr) (low fn : Nat) (k : BitVec 2) (c : Bool) (s : BitVec 3) :
    decFence mk (encFence low fn k c s) = some (mk k c s) := by
  simp only [decFence, encFence, bits, flag, fld_skip, fld_take, Nat.reduceLeDiff, Nat.reduceSub, ofNat_toNat_mod, bool_of_bit]
  exact if_pos (by decide)

theorem encFence_lt (low fn : Nat) (k : BitVec 2) (c : Bool) (s : BitVec 3) : encFence low fn k c s < 2 ^ 32 := pack_lt _

theorem encFence_low (low fn : Nat) (k : BitVec 2) (c : Bool) (s : BitVec 3) : fld (encFence low fn k c s) 0 4 = low % 2 ^ 4 := fld_take _ _ (Nat.le_refl _)

theorem encFence_flag (low fn : Nat) (k : BitVec 2) (c : Bool) (s : BitVec 3) : flag (encFence low fn k c s) 0 = (low % 2 ^ 1 == 1) := by
  unfold flag encFence; rw [fld_take _ _ (by decide)]

theorem encFence_fn (low fn : Nat) (k : BitVec 2) (c : Bool) (s : BitVec 3) : fld (encFence low fn k c s) 4 6 = fn % 2 ^ 6 := by
  unfold encFence; rw [fld_skip _ _ _ (by decide), fld_take _ _ (by decide)]

theorem decFencex_enc (mk : BitVec 4 → BitVec 4 → BitVec 3 → Instr) (low fn : Nat) (x : BitVec 4) (y : BitVec 4) (s : BitVec 3) :
    decFencex mk (encFencex low fn x y s) = some (mk x y s) := by
  simp only [decFencex, encFencex, bits, fld_skip, fld_take, Nat.reduceLeDiff, Nat.reduceSub, ofNat_toNat_mod]
  exact if_pos (by decide)

theorem encFencex_lt (low fn : Nat) (x : BitVec 4) (y : BitVec 4) (s : BitVec 3) : encFencex low fn x y s < 2 ^ 32 := pack_lt _

theorem encFencex_low (low fn : Nat) (x : BitVec 4) (y : BitVec 4) (s : BitVec 3) : fld (encFencex low fn x y s) 0 4 = low % 2 ^ 4 := fld_take _ _ (Nat.le_refl _)

theorem encFencex_flag (low fn : Nat) (x : BitVec 4) (y : BitVec 4) (s : BitVec 3) : flag (encFencex low fn x y s) 0 = (low % 2 ^ 1 == 1) := by
  unfold flag encFencex; rw [fld_take _ _ (by decide)]

theorem encFencex_fn (low fn : Nat) (x : BitVec 4) (y : BitVec 4) (s : BitVec 3) : fld (encFencex low fn x y s) 4 6 = fn % 2 ^ 6 := by
  unfold encFencex; rw [fld_skip _ _ _ (by decide), fld_take _ _ (by decide)]

theorem decPmcfg_enc (mk : BitVec 2 → RegE → Instr) (low fn : Nat) (c : BitVec 2) (a : RegE) :
    decPmcfg mk (encPmcfg low fn c a) = some (mk c a) := by
  simp only [decPmcfg, encPmcfg, bits, flag, fld_skip, fld_take, Nat.reduceLeDiff, Nat.reduceSub, ofNat_toNat_mod, bool_of_bit]
  exact if_pos (by decide)

theorem encPmcfg_lt (low fn : Nat) (c : BitVec 2) (a : RegE) : encPmcfg low fn c a < 2 ^ 32 := pack_lt _

theorem encPmcfg_low (low fn : Nat) (c : BitVec 2) (a : RegE) : fld (encPmcfg low fn c a) 0 4 = low % 2 ^ 4 := fld_take _ _ (Nat.le_refl _)

theorem encPmcfg_flag (low fn : Nat) (c : BitVec 2) (a : RegE) : flag (encPmcfg low fn c a) 0 = (low % 2 ^ 1 == 1) := by
  unfold flag encPmcfg; rw [fld_take _ _ (by decide)]

theorem encPmcfg_fn (low fn : Nat) (c : BitVec 2) (a : RegE) : fld (encPmcfg low fn c a) 4 6 = fn % 2 ^ 6 := by
  unfold encPmcfg; rw [fld_skip _ _ _ (by decide), fld_take _ _ (by decide)]

theorem decPmrd_enc (mk : BitVec 6 → BitVec 2 → Instr) (low fn : Nat) (d : BitVec 6) (c : BitVec 2) :
    decPmrd mk (encPmrd low fn d c) = some (mk d c) := by
  simp only [decPmrd, encPmrd, bits, fld_skip, fld_take, Nat.reduceLeDiff, Nat.reduceSub, ofNat_toNat_mod]
  exact if_pos (by decide)

theorem encPmrd_lt (low fn : Nat) (d : BitVec 6) (c : BitVec 2) : encPmrd low fn d c < 2 ^ 32 := pack_lt _

theorem encPmrd_low (low fn : Nat) (d : BitVec 6) (c : BitVec 2) : fld (encPmrd low fn d c) 0 4 = low % 2 ^ 4 := fld_take _ _ (Nat.le_refl _)

theorem encPmrd_flag (low fn : Nat) (d : BitVec 6) (c : BitVec 2) : flag (encPmrd low fn d c) 0 = (low % 2 ^ 1 == 1) := by
  unfold flag encPmrd; rw [fld_take _ _ (by decide)]

theorem encPmrd_fn (low fn : Nat) (d : BitVec 6) (c : BitVec 2) : fld (encPmrd low fn d c) 4 6 = fn % 2 ^ 6 := by
  unfold encPmrd; rw [fld_skip _ _ _ (by decide), fld_take _ _ (by decide)]

theorem decPdab_enc (mk : BitVec 3 → Src → Src → Instr) (low fn : Nat) (p : BitVec 3) (a : Src) (b : Src) :
    decPdab mk (encPdab low fn p a b) = some (mk p a b) := by
  simp only [decPdab, encPdab, bits, flag, fld_skip, fld_take, Nat.reduceLeDiff, Nat.reduceSub, ofNat_toNat_mod, bool_of_bit]
  exact if_pos (by decide)

theorem encPdab_lt (low fn : Nat) (p : BitVec 3) (a : Src) (b : Src) : encPdab low fn p a b < 2 ^ 32 := pack_lt _

theorem encPdab_low (low fn : Nat) (p : BitVec 3) (a : Src) (b : Src) : fld (encPdab low fn p a b) 0 4 = low % 2 ^ 4 := fld_take _ _ (Nat.le_refl _)

theorem encPdab_flag (low fn : Nat) (p : BitVec 3) (a : Src) (b : Src) : flag (encPdab low fn p a b) 0 = (low % 2 ^ 1 == 1) := by
  unfold flag encPdab; rw [fld_take _ _ (by decide)]

theorem encPdab_fn (low fn : Nat) (p : BitVec 3) (a : Src) (b : Src) : fld (encPdab low fn p a b) 4 6 = fn % 2 ^ 6 := by
  unfold encPdab; rw [fld_skip _ _ _ (by decide), fld_take _ _ (by decide)]

theorem decPb_enc (mk : RegE → Src → Instr) (low fn : Nat) (a : RegE) (b : Src) :
    decPb mk (encPb low fn a b) = some (mk a b) := by
  simp only [decPb, encPb, bits, flag, fld_skip, fld_take, Nat.reduceLeDiff, Nat.reduceSub, ofNat_toNat_mod, bool_of_bit]
  exact if_pos (by decide)

theorem encPb_lt (low fn : Nat) (a : RegE) (b : Src) : encPb low fn a b < 2 ^ 32 := pack_lt _

theorem encPb_low (low fn : Nat) (a : RegE) (b : Src) : fld (encPb low fn a b) 0 4 = low % 2 ^ 4 := fld_take _ _ (Nat.le_refl _)

theorem encPb_flag (low fn : Nat) (a : RegE) (b : Src) : flag (encPb low fn a b) 0 = (low % 2 ^ 1 == 1) := by
  unfold flag encPb; rw [fld_take _ _ (by decide)]

theorem encPb_fn (low fn : Nat) (a : RegE) (b : Src) : fld (encPb low fn a b) 4 6 = fn % 2 ^ 6 := by
  unfold encPb; rw [fld_skip _ _ _ (by decide), fld_take _ _ (by decide)]

theorem decAb_enc (mk : Src → Src → Instr) (low fn : Nat) (a : Src) (b : Src) :
    decAb mk (encAb low fn a b) = some (mk a b) := by
  simp only [decAb, encAb, bits, flag, fld_skip, fld_take, Nat.reduceLeDiff, Nat.reduceSub, ofNat_toNat_mod, bool_of_bit]
  exact if_pos (by decide)

theorem encAb_lt (low fn : Nat) (a : Src) (b : Src) : encAb low fn a b < 2 ^ 32 := pack_lt _

theorem encAb_low (low fn : Nat) (a : Src) (b : Src) : fld (encAb low fn a b) 0 4 = low % 2 ^ 4 := fld_take _ _ (Nat.le_refl _)

theorem encAb_flag (low fn : Nat) (a : Src) (b : Src) : flag (encAb low fn a b) 0 = (low % 2 ^ 1 == 1) := by
  unfold flag encAb; rw [fld_take _ _ (by decide)]

theorem encAb_fn (low fn : Nat) (a : Src) (b : Src) : fld (encAb low fn a b) 4 6 = fn % 2 ^ 6 := by
  unfold encAb; rw [fld_skip _ _ _ (by decide), fld_take _ _ (by decide)]

theorem decTan_enc (mk : BitVec 6 → BitVec 3 → Instr) (low fn : Nat) (a : BitVec 6) (k : BitVec 3) :
    decTan mk (encTan low fn a k) = some (mk a k) := by
  simp only [decTan, encTan, bits, fld_skip, fld_take, Nat.reduceLeDiff, Nat.reduceSub, ofNat_toNat_mod]
  exact if_pos (by decide)

theorem encTan_lt (low fn : Nat) (a : BitVec 6) (k : BitVec 3) : encTan low fn a k < 2 ^ 32 := pack_lt _

theorem encTan_low (low fn : Nat) (a : BitVec 6) (k : BitVec 3) : fld (encTan low fn a k) 0 4 = low % 2 ^ 4 := fld_take _ _ (Nat.le_refl _)

theorem encTan_flag (low fn : Nat) (a : BitVec 6) (k : BitVec 3) : flag (encTan low fn a k) 0 = (low % 2 ^ 1 == 1) := by
  unfold flag encTan; rw [fld_take _ _ (by decide)]

theorem encTan_fn (low fn : Nat) (a : BitVec 6) (k : BitVec 3) : fld (encTan low fn a k) 4 6 = fn % 2 ^ 6 := by
  unfold encTan; rw [fld_skip _ _ _ (by decide), fld_take _ _ (by decide)]

end Sys2Proof
end

