-- ==== Sys2Proof/Laws/Memory.lean ====
section
/-! SUPPORT. The canonical form of memory: addresses strictly rising and no entry at the unwritten value. Every operation that writes
memory keeps it, and the state after reset has it; memory is written through `setByte`, `setBytes`, `setHost`, `toArray` and `copyPage` alone. -/

set_option Elab.async false

namespace Sys2Proof.Machine

/-- The form in the words of lists: keys pairwise rising, every value other than the unwritten one. -/
theorem Memory.wf_iff (m : Map Byte) : Memory.wf m = true ↔ m.Pairwise (fun p q => p.1 < q.1) ∧ ∀ p ∈ m, p.2 ≠ unwritten := by
  induction m with
  | nil => simp [Memory.wf]
  | cons p r ih =>
    cases r with
    | nil => simp [Memory.wf]
    | cons q t =>
      simp only [Memory.wf, Bool.and_eq_true, decide_eq_true_eq, bne_iff_ne, ih, List.pairwise_cons, List.forall_mem_cons]
      constructor
      · rintro ⟨⟨h1, h2⟩, ⟨h3, h4⟩, h5, h6⟩
        exact ⟨⟨⟨h1, fun a ha => Nat.lt_trans h1 (h3 a ha)⟩, h3, h4⟩, h2, h5, h6⟩
      · rintro ⟨⟨⟨h1, -⟩, h3, h4⟩, h2, h5, h6⟩
        exact ⟨⟨h1, h2⟩, ⟨h3, h4⟩, h5, h6⟩

theorem Memory.wf_filter {m : Map Byte} (h : Memory.wf m = true) (f : Nat × Byte → Bool) : Memory.wf (m.filter f) = true := by
  rw [Memory.wf_iff] at h ⊢
  exact ⟨h.1.filter _, fun p hp => h.2 p (List.mem_filter.mp hp).1⟩

/-- What `put` holds: the new pair, and pairs of the map. -/
theorem Map.mem_put {α : Type} {m : Map α} {k : Nat} {v : α} {p : Nat × α} (h : p ∈ Map.put m k v) : p = (k, v) ∨ p ∈ m := by
  induction m with
  | nil => simpa [Map.put] using h
  | cons q r ih =>
    obtain ⟨j, u⟩ := q
    unfold Map.put at h
    split at h
    · simpa [or_assoc] using h
    · split at h
      · rcases List.mem_cons.mp h with h | h
        · exact .inl h
        · exact .inr (List.mem_cons_of_mem _ h)
      · rcases List.mem_cons.mp h with h | h
        · exact .inr (h ▸ List.mem_cons_self)
        · exact (ih h).imp id (List.mem_cons_of_mem _)

/-- `put` keeps keys rising. -/
theorem Map.rising_put {α : Type} {m : Map α} (k : Nat) (v : α) (h : m.Pairwise (fun p q => p.1 < q.1)) :
    (Map.put m k v).Pairwise (fun p q => p.1 < q.1) := by
  induction m with
  | nil => simp [Map.put]
  | cons q r ih =>
    obtain ⟨j, u⟩ := q
    rw [List.pairwise_cons] at h
    unfold Map.put
    split
    · next hk =>
      refine List.pairwise_cons.mpr ⟨fun a ha => ?_, List.pairwise_cons.mpr h⟩
      rcases List.mem_cons.mp ha with rfl | ha
      · exact hk
      · exact Nat.lt_trans hk (h.1 a ha)
    · split
      · next hk => subst hk; exact List.pairwise_cons.mpr h
      · next h1 h2 =>
        refine List.pairwise_cons.mpr ⟨fun a ha => ?_, ih h.2⟩
        rcases Map.mem_put ha with rfl | ha
        · exact Nat.lt_of_le_of_ne (Nat.not_lt.mp h1) (fun e => h2 e.symm)
        · exact h.1 a ha

theorem Memory.wf_setD {m : Map Byte} (h : Memory.wf m = true) (k : Nat) (v : Byte) : Memory.wf (Map.setD m k v unwritten) = true := by
  unfold Map.setD
  split
  · exact Memory.wf_filter h _
  · next hv =>
    rw [Memory.wf_iff] at h ⊢
    refine ⟨Map.rising_put k v h.1, fun p hp => ?_⟩
    rcases Map.mem_put hp with rfl | hp
    · exact hv
    · exact h.2 p hp

/-- Writing a list of cells one after another. -/
theorem Memory.wf_foldl {β : Type} (f : β → Nat) (g : β → Byte) (cs : List β) {m : Map Byte} (h : Memory.wf m = true) :
    Memory.wf (cs.foldl (fun m c => Map.setD m (f c) (g c) unwritten) m) = true := by
  induction cs generalizing m with
  | nil => exact h
  | cons c r ih => exact ih (Memory.wf_setD h _ _)

theorem Memory.wf_copyPageIn (f : Map Byte) {m : Map Byte} (h : Memory.wf m = true) (src dst : Nat) :
    Memory.wf (copyPageIn f m src dst) = true :=
  Memory.wf_foldl _ _ _ (Memory.wf_filter h _)

/-- `setByte` keeps the form of memory, and does not touch the host's array. -/
theorem State.wf_setByte {s : State} (h : Memory.wf s.mem = true) (k : Nat) (v : Byte) :
    Memory.wf (s.setByte k v).mem = true ∧ (s.setByte k v).arr = s.arr := by
  unfold State.setByte
  split
  · exact ⟨h, rfl⟩
  · exact ⟨Memory.wf_setD h k v, rfl⟩

theorem State.wf_setBytes {s : State} (h : Memory.wf s.mem = true) (cs : Map Byte) :
    Memory.wf (s.setBytes cs).mem = true ∧ (s.setBytes cs).arr = s.arr := by
  unfold State.setBytes
  induction cs generalizing s with
  | nil => exact ⟨h, rfl⟩
  | cons c r ih =>
    have hs := State.wf_setByte h c.1 c.2
    exact ⟨(ih hs.1).1, (ih hs.1).2.trans hs.2⟩

theorem State.wf_setHost {s : State} (h : Memory.wf s.arr = true) (cs : Map Byte) :
    Memory.wf (s.setHost cs).arr = true ∧ (s.setHost cs).mem = s.mem := ⟨Memory.wf_foldl _ _ cs h, rfl⟩

/-- What enters the array keeps its form, and leaves memory as it is. -/
theorem State.wf_showOver {s : State} (h : Memory.wf s.arr = true) (p : Nat → Bool) :
    Memory.wf (s.showOver p).arr = true ∧ (s.showOver p).mem = s.mem := by
  have one {s : State} (h : Memory.wf s.arr = true) (k : Nat) : Memory.wf (s.showStore k).arr = true ∧ (s.showStore k).mem = s.mem := by
    unfold State.showStore
    split
    · exact State.wf_setHost h _
    · exact ⟨h, rfl⟩
  have all (ks : List Nat) {s : State} (h : Memory.wf s.arr = true) :
      Memory.wf (ks.foldl State.showStore s).arr = true ∧ (ks.foldl State.showStore s).mem = s.mem := by
    induction ks generalizing s with
    | nil => exact ⟨h, rfl⟩
    | cons k r ih => exact ⟨(ih (one h k).1).1, (ih (one h k).1).2.trans (one h k).2⟩
  exact all _ h

/-- The home slices' books are no part of memory. -/
theorem State.llcUses_mem (s : State) (ks : List Nat) (wr : Bool) : (s.llcUses ks wr).mem = s.mem ∧ (s.llcUses ks wr).arr = s.arr := by
  have all (ls : List Nat) (s : State) :
      (ls.foldl (fun s x => s.llcUse x wr) s).mem = s.mem ∧ (ls.foldl (fun s x => s.llcUse x wr) s).arr = s.arr := by
    induction ls generalizing s with
    | nil => exact ⟨rfl, rfl⟩
    | cons l r ih =>
      have h : (s.llcUse l wr).mem = s.mem ∧ (s.llcUse l wr).arr = s.arr := by unfold State.llcUse; split <;> exact ⟨rfl, rfl⟩
      exact ⟨(ih _).1.trans h.1, (ih _).2.trans h.2⟩
  exact all _ s

theorem State.wf_toArray {s : State} (h : Memory.wf s.arr = true) (cs : Map Byte) :
    Memory.wf (s.toArray cs).arr = true ∧ (s.toArray cs).mem = s.mem := by
  have a := State.wf_showOver h (Map.has cs)
  have b := State.wf_setHost a.1 cs
  have c := State.llcUses_mem ((s.showOver (Map.has cs)).setHost cs) (cs.map (·.1)) true
  exact ⟨(congrArg Memory.wf c.2).trans b.1, c.1.trans (b.2.trans a.2)⟩

theorem State.wf_copyPage {s : State} (h : Memory.wf s.mem = true ∧ Memory.wf s.arr = true) (src dst : Nat) :
    Memory.wf (s.copyPage src dst).mem = true ∧ Memory.wf (s.copyPage src dst).arr = true := by
  have a := State.wf_showOver h.2 (fun k => k / 65536 == dst)
  exact ⟨Memory.wf_copyPageIn _ ((congrArg Memory.wf a.2).trans h.1) src dst, Memory.wf_copyPageIn _ a.1 src dst⟩

theorem State.wf_reset : Memory.wf State.reset.mem = true ∧ Memory.wf State.reset.arr = true := ⟨rfl, rfl⟩

/-- Reading a byte of memory after a write of one. -/
theorem State.byte_setByte (s : State) {k j : Nat} (v : Byte) (hk : isSp k = false) (hj : isSp j = false) :
    (s.setByte k v).byte j = if k = j then v else s.byte j := by
  simp [State.setByte, State.byte, hk, hj, Map.getD_setD]

/-- The scratchpad of a block and memory do not meet. -/
theorem State.byte_setByte_apart (s : State) {k j : Nat} (v : Byte) (h : isSp k ≠ isSp j) : (s.setByte k v).byte j = s.byte j := by
  cases hk : isSp k <;> cases hj : isSp j <;> simp_all [State.setByte, State.byte]

end Sys2Proof.Machine
end

