-- ==== Sys2Proof/Laws/PerInstr.lean ====
section
/-! SUPPORT. The family RoundTrip, one lemma per instruction: a well-formed instruction's halfwords decode to it, with every operand
at every value. A device event is never well-formed, so its lemma says nothing. -/

set_option Elab.async false

namespace Sys2Proof.Laws.RoundTrip

/-- Decoding the halfwords of a well-formed instruction gives it back, whatever follows a 16-bit form. -/
def Statement (i : Instr) : Prop :=
  i.wf = true → match encode i with
    | [lo] => ∀ hi, decode lo hi = some i
    | [lo, hi] => decode lo hi = some i
    | _ => False

theorem of_word {i : Instr} {w : Nat} (he : encodeWord i = some w) (hb : w < 2 ^ 32) (hf : flag w 0 = true)
    (hd : decodeWord w = some i) : Statement i := by
  intro hw
  have h1 := decode_word hb hf
  rw [hd] at h1
  simp only [encode, he, isHalf, hf, Bool.not_true]
  simpa [keepWf, hw] using h1

theorem of_half {i : Instr} {w : Nat} (he : encodeWord i = some w) (hb : w < 2 ^ 16) (hf : flag w 0 = false)
    (hd : decodeHalf w = some i) : Statement i := by
  intro hw
  have h1 := decode_half hb hf
  rw [hd] at h1
  simp only [encode, he, isHalf, hf, Bool.not_false]
  simpa [keepWf, hw] using h1

theorem add (d : BitVec 6) (a : Src) (b : Src) : Statement (.add d a b) :=
  of_word rfl (encDab_lt 1 0 d a b) (encDab_flag 1 0 d a b)
    (by simp only [decodeWord, decodeInt, encDab_low, encDab_fn, Nat.reduceMod, Nat.reducePow]; exact decDab_enc _ 1 0 d a b)

theorem sub (d : BitVec 6) (a : Src) (b : Src) : Statement (.sub d a b) :=
  of_word rfl (encDab_lt 1 1 d a b) (encDab_flag 1 1 d a b)
    (by simp only [decodeWord, decodeInt, encDab_low, encDab_fn, Nat.reduceMod, Nat.reducePow]; exact decDab_enc _ 1 1 d a b)

theorem mul (d : BitVec 6) (a : Src) (b : Src) : Statement (.mul d a b) :=
  of_word rfl (encDab_lt 1 2 d a b) (encDab_flag 1 2 d a b)
    (by simp only [decodeWord, decodeInt, encDab_low, encDab_fn, Nat.reduceMod, Nat.reducePow]; exact decDab_enc _ 1 2 d a b)

theorem mulhS (d : BitVec 6) (a : Src) (b : Src) : Statement (.mulhS d a b) :=
  of_word rfl (encDab_lt 1 3 d a b) (encDab_flag 1 3 d a b)
    (by simp only [decodeWord, decodeInt, encDab_low, encDab_fn, Nat.reduceMod, Nat.reducePow]; exact decDab_enc _ 1 3 d a b)

theorem mulhZ (d : BitVec 6) (a : Src) (b : Src) : Statement (.mulhZ d a b) :=
  of_word rfl (encDab_lt 1 4 d a b) (encDab_flag 1 4 d a b)
    (by simp only [decodeWord, decodeInt, encDab_low, encDab_fn, Nat.reduceMod, Nat.reducePow]; exact decDab_enc _ 1 4 d a b)

theorem mad (d : BitVec 6) (a : Src) (b : Src) : Statement (.mad d a b) :=
  of_word rfl (encDab_lt 1 5 d a b) (encDab_flag 1 5 d a b)
    (by simp only [decodeWord, decodeInt, encDab_low, encDab_fn, Nat.reduceMod, Nat.reducePow]; exact decDab_enc _ 1 5 d a b)

theorem divS (d : BitVec 6) (a : Src) (b : Src) : Statement (.divS d a b) :=
  of_word rfl (encDab_lt 1 6 d a b) (encDab_flag 1 6 d a b)
    (by simp only [decodeWord, decodeInt, encDab_low, encDab_fn, Nat.reduceMod, Nat.reducePow]; exact decDab_enc _ 1 6 d a b)

theorem divZ (d : BitVec 6) (a : Src) (b : Src) : Statement (.divZ d a b) :=
  of_word rfl (encDab_lt 1 7 d a b) (encDab_flag 1 7 d a b)
    (by simp only [decodeWord, decodeInt, encDab_low, encDab_fn, Nat.reduceMod, Nat.reducePow]; exact decDab_enc _ 1 7 d a b)

theorem remS (d : BitVec 6) (a : Src) (b : Src) : Statement (.remS d a b) :=
  of_word rfl (encDab_lt 1 8 d a b) (encDab_flag 1 8 d a b)
    (by simp only [decodeWord, decodeInt, encDab_low, encDab_fn, Nat.reduceMod, Nat.reducePow]; exact decDab_enc _ 1 8 d a b)

theorem remZ (d : BitVec 6) (a : Src) (b : Src) : Statement (.remZ d a b) :=
  of_word rfl (encDab_lt 1 9 d a b) (encDab_flag 1 9 d a b)
    (by simp only [decodeWord, decodeInt, encDab_low, encDab_fn, Nat.reduceMod, Nat.reducePow]; exact decDab_enc _ 1 9 d a b)

theorem and (d : BitVec 6) (a : Src) (b : Src) : Statement (.and d a b) :=
  of_word rfl (encDab_lt 1 10 d a b) (encDab_flag 1 10 d a b)
    (by simp only [decodeWord, decodeInt, encDab_low, encDab_fn, Nat.reduceMod, Nat.reducePow]; exact decDab_enc _ 1 10 d a b)

theorem or (d : BitVec 6) (a : Src) (b : Src) : Statement (.or d a b) :=
  of_word rfl (encDab_lt 1 11 d a b) (encDab_flag 1 11 d a b)
    (by simp only [decodeWord, decodeInt, encDab_low, encDab_fn, Nat.reduceMod, Nat.reducePow]; exact decDab_enc _ 1 11 d a b)

theorem xor (d : BitVec 6) (a : Src) (b : Src) : Statement (.xor d a b) :=
  of_word rfl (encDab_lt 1 12 d a b) (encDab_flag 1 12 d a b)
    (by simp only [decodeWord, decodeInt, encDab_low, encDab_fn, Nat.reduceMod, Nat.reducePow]; exact decDab_enc _ 1 12 d a b)

theorem andn (d : BitVec 6) (a : Src) (b : Src) : Statement (.andn d a b) :=
  of_word rfl (encDab_lt 1 13 d a b) (encDab_flag 1 13 d a b)
    (by simp only [decodeWord, decodeInt, encDab_low, encDab_fn, Nat.reduceMod, Nat.reducePow]; exact decDab_enc _ 1 13 d a b)

theorem shl (d : BitVec 6) (a : Src) (b : Src) : Statement (.shl d a b) :=
  of_word rfl (encDab_lt 1 14 d a b) (encDab_flag 1 14 d a b)
    (by simp only [decodeWord, decodeInt, encDab_low, encDab_fn, Nat.reduceMod, Nat.reducePow]; exact decDab_enc _ 1 14 d a b)

theorem shr (d : BitVec 6) (a : Src) (b : Src) : Statement (.shr d a b) :=
  of_word rfl (encDab_lt 1 15 d a b) (encDab_flag 1 15 d a b)
    (by simp only [decodeWord, decodeInt, encDab_low, encDab_fn, Nat.reduceMod, Nat.reducePow]; exact decDab_enc _ 1 15 d a b)

theorem sra (d : BitVec 6) (a : Src) (b : Src) : Statement (.sra d a b) :=
  of_word rfl (encDab_lt 1 16 d a b) (encDab_flag 1 16 d a b)
    (by simp only [decodeWord, decodeInt, encDab_low, encDab_fn, Nat.reduceMod, Nat.reducePow]; exact decDab_enc _ 1 16 d a b)

theorem rol (d : BitVec 6) (a : Src) (b : Src) : Statement (.rol d a b) :=
  of_word rfl (encDab_lt 1 17 d a b) (encDab_flag 1 17 d a b)
    (by simp only [decodeWord, decodeInt, encDab_low, encDab_fn, Nat.reduceMod, Nat.reducePow]; exact decDab_enc _ 1 17 d a b)

theorem minS (d : BitVec 6) (a : Src) (b : Src) : Statement (.minS d a b) :=
  of_word rfl (encDab_lt 1 18 d a b) (encDab_flag 1 18 d a b)
    (by simp only [decodeWord, decodeInt, encDab_low, encDab_fn, Nat.reduceMod, Nat.reducePow]; exact decDab_enc _ 1 18 d a b)

theorem minZ (d : BitVec 6) (a : Src) (b : Src) : Statement (.minZ d a b) :=
  of_word rfl (encDab_lt 1 19 d a b) (encDab_flag 1 19 d a b)
    (by simp only [decodeWord, decodeInt, encDab_low, encDab_fn, Nat.reduceMod, Nat.reducePow]; exact decDab_enc _ 1 19 d a b)

theorem maxS (d : BitVec 6) (a : Src) (b : Src) : Statement (.maxS d a b) :=
  of_word rfl (encDab_lt 1 20 d a b) (encDab_flag 1 20 d a b)
    (by simp only [decodeWord, decodeInt, encDab_low, encDab_fn, Nat.reduceMod, Nat.reducePow]; exact decDab_enc _ 1 20 d a b)

theorem maxZ (d : BitVec 6) (a : Src) (b : Src) : Statement (.maxZ d a b) :=
  of_word rfl (encDab_lt 1 21 d a b) (encDab_flag 1 21 d a b)
    (by simp only [decodeWord, decodeInt, encDab_low, encDab_fn, Nat.reduceMod, Nat.reducePow]; exact decDab_enc _ 1 21 d a b)

theorem absS (d : BitVec 6) (a : Src) : Statement (.absS d a) :=
  of_word rfl (encDa_lt 1 22 d a) (encDa_flag 1 22 d a)
    (by simp only [decodeWord, decodeInt, encDa_low, encDa_fn, Nat.reduceMod, Nat.reducePow]; exact decDa_enc _ 1 22 d a)

theorem popc (d : BitVec 6) (a : Src) : Statement (.popc d a) :=
  of_word rfl (encDa_lt 1 23 d a) (encDa_flag 1 23 d a)
    (by simp only [decodeWord, decodeInt, encDa_low, encDa_fn, Nat.reduceMod, Nat.reducePow]; exact decDa_enc _ 1 23 d a)

theorem clz (d : BitVec 6) (a : Src) : Statement (.clz d a) :=
  of_word rfl (encDa_lt 1 24 d a) (encDa_flag 1 24 d a)
    (by simp only [decodeWord, decodeInt, encDa_low, encDa_fn, Nat.reduceMod, Nat.reducePow]; exact decDa_enc _ 1 24 d a)

theorem brev (d : BitVec 6) (a : Src) : Statement (.brev d a) :=
  of_word rfl (encDa_lt 1 25 d a) (encDa_flag 1 25 d a)
    (by simp only [decodeWord, decodeInt, encDa_low, encDa_fn, Nat.reduceMod, Nat.reducePow]; exact decDa_enc _ 1 25 d a)

theorem bfxZ (d : BitVec 6) (a : Src) (b : Src) : Statement (.bfxZ d a b) :=
  of_word rfl (encDab_lt 1 26 d a b) (encDab_flag 1 26 d a b)
    (by simp only [decodeWord, decodeInt, encDab_low, encDab_fn, Nat.reduceMod, Nat.reducePow]; exact decDab_enc _ 1 26 d a b)

theorem bfxS (d : BitVec 6) (a : Src) (b : Src) : Statement (.bfxS d a b) :=
  of_word rfl (encDab_lt 1 27 d a b) (encDab_flag 1 27 d a b)
    (by simp only [decodeWord, decodeInt, encDab_low, encDab_fn, Nat.reduceMod, Nat.reducePow]; exact decDab_enc _ 1 27 d a b)

theorem bfi (d : BitVec 6) (a : Src) (b : Src) : Statement (.bfi d a b) :=
  of_word rfl (encDab_lt 1 28 d a b) (encDab_flag 1 28 d a b)
    (by simp only [decodeWord, decodeInt, encDab_low, encDab_fn, Nat.reduceMod, Nat.reducePow]; exact decDab_enc _ 1 28 d a b)

theorem addw (d : BitVec 6) (a : RegE) (b : RegE) : Statement (.addw d a b) :=
  of_word rfl (encDpp_lt 1 29 d a b) (encDpp_flag 1 29 d a b)
    (by simp only [decodeWord, decodeInt, encDpp_low, encDpp_fn, Nat.reduceMod, Nat.reducePow]; exact decDpp_enc _ 1 29 d a b)

theorem subw (d : BitVec 6) (a : RegE) (b : RegE) : Statement (.subw d a b) :=
  of_word rfl (encDpp_lt 1 30 d a b) (encDpp_flag 1 30 d a b)
    (by simp only [decodeWord, decodeInt, encDpp_low, encDpp_fn, Nat.reduceMod, Nat.reducePow]; exact decDpp_enc _ 1 30 d a b)

theorem mulwS (d : BitVec 6) (a : Src) (b : Src) : Statement (.mulwS d a b) :=
  of_word rfl (encDab_lt 1 31 d a b) (encDab_flag 1 31 d a b)
    (by simp only [decodeWord, decodeInt, encDab_low, encDab_fn, Nat.reduceMod, Nat.reducePow]; exact decDab_enc _ 1 31 d a b)

theorem mulwZ (d : BitVec 6) (a : Src) (b : Src) : Statement (.mulwZ d a b) :=
  of_word rfl (encDab_lt 1 32 d a b) (encDab_flag 1 32 d a b)
    (by simp only [decodeWord, decodeInt, encDab_low, encDab_fn, Nat.reduceMod, Nat.reducePow]; exact decDab_enc _ 1 32 d a b)

theorem shlw (d : BitVec 6) (a : RegE) (b : Src) : Statement (.shlw d a b) :=
  of_word rfl (encDpb_lt 1 33 d a b) (encDpb_flag 1 33 d a b)
    (by simp only [decodeWord, decodeInt, encDpb_low, encDpb_fn, Nat.reduceMod, Nat.reducePow]; exact decDpb_enc _ 1 33 d a b)

theorem shrw (d : BitVec 6) (a : RegE) (b : Src) : Statement (.shrw d a b) :=
  of_word rfl (encDpb_lt 1 34 d a b) (encDpb_flag 1 34 d a b)
    (by simp only [decodeWord, decodeInt, encDpb_low, encDpb_fn, Nat.reduceMod, Nat.reducePow]; exact decDpb_enc _ 1 34 d a b)

theorem sraw (d : BitVec 6) (a : RegE) (b : Src) : Statement (.sraw d a b) :=
  of_word rfl (encDpb_lt 1 35 d a b) (encDpb_flag 1 35 d a b)
    (by simp only [decodeWord, decodeInt, encDpb_low, encDpb_fn, Nat.reduceMod, Nat.reducePow]; exact decDpb_enc _ 1 35 d a b)

theorem cmpS (c : BitVec 3) (p : BitVec 3) (a : Src) (b : Src) : Statement (.cmpS c p a b) :=
  of_word rfl (encCmp_lt 1 48 c p a b) (encCmp_flag 1 48 c p a b)
    (by simp only [decodeWord, decodeInt, encCmp_low, encCmp_fn, Nat.reduceMod, Nat.reducePow]; exact decCmp_enc _ 1 48 c p a b)

theorem cmpZ (c : BitVec 3) (p : BitVec 3) (a : Src) (b : Src) : Statement (.cmpZ c p a b) :=
  of_word rfl (encCmp_lt 1 49 c p a b) (encCmp_flag 1 49 c p a b)
    (by simp only [decodeWord, decodeInt, encCmp_low, encCmp_fn, Nat.reduceMod, Nat.reducePow]; exact decCmp_enc _ 1 49 c p a b)

theorem cmpwS (c : BitVec 3) (p : BitVec 3) (a : RegE) (b : RegE) : Statement (.cmpwS c p a b) :=
  of_word rfl (encCmpw_lt 1 50 c p a b) (encCmpw_flag 1 50 c p a b)
    (by simp only [decodeWord, decodeInt, encCmpw_low, encCmpw_fn, Nat.reduceMod, Nat.reducePow]; exact decCmpw_enc _ 1 50 c p a b)

theorem cmpwZ (c : BitVec 3) (p : BitVec 3) (a : RegE) (b : RegE) : Statement (.cmpwZ c p a b) :=
  of_word rfl (encCmpw_lt 1 51 c p a b) (encCmpw_flag 1 51 c p a b)
    (by simp only [decodeWord, decodeInt, encCmpw_low, encCmpw_fn, Nat.reduceMod, Nat.reducePow]; exact decCmpw_enc _ 1 51 c p a b)

theorem plog (o : BitVec 3) (p : BitVec 3) (r : BitVec 3) (q : BitVec 3) : Statement (.plog o p r q) :=
  of_word rfl (encPlog_lt 1 52 o p r q) (encPlog_flag 1 52 o p r q)
    (by simp only [decodeWord, decodeInt, encPlog_low, encPlog_fn, Nat.reduceMod, Nat.reducePow]; exact decPlog_enc _ 1 52 o p r q)

theorem ptox (d : BitVec 6) (r : BitVec 3) : Statement (.ptox d r) :=
  of_word rfl (encPtox_lt 1 53 d r) (encPtox_flag 1 53 d r)
    (by simp only [decodeWord, decodeInt, encPtox_low, encPtox_fn, Nat.reduceMod, Nat.reducePow]; exact decPtox_enc _ 1 53 d r)

theorem xtop (p : BitVec 3) (a : Src) : Statement (.xtop p a) :=
  of_word rfl (encXtop_lt 1 54 p a) (encXtop_flag 1 54 p a)
    (by simp only [decodeWord, decodeInt, encXtop_low, encXtop_fn, Nat.reduceMod, Nat.reducePow]; exact decXtop_enc _ 1 54 p a)

theorem rng (d : BitVec 6) (a : RegE) : Statement (.rng d a) :=
  of_word rfl (encDp_lt 1 60 d a) (encDp_flag 1 60 d a)
    (by simp only [decodeWord, decodeInt, encDp_low, encDp_fn, Nat.reduceMod, Nat.reducePow]; exact decDp_enc _ 1 60 d a)

theorem rngj (a : RegE) (b : RegE) : Statement (.rngj a b) :=
  of_word rfl (encPp_lt 1 61 a b) (encPp_flag 1 61 a b)
    (by simp only [decodeWord, decodeInt, encPp_low, encPp_fn, Nat.reduceMod, Nat.reducePow]; exact decPp_enc _ 1 61 a b)

theorem fadd (d : BitVec 6) (a : Src) (b : Src) : Statement (.fadd d a b) :=
  of_word rfl (encDab_lt 3 0 d a b) (encDab_flag 3 0 d a b)
    (by simp only [decodeWord, decodeFlt, encDab_low, encDab_fn, Nat.reduceMod, Nat.reducePow]; exact decDab_enc _ 3 0 d a b)

theorem fsub (d : BitVec 6) (a : Src) (b : Src) : Statement (.fsub d a b) :=
  of_word rfl (encDab_lt 3 1 d a b) (encDab_flag 3 1 d a b)
    (by simp only [decodeWord, decodeFlt, encDab_low, encDab_fn, Nat.reduceMod, Nat.reducePow]; exact decDab_enc _ 3 1 d a b)

theorem fmul (d : BitVec 6) (a : Src) (b : Src) : Statement (.fmul d a b) :=
  of_word rfl (encDab_lt 3 2 d a b) (encDab_flag 3 2 d a b)
    (by simp only [decodeWord, decodeFlt, encDab_low, encDab_fn, Nat.reduceMod, Nat.reducePow]; exact decDab_enc _ 3 2 d a b)

theorem ffma (d : BitVec 6) (a : Src) (b : Src) : Statement (.ffma d a b) :=
  of_word rfl (encDab_lt 3 3 d a b) (encDab_flag 3 3 d a b)
    (by simp only [decodeWord, decodeFlt, encDab_low, encDab_fn, Nat.reduceMod, Nat.reducePow]; exact decDab_enc _ 3 3 d a b)

theorem ffms (d : BitVec 6) (a : Src) (b : Src) : Statement (.ffms d a b) :=
  of_word rfl (encDab_lt 3 4 d a b) (encDab_flag 3 4 d a b)
    (by simp only [decodeWord, decodeFlt, encDab_low, encDab_fn, Nat.reduceMod, Nat.reducePow]; exact decDab_enc _ 3 4 d a b)

theorem fmin (d : BitVec 6) (a : Src) (b : Src) : Statement (.fmin d a b) :=
  of_word rfl (encDab_lt 3 5 d a b) (encDab_flag 3 5 d a b)
    (by simp only [decodeWord, decodeFlt, encDab_low, encDab_fn, Nat.reduceMod, Nat.reducePow]; exact decDab_enc _ 3 5 d a b)

theorem fmax (d : BitVec 6) (a : Src) (b : Src) : Statement (.fmax d a b) :=
  of_word rfl (encDab_lt 3 6 d a b) (encDab_flag 3 6 d a b)
    (by simp only [decodeWord, decodeFlt, encDab_low, encDab_fn, Nat.reduceMod, Nat.reducePow]; exact decDab_enc _ 3 6 d a b)

theorem fdiv (d : BitVec 6) (a : Src) (b : Src) : Statement (.fdiv d a b) :=
  of_word rfl (encDab_lt 3 7 d a b) (encDab_flag 3 7 d a b)
    (by simp only [decodeWord, decodeFlt, encDab_low, encDab_fn, Nat.reduceMod, Nat.reducePow]; exact decDab_enc _ 3 7 d a b)

theorem fsqrt (d : BitVec 6) (a : Src) : Statement (.fsqrt d a) :=
  of_word rfl (encDa_lt 3 8 d a) (encDa_flag 3 8 d a)
    (by simp only [decodeWord, decodeFlt, encDa_low, encDa_fn, Nat.reduceMod, Nat.reducePow]; exact decDa_enc _ 3 8 d a)

theorem frcp (d : BitVec 6) (a : Src) : Statement (.frcp d a) :=
  of_word rfl (encDa_lt 3 9 d a) (encDa_flag 3 9 d a)
    (by simp only [decodeWord, decodeFlt, encDa_low, encDa_fn, Nat.reduceMod, Nat.reducePow]; exact decDa_enc _ 3 9 d a)

theorem frsq (d : BitVec 6) (a : Src) : Statement (.frsq d a) :=
  of_word rfl (encDa_lt 3 10 d a) (encDa_flag 3 10 d a)
    (by simp only [decodeWord, decodeFlt, encDa_low, encDa_fn, Nat.reduceMod, Nat.reducePow]; exact decDa_enc _ 3 10 d a)

theorem fabs (d : BitVec 6) (a : Src) : Statement (.fabs d a) :=
  of_word rfl (encDa_lt 3 11 d a) (encDa_flag 3 11 d a)
    (by simp only [decodeWord, decodeFlt, encDa_low, encDa_fn, Nat.reduceMod, Nat.reducePow]; exact decDa_enc _ 3 11 d a)

theorem fneg (d : BitVec 6) (a : Src) : Statement (.fneg d a) :=
  of_word rfl (encDa_lt 3 12 d a) (encDa_flag 3 12 d a)
    (by simp only [decodeWord, decodeFlt, encDa_low, encDa_fn, Nat.reduceMod, Nat.reducePow]; exact decDa_enc _ 3 12 d a)

theorem fcmp (c : BitVec 3) (p : BitVec 3) (a : Src) (b : Src) : Statement (.fcmp c p a b) :=
  of_word rfl (encCmp_lt 3 13 c p a b) (encCmp_flag 3 13 c p a b)
    (by simp only [decodeWord, decodeFlt, encCmp_low, encCmp_fn, Nat.reduceMod, Nat.reducePow]; exact decCmp_enc _ 3 13 c p a b)

theorem fclass (d : BitVec 6) (a : Src) : Statement (.fclass d a) :=
  of_word rfl (encDa_lt 3 14 d a) (encDa_flag 3 14 d a)
    (by simp only [decodeWord, decodeFlt, encDa_low, encDa_fn, Nat.reduceMod, Nat.reducePow]; exact decDa_enc _ 3 14 d a)

theorem fex2 (d : BitVec 6) (a : Src) : Statement (.fex2 d a) :=
  of_word rfl (encDa_lt 3 15 d a) (encDa_flag 3 15 d a)
    (by simp only [decodeWord, decodeFlt, encDa_low, encDa_fn, Nat.reduceMod, Nat.reducePow]; exact decDa_enc _ 3 15 d a)

theorem flg2 (d : BitVec 6) (a : Src) : Statement (.flg2 d a) :=
  of_word rfl (encDa_lt 3 16 d a) (encDa_flag 3 16 d a)
    (by simp only [decodeWord, decodeFlt, encDa_low, encDa_fn, Nat.reduceMod, Nat.reducePow]; exact decDa_enc _ 3 16 d a)

theorem dadd (d : BitVec 6) (a : RegE) (b : RegE) : Statement (.dadd d a b) :=
  of_word rfl (encDpp_lt 3 20 d a b) (encDpp_flag 3 20 d a b)
    (by simp only [decodeWord, decodeFlt, encDpp_low, encDpp_fn, Nat.reduceMod, Nat.reducePow]; exact decDpp_enc _ 3 20 d a b)

theorem dsub (d : BitVec 6) (a : RegE) (b : RegE) : Statement (.dsub d a b) :=
  of_word rfl (encDpp_lt 3 21 d a b) (encDpp_flag 3 21 d a b)
    (by simp only [decodeWord, decodeFlt, encDpp_low, encDpp_fn, Nat.reduceMod, Nat.reducePow]; exact decDpp_enc _ 3 21 d a b)

theorem dmul (d : BitVec 6) (a : RegE) (b : RegE) : Statement (.dmul d a b) :=
  of_word rfl (encDpp_lt 3 22 d a b) (encDpp_flag 3 22 d a b)
    (by simp only [decodeWord, decodeFlt, encDpp_low, encDpp_fn, Nat.reduceMod, Nat.reducePow]; exact decDpp_enc _ 3 22 d a b)

theorem dfma (d : BitVec 6) (a : RegE) (b : RegE) : Statement (.dfma d a b) :=
  of_word rfl (encDpp_lt 3 23 d a b) (encDpp_flag 3 23 d a b)
    (by simp only [decodeWord, decodeFlt, encDpp_low, encDpp_fn, Nat.reduceMod, Nat.reducePow]; exact decDpp_enc _ 3 23 d a b)

theorem dfms (d : BitVec 6) (a : RegE) (b : RegE) : Statement (.dfms d a b) :=
  of_word rfl (encDpp_lt 3 24 d a b) (encDpp_flag 3 24 d a b)
    (by simp only [decodeWord, decodeFlt, encDpp_low, encDpp_fn, Nat.reduceMod, Nat.reducePow]; exact decDpp_enc _ 3 24 d a b)

theorem dmin (d : BitVec 6) (a : RegE) (b : RegE) : Statement (.dmin d a b) :=
  of_word rfl (encDpp_lt 3 25 d a b) (encDpp_flag 3 25 d a b)
    (by simp only [decodeWord, decodeFlt, encDpp_low, encDpp_fn, Nat.reduceMod, Nat.reducePow]; exact decDpp_enc _ 3 25 d a b)

theorem dmax (d : BitVec 6) (a : RegE) (b : RegE) : Statement (.dmax d a b) :=
  of_word rfl (encDpp_lt 3 26 d a b) (encDpp_flag 3 26 d a b)
    (by simp only [decodeWord, decodeFlt, encDpp_low, encDpp_fn, Nat.reduceMod, Nat.reducePow]; exact decDpp_enc _ 3 26 d a b)

theorem ddiv (d : BitVec 6) (a : RegE) (b : RegE) : Statement (.ddiv d a b) :=
  of_word rfl (encDpp_lt 3 27 d a b) (encDpp_flag 3 27 d a b)
    (by simp only [decodeWord, decodeFlt, encDpp_low, encDpp_fn, Nat.reduceMod, Nat.reducePow]; exact decDpp_enc _ 3 27 d a b)

theorem dsqrt (d : BitVec 6) (a : RegE) : Statement (.dsqrt d a) :=
  of_word rfl (encDp_lt 3 28 d a) (encDp_flag 3 28 d a)
    (by simp only [decodeWord, decodeFlt, encDp_low, encDp_fn, Nat.reduceMod, Nat.reducePow]; exact decDp_enc _ 3 28 d a)

theorem dcmp (c : BitVec 3) (p : BitVec 3) (a : RegE) (b : RegE) : Statement (.dcmp c p a b) :=
  of_word rfl (encCmpw_lt 3 29 c p a b) (encCmpw_flag 3 29 c p a b)
    (by simp only [decodeWord, decodeFlt, encCmpw_low, encCmpw_fn, Nat.reduceMod, Nat.reducePow]; exact decCmpw_enc _ 3 29 c p a b)

theorem dabs (d : BitVec 6) (a : RegE) : Statement (.dabs d a) :=
  of_word rfl (encDp_lt 3 30 d a) (encDp_flag 3 30 d a)
    (by simp only [decodeWord, decodeFlt, encDp_low, encDp_fn, Nat.reduceMod, Nat.reducePow]; exact decDp_enc _ 3 30 d a)

theorem dneg (d : BitVec 6) (a : RegE) : Statement (.dneg d a) :=
  of_word rfl (encDp_lt 3 31 d a) (encDp_flag 3 31 d a)
    (by simp only [decodeWord, decodeFlt, encDp_low, encDp_fn, Nat.reduceMod, Nat.reducePow]; exact decDp_enc _ 3 31 d a)

theorem hadd2 (d : BitVec 6) (a : Src) (b : Src) : Statement (.hadd2 d a b) :=
  of_word rfl (encDab_lt 3 32 d a b) (encDab_flag 3 32 d a b)
    (by simp only [decodeWord, decodeFlt, encDab_low, encDab_fn, Nat.reduceMod, Nat.reducePow]; exact decDab_enc _ 3 32 d a b)

theorem hmul2 (d : BitVec 6) (a : Src) (b : Src) : Statement (.hmul2 d a b) :=
  of_word rfl (encDab_lt 3 33 d a b) (encDab_flag 3 33 d a b)
    (by simp only [decodeWord, decodeFlt, encDab_low, encDab_fn, Nat.reduceMod, Nat.reducePow]; exact decDab_enc _ 3 33 d a b)

theorem hfma2 (d : BitVec 6) (a : Src) (b : Src) : Statement (.hfma2 d a b) :=
  of_word rfl (encDab_lt 3 34 d a b) (encDab_flag 3 34 d a b)
    (by simp only [decodeWord, decodeFlt, encDab_low, encDab_fn, Nat.reduceMod, Nat.reducePow]; exact decDab_enc _ 3 34 d a b)

theorem badd2 (d : BitVec 6) (a : Src) (b : Src) : Statement (.badd2 d a b) :=
  of_word rfl (encDab_lt 3 35 d a b) (encDab_flag 3 35 d a b)
    (by simp only [decodeWord, decodeFlt, encDab_low, encDab_fn, Nat.reduceMod, Nat.reducePow]; exact decDab_enc _ 3 35 d a b)

theorem bmul2 (d : BitVec 6) (a : Src) (b : Src) : Statement (.bmul2 d a b) :=
  of_word rfl (encDab_lt 3 36 d a b) (encDab_flag 3 36 d a b)
    (by simp only [decodeWord, decodeFlt, encDab_low, encDab_fn, Nat.reduceMod, Nat.reducePow]; exact decDab_enc _ 3 36 d a b)

theorem bfma2 (d : BitVec 6) (a : Src) (b : Src) : Statement (.bfma2 d a b) :=
  of_word rfl (encDab_lt 3 37 d a b) (encDab_flag 3 37 d a b)
    (by simp only [decodeWord, decodeFlt, encDab_low, encDab_fn, Nat.reduceMod, Nat.reducePow]; exact decDab_enc _ 3 37 d a b)

theorem cvt (d : BitVec 6) (a : RegE) (f : BitVec 3) (t : BitVec 3) (r : BitVec 2) (s : Bool) : Statement (.cvt d a f t r s) :=
  of_word rfl (encCvt_lt 3 38 d a f t r s) (encCvt_flag 3 38 d a f t r s)
    (by simp only [decodeWord, decodeFlt, encCvt_low, encCvt_fn, Nat.reduceMod, Nat.reducePow]; exact decCvt_enc _ 3 38 d a f t r s)

theorem pkn (d : BitVec 6) (a : BitVec 6) (b : BitVec 6) (p : BitVec 2) (f : BitVec 2) : Statement (.pkn d a b p f) :=
  of_word rfl (encPkn_lt 3 39 d a b p f) (encPkn_flag 3 39 d a b p f)
    (by simp only [decodeWord, decodeFlt, encPkn_low, encPkn_fn, Nat.reduceMod, Nat.reducePow]; exact decPkn_enc _ 3 39 d a b p f)

theorem upkn (d : BitVec 6) (a : BitVec 6) (i : BitVec 3) (f : BitVec 2) : Statement (.upkn d a i f) :=
  of_word rfl (encUpkn_lt 3 40 d a i f) (encUpkn_flag 3 40 d a i f)
    (by simp only [decodeWord, decodeFlt, encUpkn_low, encUpkn_fn, Nat.reduceMod, Nat.reducePow]; exact decUpkn_enc _ 3 40 d a i f)

theorem dot4E4m3 (d : BitVec 6) (a : Src) (b : Src) : Statement (.dot4E4m3 d a b) :=
  of_word rfl (encDab_lt 3 48 d a b) (encDab_flag 3 48 d a b)
    (by simp only [decodeWord, decodeFlt, encDab_low, encDab_fn, Nat.reduceMod, Nat.reducePow]; exact decDab_enc _ 3 48 d a b)

theorem dot4E5m2 (d : BitVec 6) (a : Src) (b : Src) : Statement (.dot4E5m2 d a b) :=
  of_word rfl (encDab_lt 3 49 d a b) (encDab_flag 3 49 d a b)
    (by simp only [decodeWord, decodeFlt, encDab_low, encDab_fn, Nat.reduceMod, Nat.reducePow]; exact decDab_enc _ 3 49 d a b)

theorem dot8E2m1 (d : BitVec 6) (a : Src) (b : Src) : Statement (.dot8E2m1 d a b) :=
  of_word rfl (encDab_lt 3 50 d a b) (encDab_flag 3 50 d a b)
    (by simp only [decodeWord, decodeFlt, encDab_low, encDab_fn, Nat.reduceMod, Nat.reducePow]; exact decDab_enc _ 3 50 d a b)

theorem dot4S8 (d : BitVec 6) (a : Src) (b : Src) : Statement (.dot4S8 d a b) :=
  of_word rfl (encDab_lt 3 51 d a b) (encDab_flag 3 51 d a b)
    (by simp only [decodeWord, decodeFlt, encDab_low, encDab_fn, Nat.reduceMod, Nat.reducePow]; exact decDab_enc _ 3 51 d a b)

theorem dot8S4 (d : BitVec 6) (a : Src) (b : Src) : Statement (.dot8S4 d a b) :=
  of_word rfl (encDab_lt 3 52 d a b) (encDab_flag 3 52 d a b)
    (by simp only [decodeWord, decodeFlt, encDab_low, encDab_fn, Nat.reduceMod, Nat.reducePow]; exact decDab_enc _ 3 52 d a b)

theorem dot2Bf16 (d : BitVec 6) (a : Src) (b : Src) : Statement (.dot2Bf16 d a b) :=
  of_word rfl (encDab_lt 3 53 d a b) (encDab_flag 3 53 d a b)
    (by simp only [decodeWord, decodeFlt, encDab_low, encDab_fn, Nat.reduceMod, Nat.reducePow]; exact decDab_enc _ 3 53 d a b)

theorem dot2F16 (d : BitVec 6) (a : Src) (b : Src) : Statement (.dot2F16 d a b) :=
  of_word rfl (encDab_lt 3 54 d a b) (encDab_flag 3 54 d a b)
    (by simp only [decodeWord, decodeFlt, encDab_low, encDab_fn, Nat.reduceMod, Nat.reducePow]; exact decDab_enc _ 3 54 d a b)

theorem xaccf (c : Bool) (a : BitVec 6) : Statement (.xaccf c a) :=
  of_word rfl (encXaccf_lt 3 58 c a) (encXaccf_flag 3 58 c a)
    (by simp only [decodeWord, decodeFlt, encXaccf_low, encXaccf_fn, Nat.reduceMod, Nat.reducePow]; exact decXaccf_enc _ 3 58 c a)

theorem xacc (c : Bool) (a : BitVec 6) (b : BitVec 6) : Statement (.xacc c a b) :=
  of_word rfl (encXacc_lt 3 59 c a b) (encXacc_flag 3 59 c a b)
    (by simp only [decodeWord, decodeFlt, encXacc_low, encXacc_fn, Nat.reduceMod, Nat.reducePow]; exact decXacc_enc _ 3 59 c a b)

theorem xfma (c : Bool) (a : BitVec 6) (b : BitVec 6) : Statement (.xfma c a b) :=
  of_word rfl (encXacc_lt 3 60 c a b) (encXacc_flag 3 60 c a b)
    (by simp only [decodeWord, decodeFlt, encXacc_low, encXacc_fn, Nat.reduceMod, Nat.reducePow]; exact decXacc_enc _ 3 60 c a b)

theorem xrnd (d : BitVec 6) (c : Bool) : Statement (.xrnd d c) :=
  of_word rfl (encXrnd_lt 3 61 d c) (encXrnd_flag 3 61 d c)
    (by simp only [decodeWord, decodeFlt, encXrnd_low, encXrnd_fn, Nat.reduceMod, Nat.reducePow]; exact decXrnd_enc _ 3 61 d c)

theorem xclr (c : Bool) : Statement (.xclr c) :=
  of_word rfl (encXclr_lt 3 62 c) (encXclr_flag 3 62 c)
    (by simp only [decodeWord, decodeFlt, encXclr_low, encXclr_fn, Nat.reduceMod, Nat.reducePow]; exact decXclr_enc _ 3 62 c)

theorem addi (d : BitVec 6) (a : RegE) (i : BitVec 11) : Statement (.addi d a i) :=
  of_word rfl (encImm_lt 5 0 d a i) (encImm_flag 5 0 d a i)
    (by simp only [decodeWord, decodeImm, encImm_low, encImm_fn, Nat.reduceMod, Nat.reducePow]; exact decImm_enc _ 5 0 d a i)

theorem andi (d : BitVec 6) (a : RegE) (i : BitVec 11) : Statement (.andi d a i) :=
  of_word rfl (encImm_lt 5 1 d a i) (encImm_flag 5 1 d a i)
    (by simp only [decodeWord, decodeImm, encImm_low, encImm_fn, Nat.reduceMod, Nat.reducePow]; exact decImm_enc _ 5 1 d a i)

theorem ori (d : BitVec 6) (a : RegE) (i : BitVec 11) : Statement (.ori d a i) :=
  of_word rfl (encImm_lt 5 2 d a i) (encImm_flag 5 2 d a i)
    (by simp only [decodeWord, decodeImm, encImm_low, encImm_fn, Nat.reduceMod, Nat.reducePow]; exact decImm_enc _ 5 2 d a i)

theorem xori (d : BitVec 6) (a : RegE) (i : BitVec 11) : Statement (.xori d a i) :=
  of_word rfl (encImm_lt 5 3 d a i) (encImm_flag 5 3 d a i)
    (by simp only [decodeWord, decodeImm, encImm_low, encImm_fn, Nat.reduceMod, Nat.reducePow]; exact decImm_enc _ 5 3 d a i)

theorem shi (d : BitVec 6) (a : RegE) (k : BitVec 2) (n : BitVec 5) : Statement (.shi d a k n) :=
  of_word rfl (encShi_lt 5 4 d a k n) (encShi_flag 5 4 d a k n)
    (by simp only [decodeWord, decodeImm, encShi_low, encShi_fn, Nat.reduceMod, Nat.reducePow]; exact decShi_enc _ 5 4 d a k n)

theorem movlo (d : BitVec 6) (i : BitVec 16) : Statement (.movlo d i) :=
  of_word rfl (encImm16_lt 5 5 d i) (encImm16_flag 5 5 d i)
    (by simp only [decodeWord, decodeImm, encImm16_low, encImm16_fn, Nat.reduceMod, Nat.reducePow]; exact decImm16_enc _ 5 5 d i)

theorem movhi (d : BitVec 6) (i : BitVec 16) : Statement (.movhi d i) :=
  of_word rfl (encImm16_lt 5 6 d i) (encImm16_flag 5 6 d i)
    (by simp only [decodeWord, decodeImm, encImm16_low, encImm16_fn, Nat.reduceMod, Nat.reducePow]; exact decImm16_enc _ 5 6 d i)

theorem cmpi (c : BitVec 3) (p : BitVec 3) (a : RegE) (i : BitVec 11) : Statement (.cmpi c p a i) :=
  of_word rfl (encCmpi_lt 5 7 c p a i) (encCmpi_flag 5 7 c p a i)
    (by simp only [decodeWord, decodeImm, encCmpi_low, encCmpi_fn, Nat.reduceMod, Nat.reducePow]; exact decCmpi_enc _ 5 7 c p a i)

theorem sel (d : BitVec 6) (a : RegE) (b : RegE) (p : BitVec 3) (n : Bool) : Statement (.sel d a b p n) :=
  of_word rfl (encSel_lt 5 8 d a b p n) (encSel_flag 5 8 d a b p n)
    (by simp only [decodeWord, decodeImm, encSel_low, encSel_fn, Nat.reduceMod, Nat.reducePow]; exact decSel_enc _ 5 8 d a b p n)

theorem scale (d : BitVec 6) (a : RegE) (b : RegE) (q : BitVec 2) : Statement (.scale d a b q) :=
  of_word rfl (encScale_lt 5 9 d a b q) (encScale_flag 5 9 d a b q)
    (by simp only [decodeWord, decodeImm, encScale_low, encScale_fn, Nat.reduceMod, Nat.reducePow]; exact decScale_enc _ 5 9 d a b q)

theorem srd (d : BitVec 6) (s : BitVec 8) : Statement (.srd d s) :=
  of_word rfl (encSrd_lt 5 10 d s) (encSrd_flag 5 10 d s)
    (by simp only [decodeWord, decodeImm, encSrd_low, encSrd_fn, Nat.reduceMod, Nat.reducePow]; exact decSrd_enc _ 5 10 d s)

theorem srw (a : RegE) (s : BitVec 8) : Statement (.srw a s) :=
  of_word rfl (encSrw_lt 5 11 a s) (encSrw_flag 5 11 a s)
    (by simp only [decodeWord, decodeImm, encSrw_low, encSrw_fn, Nat.reduceMod, Nat.reducePow]; exact decSrw_enc _ 5 11 a s)

theorem ldca (d : BitVec 6) (i : BitVec 16) : Statement (.ldca d i) :=
  of_word rfl (encImm16_lt 5 12 d i) (encImm16_flag 5 12 d i)
    (by simp only [decodeWord, decodeImm, encImm16_low, encImm16_fn, Nat.reduceMod, Nat.reducePow]; exact decImm16_enc _ 5 12 d i)

theorem muli (d : BitVec 6) (a : RegE) (i : BitVec 11) : Statement (.muli d a i) :=
  of_word rfl (encImm_lt 5 13 d a i) (encImm_flag 5 13 d a i)
    (by simp only [decodeWord, decodeImm, encImm_low, encImm_fn, Nat.reduceMod, Nat.reducePow]; exact decImm_enc _ 5 13 d a i)

theorem ld (d : BitVec 6) (a : RegE) (z : BitVec 3) (o : BitVec 9) : Statement (.ld d a z o) :=
  of_word rfl (encLdst_lt 7 0 d a z o) (encLdst_flag 7 0 d a z o)
    (by simp only [decodeWord, decodeMem, encLdst_low, encLdst_fn, Nat.reduceMod, Nat.reducePow]; exact decLdst_enc _ 7 0 d a z o)

theorem st (d : BitVec 6) (a : RegE) (z : BitVec 3) (o : BitVec 9) : Statement (.st d a z o) :=
  of_word rfl (encLdst_lt 7 1 d a z o) (encLdst_flag 7 1 d a z o)
    (by simp only [decodeWord, decodeMem, encLdst_low, encLdst_fn, Nat.reduceMod, Nat.reducePow]; exact decLdst_enc _ 7 1 d a z o)

theorem ldo (d : BitVec 6) (a : RegE) (z : BitVec 3) (o : BitVec 2) (s : BitVec 3) : Statement (.ldo d a z o s) :=
  of_word rfl (encLdo_lt 7 2 d a z o s) (encLdo_flag 7 2 d a z o s)
    (by simp only [decodeWord, decodeMem, encLdo_low, encLdo_fn, Nat.reduceMod, Nat.reducePow]; exact decLdo_enc _ 7 2 d a z o s)

theorem sto (d : BitVec 6) (a : RegE) (z : BitVec 3) (s : BitVec 3) : Statement (.sto d a z s) :=
  of_word rfl (encSto_lt 7 3 d a z s) (encSto_flag 7 3 d a z s)
    (by simp only [decodeWord, decodeMem, encSto_low, encSto_fn, Nat.reduceMod, Nat.reducePow]; exact decSto_enc _ 7 3 d a z s)

theorem atom (d : BitVec 6) (a : RegE) (z : BitVec 3) (s : BitVec 3) (r : Bool) (p : BitVec 5) : Statement (.atom d a z s r p) :=
  of_word rfl (encAtom_lt 7 4 d a z s r p) (encAtom_flag 7 4 d a z s r p)
    (by simp only [decodeWord, decodeMem, encAtom_low, encAtom_fn, Nat.reduceMod, Nat.reducePow]; exact decAtom_enc _ 7 4 d a z s r p)

theorem atomn (d : BitVec 6) (a : RegE) (z : BitVec 3) (s : BitVec 3) (r : Bool) (p : BitVec 5) : Statement (.atomn d a z s r p) :=
  of_word rfl (encAtom_lt 7 5 d a z s r p) (encAtom_flag 7 5 d a z s r p)
    (by simp only [decodeWord, decodeMem, encAtom_low, encAtom_fn, Nat.reduceMod, Nat.reducePow]; exact decAtom_enc _ 7 5 d a z s r p)

theorem prf (a : RegE) : Statement (.prf a) :=
  of_word rfl (encPrf_lt 7 6 0 a) (encPrf_flag 7 6 0 a)
    (by simp only [decodeWord, decodeMem, encPrf_low, encPrf_fn, encPrf_sub, Nat.reduceMod, Nat.reducePow]; exact decPrf_enc _ 7 6 0 a)

theorem prfl (a : RegE) : Statement (.prfl a) :=
  of_word rfl (encPrf_lt 7 6 1 a) (encPrf_flag 7 6 1 a)
    (by simp only [decodeWord, decodeMem, encPrf_low, encPrf_fn, encPrf_sub, Nat.reduceMod, Nat.reducePow]; exact decPrf_enc _ 7 6 1 a)

theorem inv : Statement (.inv) :=
  of_word rfl (encInv_lt 7 6 2) (encInv_flag 7 6 2)
    (by simp only [decodeWord, decodeMem, encInv_low, encInv_fn, encInv_sub, Nat.reduceMod, Nat.reducePow]; exact decInv_enc _ 7 6 2)

theorem xld (c : Bool) (a : RegE) : Statement (.xld c a) :=
  of_word rfl (encXimg_lt 7 6 3 c a) (encXimg_flag 7 6 3 c a)
    (by simp only [decodeWord, decodeMem, encXimg_low, encXimg_fn, encXimg_sub, Nat.reduceMod, Nat.reducePow]; exact decXimg_enc _ 7 6 3 c a)

theorem xst (c : Bool) (a : RegE) : Statement (.xst c a) :=
  of_word rfl (encXimg_lt 7 6 4 c a) (encXimg_flag 7 6 4 c a)
    (by simp only [decodeWord, decodeMem, encXimg_low, encXimg_fn, encXimg_sub, Nat.reduceMod, Nat.reducePow]; exact decXimg_enc _ 7 6 4 c a)

theorem xaddm (c : Bool) (a : RegE) : Statement (.xaddm c a) :=
  of_word rfl (encXimg_lt 7 6 5 c a) (encXimg_flag 7 6 5 c a)
    (by simp only [decodeWord, decodeMem, encXimg_low, encXimg_fn, encXimg_sub, Nat.reduceMod, Nat.reducePow]; exact decXimg_enc _ 7 6 5 c a)

theorem bra (o : BitVec 18) (p : BitVec 6) : Statement (.bra o p) :=
  of_word rfl (encBra_lt 9 0 o p) (encBra_flag 9 0 o p)
    (by simp only [decodeWord, decodeCtl, encBra_low, encBra_fn, Nat.reduceMod, Nat.reducePow]; exact decBra_enc _ 9 0 o p)

theorem brc (o : BitVec 14) (p : BitVec 6) (n : Bool) (c : BitVec 3) : Statement (.brc o p n c) :=
  of_word rfl (encBrc_lt 9 1 o p n c) (encBrc_flag 9 1 o p n c)
    (by simp only [decodeWord, decodeCtl, encBrc_low, encBrc_fn, Nat.reduceMod, Nat.reducePow]; exact decBrc_enc _ 9 1 o p n c)

theorem call (o : BitVec 18) (p : BitVec 6) : Statement (.call o p) :=
  of_word rfl (encBra_lt 9 2 o p) (encBra_flag 9 2 o p)
    (by simp only [decodeWord, decodeCtl, encBra_low, encBra_fn, Nat.reduceMod, Nat.reducePow]; exact decBra_enc _ 9 2 o p)

theorem callp (q : BitVec 16) (e : BitVec 6) : Statement (.callp q e) :=
  of_word rfl (encCallp_lt 9 3 q e) (encCallp_flag 9 3 q e)
    (by simp only [decodeWord, decodeCtl, encCallp_low, encCallp_fn, Nat.reduceMod, Nat.reducePow]; exact decCallp_enc _ 9 3 q e)

theorem jmpr (a : RegE) (p : BitVec 6) : Statement (.jmpr a p) :=
  of_word rfl (encJmpr_lt 9 4 a p) (encJmpr_flag 9 4 a p)
    (by simp only [decodeWord, decodeCtl, encJmpr_low, encJmpr_fn, Nat.reduceMod, Nat.reducePow]; exact decJmpr_enc _ 9 4 a p)

theorem callr (a : RegE) (p : BitVec 6) : Statement (.callr a p) :=
  of_word rfl (encJmpr_lt 9 5 a p) (encJmpr_flag 9 5 a p)
    (by simp only [decodeWord, decodeCtl, encJmpr_low, encJmpr_fn, Nat.reduceMod, Nat.reducePow]; exact decJmpr_enc _ 9 5 a p)

theorem retr (a : BitVec 6) : Statement (.retr a) :=
  of_word rfl (encRetr_lt 9 6 a) (encRetr_flag 9 6 a)
    (by simp only [decodeWord, decodeCtl, encRetr_low, encRetr_fn, Nat.reduceMod, Nat.reducePow]; exact decRetr_enc _ 9 6 a)

theorem jenrol (j : BitVec 3) : Statement (.jenrol j) :=
  of_word rfl (encJn_lt 9 7 j) (encJn_flag 9 7 j)
    (by simp only [decodeWord, decodeCtl, encJn_low, encJn_fn, Nat.reduceMod, Nat.reducePow]; exact decJn_enc _ 9 7 j)

theorem jwait (j : BitVec 3) (p : BitVec 6) : Statement (.jwait j p) :=
  of_word rfl (encJwait_lt 9 8 j p) (encJwait_flag 9 8 j p)
    (by simp only [decodeWord, decodeCtl, encJwait_low, encJwait_fn, Nat.reduceMod, Nat.reducePow]; exact decJwait_enc _ 9 8 j p)

theorem jleave (j : BitVec 3) : Statement (.jleave j) :=
  of_word rfl (encJn_lt 9 9 j) (encJn_flag 9 9 j)
    (by simp only [decodeWord, decodeCtl, encJn_low, encJn_fn, Nat.reduceMod, Nat.reducePow]; exact decJn_enc _ 9 9 j)

theorem exit : Statement (.exit) :=
  of_word rfl (encNone4_lt 9 10) (encNone4_flag 9 10)
    (by simp only [decodeWord, decodeCtl, encNone4_low, encNone4_fn, Nat.reduceMod, Nat.reducePow]; exact decNone4_enc _ 9 10)

theorem trap (c : BitVec 16) : Statement (.trap c) :=
  of_word rfl (encTrap_lt 9 11 c) (encTrap_flag 9 11 c)
    (by simp only [decodeWord, decodeCtl, encTrap_low, encTrap_fn, Nat.reduceMod, Nat.reducePow]; exact decTrap_enc _ 9 11 c)

theorem rett : Statement (.rett) :=
  of_word rfl (encNone4_lt 9 12) (encNone4_flag 9 12)
    (by simp only [decodeWord, decodeCtl, encNone4_low, encNone4_fn, Nat.reduceMod, Nat.reducePow]; exact decNone4_enc _ 9 12)

theorem mov16 (d : BitVec 5) (s : BitVec 5) : Statement (.mov16 d s) :=
  of_half rfl (encTwo_lt 0 0 d s) (encTwo_flag 0 0 d s)
    (by simp only [decodeHalf, decodeTwo, encTwo_low, encTwo_fn, Nat.reduceMod, Nat.reducePow]; exact decTwo_enc _ 0 0 d s)

theorem add16 (d : BitVec 5) (s : BitVec 5) : Statement (.add16 d s) :=
  of_half rfl (encTwo_lt 0 1 d s) (encTwo_flag 0 1 d s)
    (by simp only [decodeHalf, decodeTwo, encTwo_low, encTwo_fn, Nat.reduceMod, Nat.reducePow]; exact decTwo_enc _ 0 1 d s)

theorem sub16 (d : BitVec 5) (s : BitVec 5) : Statement (.sub16 d s) :=
  of_half rfl (encTwo_lt 0 2 d s) (encTwo_flag 0 2 d s)
    (by simp only [decodeHalf, decodeTwo, encTwo_low, encTwo_fn, Nat.reduceMod, Nat.reducePow]; exact decTwo_enc _ 0 2 d s)

theorem mul16 (d : BitVec 5) (s : BitVec 5) : Statement (.mul16 d s) :=
  of_half rfl (encTwo_lt 0 3 d s) (encTwo_flag 0 3 d s)
    (by simp only [decodeHalf, decodeTwo, encTwo_low, encTwo_fn, Nat.reduceMod, Nat.reducePow]; exact decTwo_enc _ 0 3 d s)

theorem and16 (d : BitVec 5) (s : BitVec 5) : Statement (.and16 d s) :=
  of_half rfl (encTwo_lt 0 4 d s) (encTwo_flag 0 4 d s)
    (by simp only [decodeHalf, decodeTwo, encTwo_low, encTwo_fn, Nat.reduceMod, Nat.reducePow]; exact decTwo_enc _ 0 4 d s)

theorem or16 (d : BitVec 5) (s : BitVec 5) : Statement (.or16 d s) :=
  of_half rfl (encTwo_lt 0 5 d s) (encTwo_flag 0 5 d s)
    (by simp only [decodeHalf, decodeTwo, encTwo_low, encTwo_fn, Nat.reduceMod, Nat.reducePow]; exact decTwo_enc _ 0 5 d s)

theorem xor16 (d : BitVec 5) (s : BitVec 5) : Statement (.xor16 d s) :=
  of_half rfl (encTwo_lt 0 6 d s) (encTwo_flag 0 6 d s)
    (by simp only [decodeHalf, decodeTwo, encTwo_low, encTwo_fn, Nat.reduceMod, Nat.reducePow]; exact decTwo_enc _ 0 6 d s)

theorem andn16 (d : BitVec 5) (s : BitVec 5) : Statement (.andn16 d s) :=
  of_half rfl (encTwo_lt 0 7 d s) (encTwo_flag 0 7 d s)
    (by simp only [decodeHalf, decodeTwo, encTwo_low, encTwo_fn, Nat.reduceMod, Nat.reducePow]; exact decTwo_enc _ 0 7 d s)

theorem shl16 (d : BitVec 5) (s : BitVec 5) : Statement (.shl16 d s) :=
  of_half rfl (encTwo_lt 0 8 d s) (encTwo_flag 0 8 d s)
    (by simp only [decodeHalf, decodeTwo, encTwo_low, encTwo_fn, Nat.reduceMod, Nat.reducePow]; exact decTwo_enc _ 0 8 d s)

theorem shr16 (d : BitVec 5) (s : BitVec 5) : Statement (.shr16 d s) :=
  of_half rfl (encTwo_lt 0 9 d s) (encTwo_flag 0 9 d s)
    (by simp only [decodeHalf, decodeTwo, encTwo_low, encTwo_fn, Nat.reduceMod, Nat.reducePow]; exact decTwo_enc _ 0 9 d s)

theorem sra16 (d : BitVec 5) (s : BitVec 5) : Statement (.sra16 d s) :=
  of_half rfl (encTwo_lt 0 10 d s) (encTwo_flag 0 10 d s)
    (by simp only [decodeHalf, decodeTwo, encTwo_low, encTwo_fn, Nat.reduceMod, Nat.reducePow]; exact decTwo_enc _ 0 10 d s)

theorem fadd16 (d : BitVec 5) (s : BitVec 5) : Statement (.fadd16 d s) :=
  of_half rfl (encTwo_lt 0 11 d s) (encTwo_flag 0 11 d s)
    (by simp only [decodeHalf, decodeTwo, encTwo_low, encTwo_fn, Nat.reduceMod, Nat.reducePow]; exact decTwo_enc _ 0 11 d s)

theorem fsub16 (d : BitVec 5) (s : BitVec 5) : Statement (.fsub16 d s) :=
  of_half rfl (encTwo_lt 0 12 d s) (encTwo_flag 0 12 d s)
    (by simp only [decodeHalf, decodeTwo, encTwo_low, encTwo_fn, Nat.reduceMod, Nat.reducePow]; exact decTwo_enc _ 0 12 d s)

theorem fmul16 (d : BitVec 5) (s : BitVec 5) : Statement (.fmul16 d s) :=
  of_half rfl (encTwo_lt 0 13 d s) (encTwo_flag 0 13 d s)
    (by simp only [decodeHalf, decodeTwo, encTwo_low, encTwo_fn, Nat.reduceMod, Nat.reducePow]; exact decTwo_enc _ 0 13 d s)

theorem fmin16 (d : BitVec 5) (s : BitVec 5) : Statement (.fmin16 d s) :=
  of_half rfl (encTwo_lt 0 14 d s) (encTwo_flag 0 14 d s)
    (by simp only [decodeHalf, decodeTwo, encTwo_low, encTwo_fn, Nat.reduceMod, Nat.reducePow]; exact decTwo_enc _ 0 14 d s)

theorem fmax16 (d : BitVec 5) (s : BitVec 5) : Statement (.fmax16 d s) :=
  of_half rfl (encTwo_lt 0 15 d s) (encTwo_flag 0 15 d s)
    (by simp only [decodeHalf, decodeTwo, encTwo_low, encTwo_fn, Nat.reduceMod, Nat.reducePow]; exact decTwo_enc _ 0 15 d s)

theorem nop : Statement (.nop) :=
  of_half rfl (encNone16_lt 2 0) (encNone16_flag 2 0)
    (by simp only [decodeHalf, decodeMisc, encNone16_low, encNone16_fn, Nat.reduceMod, Nat.reducePow]; exact decNone16_enc _ 2 0)

theorem guard (n : Bool) (p : BitVec 3) : Statement (.guard n p) :=
  of_half rfl (encGuard_lt 2 1 n p) (encGuard_flag 2 1 n p)
    (by simp only [decodeHalf, decodeMisc, encGuard_low, encGuard_fn, Nat.reduceMod, Nat.reducePow]; exact decGuard_enc _ 2 1 n p)

theorem waitk (k : BitVec 8) : Statement (.waitk k) :=
  of_half rfl (encWaitk_lt 2 2 k) (encWaitk_flag 2 2 k)
    (by simp only [decodeHalf, decodeMisc, encWaitk_low, encWaitk_fn, Nat.reduceMod, Nat.reducePow]; exact decWaitk_enc _ 2 2 k)

theorem movi (d : BitVec 5) (i : BitVec 5) : Statement (.movi d i) :=
  of_half rfl (encImm5_lt 2 3 d i) (encImm5_flag 2 3 d i)
    (by simp only [decodeHalf, decodeMisc, encImm5_low, encImm5_fn, Nat.reduceMod, Nat.reducePow]; exact decImm5_enc _ 2 3 d i)

theorem addi16 (d : BitVec 5) (i : BitVec 5) : Statement (.addi16 d i) :=
  of_half rfl (encImm5_lt 2 4 d i) (encImm5_flag 2 4 d i)
    (by simp only [decodeHalf, decodeMisc, encImm5_low, encImm5_fn, Nat.reduceMod, Nat.reducePow]; exact decImm5_enc _ 2 4 d i)

theorem jwait16 (j : BitVec 3) (p : BitVec 6) : Statement (.jwait16 j p) :=
  of_half rfl (encJwait16_lt 2 5 j p) (encJwait16_flag 2 5 j p)
    (by simp only [decodeHalf, decodeMisc, encJwait16_low, encJwait16_fn, Nat.reduceMod, Nat.reducePow]; exact decJwait16_enc _ 2 5 j p)

theorem ret : Statement (.ret) :=
  of_half rfl (encNone16_lt 2 6) (encNone16_flag 2 6)
    (by simp only [decodeHalf, decodeMisc, encNone16_low, encNone16_fn, Nat.reduceMod, Nat.reducePow]; exact decNone16_enc _ 2 6)

theorem exit16 : Statement (.exit16) :=
  of_half rfl (encNone16_lt 2 7) (encNone16_flag 2 7)
    (by simp only [decodeHalf, decodeMisc, encNone16_low, encNone16_fn, Nat.reduceMod, Nat.reducePow]; exact decNone16_enc _ 2 7)

theorem barb16 (b : BitVec 4) : Statement (.barb16 b) :=
  of_half rfl (encBarb16_lt 2 8 b) (encBarb16_flag 2 8 b)
    (by simp only [decodeHalf, decodeMisc, encBarb16_low, encBarb16_fn, Nat.reduceMod, Nat.reducePow]; exact decBarb16_enc _ 2 8 b)

theorem yield : Statement (.yield) :=
  of_half rfl (encNone16_lt 2 9) (encNone16_flag 2 9)
    (by simp only [decodeHalf, decodeMisc, encNone16_low, encNone16_fn, Nat.reduceMod, Nat.reducePow]; exact decNone16_enc _ 2 9)

theorem movs16 (d : BitVec 4) (s : BitVec 6) : Statement (.movs16 d s) :=
  of_half rfl (encMovs16_lt 2 10 d s) (encMovs16_flag 2 10 d s)
    (by simp only [decodeHalf, decodeMisc, encMovs16_low, encMovs16_fn, Nat.reduceMod, Nat.reducePow]; exact decMovs16_enc _ 2 10 d s)

theorem movu (d : BitVec 6) (a : Src) : Statement (.movu d a) :=
  of_word rfl (encDa_lt 11 0 d a) (encDa_flag 11 0 d a)
    (by simp only [decodeWord, decodePar, encDa_low, encDa_fn, Nat.reduceMod, Nat.reducePow]; exact decDa_enc _ 11 0 d a)

theorem movuf (d : BitVec 6) (a : Src) : Statement (.movuf d a) :=
  of_word rfl (encDa_lt 11 1 d a) (encDa_flag 11 1 d a)
    (by simp only [decodeWord, decodePar, encDa_low, encDa_fn, Nat.reduceMod, Nat.reducePow]; exact decDa_enc _ 11 1 d a)

theorem reduAddS32 (d : BitVec 6) (a : Src) : Statement (.reduAddS32 d a) :=
  of_word rfl (encDa_lt 11 2 d a) (encDa_flag 11 2 d a)
    (by simp only [decodeWord, decodePar, encDa_low, encDa_fn, Nat.reduceMod, Nat.reducePow]; exact decDa_enc _ 11 2 d a)

theorem reduAddF32 (d : BitVec 6) (a : Src) : Statement (.reduAddF32 d a) :=
  of_word rfl (encDa_lt 11 3 d a) (encDa_flag 11 3 d a)
    (by simp only [decodeWord, decodePar, encDa_low, encDa_fn, Nat.reduceMod, Nat.reducePow]; exact decDa_enc _ 11 3 d a)

theorem reduMinS (d : BitVec 6) (a : Src) : Statement (.reduMinS d a) :=
  of_word rfl (encDa_lt 11 4 d a) (encDa_flag 11 4 d a)
    (by simp only [decodeWord, decodePar, encDa_low, encDa_fn, Nat.reduceMod, Nat.reducePow]; exact decDa_enc _ 11 4 d a)

theorem reduMaxS (d : BitVec 6) (a : Src) : Statement (.reduMaxS d a) :=
  of_word rfl (encDa_lt 11 5 d a) (encDa_flag 11 5 d a)
    (by simp only [decodeWord, decodePar, encDa_low, encDa_fn, Nat.reduceMod, Nat.reducePow]; exact decDa_enc _ 11 5 d a)

theorem reduMinZ (d : BitVec 6) (a : Src) : Statement (.reduMinZ d a) :=
  of_word rfl (encDa_lt 11 6 d a) (encDa_flag 11 6 d a)
    (by simp only [decodeWord, decodePar, encDa_low, encDa_fn, Nat.reduceMod, Nat.reducePow]; exact decDa_enc _ 11 6 d a)

theorem reduMaxZ (d : BitVec 6) (a : Src) : Statement (.reduMaxZ d a) :=
  of_word rfl (encDa_lt 11 7 d a) (encDa_flag 11 7 d a)
    (by simp only [decodeWord, decodePar, encDa_low, encDa_fn, Nat.reduceMod, Nat.reducePow]; exact decDa_enc _ 11 7 d a)

theorem reduAnd (d : BitVec 6) (a : Src) : Statement (.reduAnd d a) :=
  of_word rfl (encDa_lt 11 8 d a) (encDa_flag 11 8 d a)
    (by simp only [decodeWord, decodePar, encDa_low, encDa_fn, Nat.reduceMod, Nat.reducePow]; exact decDa_enc _ 11 8 d a)

theorem reduOr (d : BitVec 6) (a : Src) : Statement (.reduOr d a) :=
  of_word rfl (encDa_lt 11 9 d a) (encDa_flag 11 9 d a)
    (by simp only [decodeWord, decodePar, encDa_low, encDa_fn, Nat.reduceMod, Nat.reducePow]; exact decDa_enc _ 11 9 d a)

theorem reduXor (d : BitVec 6) (a : Src) : Statement (.reduXor d a) :=
  of_word rfl (encDa_lt 11 10 d a) (encDa_flag 11 10 d a)
    (by simp only [decodeWord, decodePar, encDa_low, encDa_fn, Nat.reduceMod, Nat.reducePow]; exact decDa_enc _ 11 10 d a)

theorem reduFmin (d : BitVec 6) (a : Src) : Statement (.reduFmin d a) :=
  of_word rfl (encDa_lt 11 11 d a) (encDa_flag 11 11 d a)
    (by simp only [decodeWord, decodePar, encDa_low, encDa_fn, Nat.reduceMod, Nat.reducePow]; exact decDa_enc _ 11 11 d a)

theorem reduFmax (d : BitVec 6) (a : Src) : Statement (.reduFmax d a) :=
  of_word rfl (encDa_lt 11 12 d a) (encDa_flag 11 12 d a)
    (by simp only [decodeWord, decodePar, encDa_low, encDa_fn, Nat.reduceMod, Nat.reducePow]; exact decDa_enc _ 11 12 d a)

theorem reduAmaxF32 (d : BitVec 6) (a : Src) : Statement (.reduAmaxF32 d a) :=
  of_word rfl (encDa_lt 11 13 d a) (encDa_flag 11 13 d a)
    (by simp only [decodeWord, decodePar, encDa_low, encDa_fn, Nat.reduceMod, Nat.reducePow]; exact decDa_enc _ 11 13 d a)

theorem movs (d : BitVec 6) (i : BitVec 6) : Statement (.movs d i) :=
  of_word rfl (encDs_lt 11 14 d i) (encDs_flag 11 14 d i)
    (by simp only [decodeWord, decodePar, encDs_low, encDs_fn, Nat.reduceMod, Nat.reducePow]; exact decDs_enc _ 11 14 d i)

theorem qxch (d : BitVec 6) (a : Src) (i : BitVec 6) : Statement (.qxch d a i) :=
  of_word rfl (encDai_lt 11 16 d a i) (encDai_flag 11 16 d a i)
    (by simp only [decodeWord, decodePar, encDai_low, encDai_fn, Nat.reduceMod, Nat.reducePow]; exact decDai_enc _ 11 16 d a i)

theorem shfl (d : BitVec 6) (a : Src) (b : RegE) : Statement (.shfl d a b) :=
  of_word rfl (encDar_lt 11 17 d a b) (encDar_flag 11 17 d a b)
    (by simp only [decodeWord, decodePar, encDar_low, encDar_fn, Nat.reduceMod, Nat.reducePow]; exact decDar_enc _ 11 17 d a b)

theorem shup (d : BitVec 6) (a : Src) (i : BitVec 6) : Statement (.shup d a i) :=
  of_word rfl (encDai_lt 11 18 d a i) (encDai_flag 11 18 d a i)
    (by simp only [decodeWord, decodePar, encDai_low, encDai_fn, Nat.reduceMod, Nat.reducePow]; exact decDai_enc _ 11 18 d a i)

theorem shdn (d : BitVec 6) (a : Src) (i : BitVec 6) : Statement (.shdn d a i) :=
  of_word rfl (encDai_lt 11 19 d a i) (encDai_flag 11 19 d a i)
    (by simp only [decodeWord, decodePar, encDai_low, encDai_fn, Nat.reduceMod, Nat.reducePow]; exact decDai_enc _ 11 19 d a i)

theorem shxr (d : BitVec 6) (a : Src) (i : BitVec 6) : Statement (.shxr d a i) :=
  of_word rfl (encDai_lt 11 20 d a i) (encDai_flag 11 20 d a i)
    (by simp only [decodeWord, decodePar, encDai_low, encDai_fn, Nat.reduceMod, Nat.reducePow]; exact decDai_enc _ 11 20 d a i)

theorem vote (d : BitVec 6) (r : BitVec 3) : Statement (.vote d r) :=
  of_word rfl (encPtox_lt 11 21 d r) (encPtox_flag 11 21 d r)
    (by simp only [decodeWord, decodePar, encPtox_low, encPtox_fn, Nat.reduceMod, Nat.reducePow]; exact decPtox_enc _ 11 21 d r)

theorem vany (q : BitVec 3) (r : BitVec 3) : Statement (.vany q r) :=
  of_word rfl (encVany_lt 11 22 q r) (encVany_flag 11 22 q r)
    (by simp only [decodeWord, decodePar, encVany_low, encVany_fn, Nat.reduceMod, Nat.reducePow]; exact decVany_enc _ 11 22 q r)

theorem vall (q : BitVec 3) (r : BitVec 3) : Statement (.vall q r) :=
  of_word rfl (encVany_lt 11 23 q r) (encVany_flag 11 23 q r)
    (by simp only [decodeWord, decodePar, encVany_low, encVany_fn, Nat.reduceMod, Nat.reducePow]; exact decVany_enc _ 11 23 q r)

theorem scanAddS32 (d : BitVec 6) (a : Src) : Statement (.scanAddS32 d a) :=
  of_word rfl (encDa_lt 11 24 d a) (encDa_flag 11 24 d a)
    (by simp only [decodeWord, decodePar, encDa_low, encDa_fn, Nat.reduceMod, Nat.reducePow]; exact decDa_enc _ 11 24 d a)

theorem scanAddF32 (d : BitVec 6) (a : Src) : Statement (.scanAddF32 d a) :=
  of_word rfl (encDa_lt 11 25 d a) (encDa_flag 11 25 d a)
    (by simp only [decodeWord, decodePar, encDa_low, encDa_fn, Nat.reduceMod, Nat.reducePow]; exact decDa_enc _ 11 25 d a)

theorem elect (p : BitVec 3) : Statement (.elect p) :=
  of_word rfl (encPd_lt 11 26 p) (encPd_flag 11 26 p)
    (by simp only [decodeWord, decodePar, encPd_low, encPd_fn, Nat.reduceMod, Nat.reducePow]; exact decPd_enc _ 11 26 p)

theorem spawn (a : RegE) (i : BitVec 6) : Statement (.spawn a i) :=
  of_word rfl (encPi_lt 11 32 a i) (encPi_flag 11 32 a i)
    (by simp only [decodeWord, decodePar, encPi_low, encPi_fn, Nat.reduceMod, Nat.reducePow]; exact decPi_enc _ 11 32 a i)

theorem binfl : Statement (.binfl) :=
  of_word rfl (encNone_lt 11 33) (encNone_flag 11 33)
    (by simp only [decodeWord, decodePar, encNone_low, encNone_fn, Nat.reduceMod, Nat.reducePow]; exact decNone_enc _ 11 33)

theorem launch (d : BitVec 6) (a : RegE) : Statement (.launch d a) :=
  of_word rfl (encDp_lt 11 34 d a) (encDp_flag 11 34 d a)
    (by simp only [decodeWord, decodePar, encDp_low, encDp_fn, Nat.reduceMod, Nat.reducePow]; exact decDp_enc _ 11 34 d a)

theorem join (a : Src) : Statement (.join a) :=
  of_word rfl (encA_lt 11 35 a) (encA_flag 11 35 a)
    (by simp only [decodeWord, decodePar, encA_low, encA_fn, Nat.reduceMod, Nat.reducePow]; exact decA_enc _ 11 35 a)

theorem barb (a : Src) (i : BitVec 6) : Statement (.barb a i) :=
  of_word rfl (encAi_lt 11 40 a i) (encAi_flag 11 40 a i)
    (by simp only [decodeWord, decodePar, encAi_low, encAi_fn, Nat.reduceMod, Nat.reducePow]; exact decAi_enc _ 11 40 a i)

theorem bara (a : Src) (i : BitVec 6) : Statement (.bara a i) :=
  of_word rfl (encAi_lt 11 41 a i) (encAi_flag 11 41 a i)
    (by simp only [decodeWord, decodePar, encAi_low, encAi_fn, Nat.reduceMod, Nat.reducePow]; exact decAi_enc _ 11 41 a i)

theorem barw (a : Src) (i : BitVec 6) : Statement (.barw a i) :=
  of_word rfl (encAi_lt 11 42 a i) (encAi_flag 11 42 a i)
    (by simp only [decodeWord, decodePar, encAi_low, encAi_fn, Nat.reduceMod, Nat.reducePow]; exact decAi_enc _ 11 42 a i)

theorem barc (a : Src) (i : BitVec 6) : Statement (.barc a i) :=
  of_word rfl (encAi_lt 11 43 a i) (encAi_flag 11 43 a i)
    (by simp only [decodeWord, decodePar, encAi_low, encAi_fn, Nat.reduceMod, Nat.reducePow]; exact decAi_enc _ 11 43 a i)

theorem barlast (p : BitVec 3) (a : Src) (i : BitVec 6) : Statement (.barlast p a i) :=
  of_word rfl (encPai_lt 11 44 p a i) (encPai_flag 11 44 p a i)
    (by simp only [decodeWord, decodePar, encPai_low, encPai_fn, Nat.reduceMod, Nat.reducePow]; exact decPai_enc _ 11 44 p a i)

theorem cpy (d : BitVec 6) (a : BitVec 6) (b : BitVec 6) (k : BitVec 3) (rec : Bool) : Statement (.cpy d a b k rec) :=
  of_word rfl (encTdab_lt 13 0 d a b k rec) (encTdab_flag 13 0 d a b k rec)
    (by simp only [decodeWord, decodeEng, encTdab_low, encTdab_fn, Nat.reduceMod, Nat.reducePow]; exact decTdab_enc _ 13 0 d a b k rec)

theorem cpyd (a : BitVec 6) (k : BitVec 3) (rec : Bool) : Statement (.cpyd a k rec) :=
  of_word rfl (encTa_lt 13 1 a k rec) (encTa_flag 13 1 a k rec)
    (by simp only [decodeWord, decodeEng, encTa_low, encTa_fn, Nat.reduceMod, Nat.reducePow]; exact decTa_enc _ 13 1 a k rec)

theorem cpyt (d : BitVec 6) (a : BitVec 6) (b : BitVec 6) (k : BitVec 3) (rec : Bool) : Statement (.cpyt d a b k rec) :=
  of_word rfl (encTdab_lt 13 2 d a b k rec) (encTdab_flag 13 2 d a b k rec)
    (by simp only [decodeWord, decodeEng, encTdab_low, encTdab_fn, Nat.reduceMod, Nat.reducePow]; exact decTdab_enc _ 13 2 d a b k rec)

theorem gathd (a : BitVec 6) (k : BitVec 3) (rec : Bool) : Statement (.gathd a k rec) :=
  of_word rfl (encTa_lt 13 3 a k rec) (encTa_flag 13 3 a k rec)
    (by simp only [decodeWord, decodeEng, encTa_low, encTa_fn, Nat.reduceMod, Nat.reducePow]; exact decTa_enc _ 13 3 a k rec)

theorem tballoc (d : BitVec 6) (q : BitVec 3) : Statement (.tballoc d q) :=
  of_word rfl (encDq_lt 13 8 d q) (encDq_flag 13 8 d q)
    (by simp only [decodeWord, decodeEng, encDq_low, encDq_fn, Nat.reduceMod, Nat.reducePow]; exact decDq_enc _ 13 8 d q)

theorem tbinit (d : BitVec 6) (a : RegE) (b : RegE) : Statement (.tbinit d a b) :=
  of_word rfl (encDpp_lt 13 9 d a b) (encDpp_flag 13 9 d a b)
    (by simp only [decodeWord, decodeEng, encDpp_low, encDpp_fn, Nat.reduceMod, Nat.reducePow]; exact decDpp_enc _ 13 9 d a b)

theorem tbarr (a : RegE) : Statement (.tbarr a) :=
  of_word rfl (encP_lt 13 10 a) (encP_flag 13 10 a)
    (by simp only [decodeWord, decodeEng, encP_low, encP_fn, Nat.reduceMod, Nat.reducePow]; exact decP_enc _ 13 10 a)

theorem tbwait (a : RegE) (q : Bool) : Statement (.tbwait a q) :=
  of_word rfl (encPq_lt 13 11 a q) (encPq_flag 13 11 a q)
    (by simp only [decodeWord, decodeEng, encPq_low, encPq_fn, Nat.reduceMod, Nat.reducePow]; exact decPq_enc _ 13 11 a q)

theorem tbref (a : RegE) : Statement (.tbref a) :=
  of_word rfl (encP_lt 13 12 a) (encP_flag 13 12 a)
    (by simp only [decodeWord, decodeEng, encP_low, encP_fn, Nat.reduceMod, Nat.reducePow]; exact decP_enc _ 13 12 a)

theorem tbfree (a : RegE) : Statement (.tbfree a) :=
  of_word rfl (encP_lt 13 13 a) (encP_flag 13 13 a)
    (by simp only [decodeWord, decodeEng, encP_low, encP_fn, Nat.reduceMod, Nat.reducePow]; exact decP_enc _ 13 13 a)

theorem pgpop (d : BitVec 6) : Statement (.pgpop d) :=
  of_word rfl (encD_lt 13 16 d) (encD_flag 13 16 d)
    (by simp only [decodeWord, decodeEng, encD_low, encD_fn, Nat.reduceMod, Nat.reducePow]; exact decD_enc _ 13 16 d)

theorem pgpost (a : RegE) : Statement (.pgpost a) :=
  of_word rfl (encP_lt 13 17 a) (encP_flag 13 17 a)
    (by simp only [decodeWord, decodeEng, encP_low, encP_fn, Nat.reduceMod, Nat.reducePow]; exact decP_enc _ 13 17 a)

theorem pgcnt (d : BitVec 6) : Statement (.pgcnt d) :=
  of_word rfl (encD_lt 13 18 d) (encD_flag 13 18 d)
    (by simp only [decodeWord, decodeEng, encD_low, encD_fn, Nat.reduceMod, Nat.reducePow]; exact decD_enc _ 13 18 d)

theorem aestart (a : RegE) (b : RegE) : Statement (.aestart a b) :=
  of_word rfl (encPp_lt 13 20 a b) (encPp_flag 13 20 a b)
    (by simp only [decodeWord, decodeEng, encPp_low, encPp_fn, Nat.reduceMod, Nat.reducePow]; exact decPp_enc _ 13 20 a b)

theorem aestop : Statement (.aestop) :=
  of_word rfl (encNone_lt 13 21) (encNone_flag 13 21)
    (by simp only [decodeWord, decodeEng, encNone_low, encNone_fn, Nat.reduceMod, Nat.reducePow]; exact decNone_enc _ 13 21)

theorem qmap (d : BitVec 6) (i : BitVec 6) : Statement (.qmap d i) :=
  of_word rfl (encDi_lt 13 22 d i) (encDi_flag 13 22 d i)
    (by simp only [decodeWord, decodeEng, encDi_low, encDi_fn, Nat.reduceMod, Nat.reducePow]; exact decDi_enc _ 13 22 d i)

theorem qunmap (d : BitVec 6) : Statement (.qunmap d) :=
  of_word rfl (encD_lt 13 23 d) (encD_flag 13 23 d)
    (by simp only [decodeWord, decodeEng, encD_low, encD_fn, Nat.reduceMod, Nat.reducePow]; exact decD_enc _ 13 23 d)

theorem qtst (p : BitVec 3) (i : BitVec 6) : Statement (.qtst p i) :=
  of_word rfl (encPdi_lt 13 24 p i) (encPdi_flag 13 24 p i)
    (by simp only [decodeWord, decodeEng, encPdi_low, encPdi_fn, Nat.reduceMod, Nat.reducePow]; exact decPdi_enc _ 13 24 p i)

theorem qpush (a : RegE) (i : BitVec 6) : Statement (.qpush a i) :=
  of_word rfl (encPi_lt 13 25 a i) (encPi_flag 13 25 a i)
    (by simp only [decodeWord, decodeEng, encPi_low, encPi_fn, Nat.reduceMod, Nat.reducePow]; exact decPi_enc _ 13 25 a i)

theorem qclose (i : BitVec 6) : Statement (.qclose i) :=
  of_word rfl (encI_lt 13 26 i) (encI_flag 13 26 i)
    (by simp only [decodeWord, decodeEng, encI_low, encI_fn, Nat.reduceMod, Nat.reducePow]; exact decI_enc _ 13 26 i)

theorem qopen (i : BitVec 6) : Statement (.qopen i) :=
  of_word rfl (encI_lt 13 27 i) (encI_flag 13 27 i)
    (by simp only [decodeWord, decodeEng, encI_low, encI_fn, Nat.reduceMod, Nat.reducePow]; exact decI_enc _ 13 27 i)

theorem mmaE4m3 (a : BitVec 6) (b : BitVec 6) (k : BitVec 3) (rec : Bool) : Statement (.mmaE4m3 a b k rec) :=
  of_word rfl (encTab_lt 13 32 a b k rec) (encTab_flag 13 32 a b k rec)
    (by simp only [decodeWord, decodeEng, encTab_low, encTab_fn, Nat.reduceMod, Nat.reducePow]; exact decTab_enc _ 13 32 a b k rec)

theorem mmaE5m2 (a : BitVec 6) (b : BitVec 6) (k : BitVec 3) (rec : Bool) : Statement (.mmaE5m2 a b k rec) :=
  of_word rfl (encTab_lt 13 33 a b k rec) (encTab_flag 13 33 a b k rec)
    (by simp only [decodeWord, decodeEng, encTab_low, encTab_fn, Nat.reduceMod, Nat.reducePow]; exact decTab_enc _ 13 33 a b k rec)

theorem mmaE2m1 (a : BitVec 6) (b : BitVec 6) (k : BitVec 3) (rec : Bool) : Statement (.mmaE2m1 a b k rec) :=
  of_word rfl (encTab_lt 13 34 a b k rec) (encTab_flag 13 34 a b k rec)
    (by simp only [decodeWord, decodeEng, encTab_low, encTab_fn, Nat.reduceMod, Nat.reducePow]; exact decTab_enc _ 13 34 a b k rec)

theorem mmaS8 (a : BitVec 6) (k : BitVec 3) (rec : Bool) : Statement (.mmaS8 a k rec) :=
  of_word rfl (encTa_lt 13 35 a k rec) (encTa_flag 13 35 a k rec)
    (by simp only [decodeWord, decodeEng, encTa_low, encTa_fn, Nat.reduceMod, Nat.reducePow]; exact decTa_enc _ 13 35 a k rec)

theorem mmaS4 (a : BitVec 6) (k : BitVec 3) (rec : Bool) : Statement (.mmaS4 a k rec) :=
  of_word rfl (encTa_lt 13 36 a k rec) (encTa_flag 13 36 a k rec)
    (by simp only [decodeWord, decodeEng, encTa_low, encTa_fn, Nat.reduceMod, Nat.reducePow]; exact decTa_enc _ 13 36 a k rec)

theorem mmaBf16 (a : BitVec 6) (k : BitVec 3) (rec : Bool) : Statement (.mmaBf16 a k rec) :=
  of_word rfl (encTa_lt 13 37 a k rec) (encTa_flag 13 37 a k rec)
    (by simp only [decodeWord, decodeEng, encTa_low, encTa_fn, Nat.reduceMod, Nat.reducePow]; exact decTa_enc _ 13 37 a k rec)

theorem mmaF16 (a : BitVec 6) (k : BitVec 3) (rec : Bool) : Statement (.mmaF16 a k rec) :=
  of_word rfl (encTa_lt 13 38 a k rec) (encTa_flag 13 38 a k rec)
    (by simp only [decodeWord, decodeEng, encTa_low, encTa_fn, Nat.reduceMod, Nat.reducePow]; exact decTa_enc _ 13 38 a k rec)

theorem mmaF64 (a : BitVec 6) (k : BitVec 3) (rec : Bool) : Statement (.mmaF64 a k rec) :=
  of_word rfl (encTa_lt 13 39 a k rec) (encTa_flag 13 39 a k rec)
    (by simp only [decodeWord, decodeEng, encTa_low, encTa_fn, Nat.reduceMod, Nat.reducePow]; exact decTa_enc _ 13 39 a k rec)

theorem mmv (a : BitVec 6) (k : BitVec 3) (rec : Bool) : Statement (.mmv a k rec) :=
  of_word rfl (encTa_lt 13 40 a k rec) (encTa_flag 13 40 a k rec)
    (by simp only [decodeWord, decodeEng, encTa_low, encTa_fn, Nat.reduceMod, Nat.reducePow]; exact decTa_enc _ 13 40 a k rec)

theorem drain (a : BitVec 6) (k : BitVec 3) (rec : Bool) : Statement (.drain a k rec) :=
  of_word rfl (encTa_lt 13 41 a k rec) (encTa_flag 13 41 a k rec)
    (by simp only [decodeWord, decodeEng, encTa_low, encTa_fn, Nat.reduceMod, Nat.reducePow]; exact decTa_enc _ 13 41 a k rec)

theorem maclr (i : BitVec 6) : Statement (.maclr i) :=
  of_word rfl (encI_lt 13 42 i) (encI_flag 13 42 i)
    (by simp only [decodeWord, decodeEng, encI_low, encI_fn, Nat.reduceMod, Nat.reducePow]; exact decI_enc _ 13 42 i)

theorem mstat (d : BitVec 6) (i : BitVec 6) : Statement (.mstat d i) :=
  of_word rfl (encDi_lt 13 43 d i) (encDi_flag 13 43 d i)
    (by simp only [decodeWord, decodeEng, encDi_low, encDi_fn, Nat.reduceMod, Nat.reducePow]; exact decDi_enc _ 13 43 d i)

theorem pload (d : BitVec 6) (a : BitVec 6) (k : BitVec 3) (rec : Bool) : Statement (.pload d a k rec) :=
  of_word rfl (encTda_lt 13 48 d a k rec) (encTda_flag 13 48 d a k rec)
    (by simp only [decodeWord, decodeEng, encTda_low, encTda_fn, Nat.reduceMod, Nat.reducePow]; exact decTda_enc _ 13 48 d a k rec)

theorem pevict (a : RegE) : Statement (.pevict a) :=
  of_word rfl (encP_lt 13 49 a) (encP_flag 13 49 a)
    (by simp only [decodeWord, decodeEng, encP_low, encP_fn, Nat.reduceMod, Nat.reducePow]; exact decP_enc _ 13 49 a)

theorem pres (p : BitVec 3) (a : RegE) : Statement (.pres p a) :=
  of_word rfl (encPdp_lt 13 50 p a) (encPdp_flag 13 50 p a)
    (by simp only [decodeWord, decodeEng, encPdp_low, encPdp_fn, Nat.reduceMod, Nat.reducePow]; exact decPdp_enc _ 13 50 p a)

theorem pstat (d : BitVec 6) (a : RegE) : Statement (.pstat d a) :=
  of_word rfl (encDp_lt 13 51 d a) (encDp_flag 13 51 d a)
    (by simp only [decodeWord, decodeEng, encDp_low, encDp_fn, Nat.reduceMod, Nat.reducePow]; exact decDp_enc _ 13 51 d a)

theorem walk (d : BitVec 6) (a : BitVec 6) (k : BitVec 3) : Statement (.walk d a k) :=
  of_word rfl (encTdan_lt 13 56 d a k) (encTdan_flag 13 56 d a k)
    (by simp only [decodeWord, decodeEng, encTdan_low, encTdan_fn, Nat.reduceMod, Nat.reducePow]; exact decTdan_enc _ 13 56 d a k)

theorem wstat (d : BitVec 6) (a : RegE) : Statement (.wstat d a) :=
  of_word rfl (encDp_lt 13 57 d a) (encDp_flag 13 57 d a)
    (by simp only [decodeWord, decodeEng, encDp_low, encDp_fn, Nat.reduceMod, Nat.reducePow]; exact decDp_enc _ 13 57 d a)

theorem wcancel (a : RegE) : Statement (.wcancel a) :=
  of_word rfl (encP_lt 13 58 a) (encP_flag 13 58 a)
    (by simp only [decodeWord, decodeEng, encP_low, encP_fn, Nat.reduceMod, Nat.reducePow]; exact decP_enc _ 13 58 a)

theorem wqry (p : BitVec 3) (a : RegE) (b : RegE) : Statement (.wqry p a b) :=
  of_word rfl (encPdpp_lt 13 59 p a b) (encPdpp_flag 13 59 p a b)
    (by simp only [decodeWord, decodeEng, encPdpp_low, encPdpp_fn, Nat.reduceMod, Nat.reducePow]; exact decPdpp_enc _ 13 59 p a b)

theorem lbdef (d : BitVec 6) (a : RegE) : Statement (.lbdef d a) :=
  of_word rfl (encDp_lt 13 60 d a) (encDp_flag 13 60 d a)
    (by simp only [decodeWord, decodeEng, encDp_low, encDp_fn, Nat.reduceMod, Nat.reducePow]; exact decDp_enc _ 13 60 d a)

theorem ldl (d : BitVec 6) (a : RegE) (b : RegE) : Statement (.ldl d a b) :=
  of_word rfl (encDpp_lt 13 61 d a b) (encDpp_flag 13 61 d a b)
    (by simp only [decodeWord, decodeEng, encDpp_low, encDpp_fn, Nat.reduceMod, Nat.reducePow]; exact decDpp_enc _ 13 61 d a b)

theorem stl (d : BitVec 6) (a : RegE) (b : RegE) : Statement (.stl d a b) :=
  of_word rfl (encDpp_lt 13 62 d a b) (encDpp_flag 13 62 d a b)
    (by simp only [decodeWord, decodeEng, encDpp_low, encDpp_fn, Nat.reduceMod, Nat.reducePow]; exact decDpp_enc _ 13 62 d a b)

theorem lbfree (a : RegE) : Statement (.lbfree a) :=
  of_word rfl (encP_lt 13 63 a) (encP_flag 13 63 a)
    (by simp only [decodeWord, decodeEng, encP_low, encP_fn, Nat.reduceMod, Nat.reducePow]; exact decP_enc _ 13 63 a)

theorem fence (k : BitVec 2) (c : Bool) (s : BitVec 3) : Statement (.fence k c s) :=
  of_word rfl (encFence_lt 15 0 k c s) (encFence_flag 15 0 k c s)
    (by simp only [decodeWord, decodeSys, encFence_low, encFence_fn, Nat.reduceMod, Nat.reducePow]; exact decFence_enc _ 15 0 k c s)

theorem fencex (x : BitVec 4) (y : BitVec 4) (s : BitVec 3) : Statement (.fencex x y s) :=
  of_word rfl (encFencex_lt 15 1 x y s) (encFencex_flag 15 1 x y s)
    (by simp only [decodeWord, decodeSys, encFencex_low, encFencex_fn, Nat.reduceMod, Nat.reducePow]; exact decFencex_enc _ 15 1 x y s)

theorem tick (d : BitVec 6) : Statement (.tick d) :=
  of_word rfl (encD_lt 15 2 d) (encD_flag 15 2 d)
    (by simp only [decodeWord, decodeSys, encD_low, encD_fn, Nat.reduceMod, Nat.reducePow]; exact decD_enc _ 15 2 d)

theorem ticko (d : BitVec 6) : Statement (.ticko d) :=
  of_word rfl (encD_lt 15 3 d) (encD_flag 15 3 d)
    (by simp only [decodeWord, decodeSys, encD_low, encD_fn, Nat.reduceMod, Nat.reducePow]; exact decD_enc _ 15 3 d)

theorem pmcfg (c : BitVec 2) (a : RegE) : Statement (.pmcfg c a) :=
  of_word rfl (encPmcfg_lt 15 4 c a) (encPmcfg_flag 15 4 c a)
    (by simp only [decodeWord, decodeSys, encPmcfg_low, encPmcfg_fn, Nat.reduceMod, Nat.reducePow]; exact decPmcfg_enc _ 15 4 c a)

theorem pmrd (d : BitVec 6) (c : BitVec 2) : Statement (.pmrd d c) :=
  of_word rfl (encPmrd_lt 15 5 d c) (encPmrd_flag 15 5 d c)
    (by simp only [decodeWord, decodeSys, encPmrd_low, encPmrd_fn, Nat.reduceMod, Nat.reducePow]; exact decPmrd_enc _ 15 5 d c)

theorem tdrd (d : BitVec 6) (a : Src) : Statement (.tdrd d a) :=
  of_word rfl (encDa_lt 15 6 d a) (encDa_flag 15 6 d a)
    (by simp only [decodeWord, decodeSys, encDa_low, encDa_fn, Nat.reduceMod, Nat.reducePow]; exact decDa_enc _ 15 6 d a)

theorem bankcfg (p : BitVec 3) (a : Src) (b : Src) : Statement (.bankcfg p a b) :=
  of_word rfl (encPdab_lt 15 8 p a b) (encPdab_flag 15 8 p a b)
    (by simp only [decodeWord, decodeSys, encPdab_low, encPdab_fn, Nat.reduceMod, Nat.reducePow]; exact decPdab_enc _ 15 8 p a b)

theorem taskbeg (a : RegE) (b : Src) : Statement (.taskbeg a b) :=
  of_word rfl (encPb_lt 15 12 a b) (encPb_flag 15 12 a b)
    (by simp only [decodeWord, decodeSys, encPb_low, encPb_fn, Nat.reduceMod, Nat.reducePow]; exact decPb_enc _ 15 12 a b)

theorem taskend : Statement (.taskend) :=
  of_word rfl (encNone_lt 15 13) (encNone_flag 15 13)
    (by simp only [decodeWord, decodeSys, encNone_low, encNone_fn, Nat.reduceMod, Nat.reducePow]; exact decNone_enc _ 15 13)

theorem taskrng (a : RegE) (b : Src) : Statement (.taskrng a b) :=
  of_word rfl (encPb_lt 15 14 a b) (encPb_flag 15 14 a b)
    (by simp only [decodeWord, decodeSys, encPb_low, encPb_fn, Nat.reduceMod, Nat.reducePow]; exact decPb_enc _ 15 14 a b)

theorem taskq (d : BitVec 6) : Statement (.taskq d) :=
  of_word rfl (encD_lt 15 15 d) (encD_flag 15 15 d)
    (by simp only [decodeWord, decodeSys, encD_low, encD_fn, Nat.reduceMod, Nat.reducePow]; exact decD_enc _ 15 15 d)

theorem migrate (p : BitVec 3) (a : RegE) : Statement (.migrate p a) :=
  of_word rfl (encPdp_lt 15 16 p a) (encPdp_flag 15 16 p a)
    (by simp only [decodeWord, decodeSys, encPdp_low, encPdp_fn, Nat.reduceMod, Nat.reducePow]; exact decPdp_enc _ 15 16 p a)

theorem brk : Statement (.brk) :=
  of_word rfl (encNone_lt 15 20) (encNone_flag 15 20)
    (by simp only [decodeWord, decodeSys, encNone_low, encNone_fn, Nat.reduceMod, Nat.reducePow]; exact decNone_enc _ 15 20)

theorem rpbeg (a : RegE) : Statement (.rpbeg a) :=
  of_word rfl (encP_lt 15 24 a) (encP_flag 15 24 a)
    (by simp only [decodeWord, decodeSys, encP_low, encP_fn, Nat.reduceMod, Nat.reducePow]; exact decP_enc _ 15 24 a)

theorem rpend (p : BitVec 3) : Statement (.rpend p) :=
  of_word rfl (encPd_lt 15 25 p) (encPd_flag 15 25 p)
    (by simp only [decodeWord, decodeSys, encPd_low, encPd_fn, Nat.reduceMod, Nat.reducePow]; exact decPd_enc _ 15 25 p)

theorem wscap (a : RegE) : Statement (.wscap a) :=
  of_word rfl (encP_lt 15 26 a) (encP_flag 15 26 a)
    (by simp only [decodeWord, decodeSys, encP_low, encP_fn, Nat.reduceMod, Nat.reducePow]; exact decP_enc _ 15 26 a)

theorem wsrst (a : RegE) : Statement (.wsrst a) :=
  of_word rfl (encP_lt 15 27 a) (encP_flag 15 27 a)
    (by simp only [decodeWord, decodeSys, encP_low, encP_fn, Nat.reduceMod, Nat.reducePow]; exact decP_enc _ 15 27 a)

theorem setrpc (a : Src) (b : Src) : Statement (.setrpc a b) :=
  of_word rfl (encAb_lt 15 28 a b) (encAb_flag 15 28 a b)
    (by simp only [decodeWord, decodeSys, encAb_low, encAb_fn, Nat.reduceMod, Nat.reducePow]; exact decAb_enc _ 15 28 a b)

theorem texit (a : Src) : Statement (.texit a) :=
  of_word rfl (encA_lt 15 29 a) (encA_flag 15 29 a)
    (by simp only [decodeWord, decodeSys, encA_low, encA_fn, Nat.reduceMod, Nat.reducePow]; exact decA_enc _ 15 29 a)

theorem tsvc : Statement (.tsvc) :=
  of_word rfl (encNone_lt 15 30) (encNone_flag 15 30)
    (by simp only [decodeWord, decodeSys, encNone_low, encNone_fn, Nat.reduceMod, Nat.reducePow]; exact decNone_enc _ 15 30)

theorem coll (a : BitVec 6) (k : BitVec 3) : Statement (.coll a k) :=
  of_word rfl (encTan_lt 15 32 a k) (encTan_flag 15 32 a k)
    (by simp only [decodeWord, decodeSys, encTan_low, encTan_fn, Nat.reduceMod, Nat.reducePow]; exact decTan_enc _ 15 32 a k)

theorem signal (a : RegE) (b : Src) : Statement (.signal a b) :=
  of_word rfl (encPb_lt 15 33 a b) (encPb_flag 15 33 a b)
    (by simp only [decodeWord, decodeSys, encPb_low, encPb_fn, Nat.reduceMod, Nat.reducePow]; exact decPb_enc _ 15 33 a b)

theorem translationCheckDone (w : Nat) : Statement (.translationCheckDone w) := fun h => nomatch h

theorem pageWalkReadArrives (k : Nat) : Statement (.pageWalkReadArrives k) := fun h => nomatch h

theorem loadValueArrives (k : Nat) : Statement (.loadValueArrives k) := fun h => nomatch h

theorem l1Fill (k : Nat) : Statement (.l1Fill k) := fun h => nomatch h

theorem storeAckDiePoint (k : Nat) : Statement (.storeAckDiePoint k) := fun h => nomatch h

theorem storeAckHome (k : Nat) : Statement (.storeAckHome k) := fun h => nomatch h

theorem requestServedHomeSlice (k : Nat) : Statement (.requestServedHomeSlice k) := fun h => nomatch h

theorem xaddmLinePerformed (k : Nat) : Statement (.xaddmLinePerformed k) := fun h => nomatch h

theorem scopeWriteTakesEffect (k : Nat) : Statement (.scopeWriteTakesEffect k) := fun h => nomatch h

theorem joinRelease (w j : Nat) : Statement (.joinRelease w j) := fun h => nomatch h

theorem barrierComplete (cluster : Bool) (o i : Nat) : Statement (.barrierComplete cluster o i) := fun h => nomatch h

theorem joinSatisfied (w : Nat) : Statement (.joinSatisfied w) := fun h => nomatch h

theorem warpEntersActiveSet (w : Nat) : Statement (.warpEntersActiveSet w) := fun h => nomatch h

theorem binTimerExpire (c i : Nat) : Statement (.binTimerExpire c i) := fun h => nomatch h

theorem binFormWarp (c i : Nat) : Statement (.binFormWarp c i) := fun h => nomatch h

theorem blockPlace (g : Nat) : Statement (.blockPlace g) := fun h => nomatch h

theorem swapOut (b : Nat) : Statement (.swapOut b) := fun h => nomatch h

theorem swapIn (b : Nat) : Statement (.swapIn b) := fun h => nomatch h

theorem gridTimeLimit (g : Nat) : Statement (.gridTimeLimit g) := fun h => nomatch h

theorem bankModeChangeDone (c : Nat) : Statement (.bankModeChangeDone c) := fun h => nomatch h

theorem copyChunkAcked (k : Nat) : Statement (.copyChunkAcked k) := fun h => nomatch h

theorem copyComplete (k : Nat) : Statement (.copyComplete k) := fun h => nomatch h

theorem engineFaultServiceReply (e : EngineRef) (ok : Bool) : Statement (.engineFaultServiceReply e ok) := fun h => nomatch h

theorem mmaKstepEnd (c : Nat) : Statement (.mmaKstepEnd c) := fun h => nomatch h

theorem drainStart (c : Nat) : Statement (.drainStart c) := fun h => nomatch h

theorem drainComplete (k : Nat) : Statement (.drainComplete k) := fun h => nomatch h

theorem maclrAtHead (c : Nat) : Statement (.maclrAtHead c) := fun h => nomatch h

theorem parcelLoadComplete (c : Nat) : Statement (.parcelLoadComplete c) := fun h => nomatch h

theorem parcelBecomesAbsent (c q : Nat) : Statement (.parcelBecomesAbsent c q) := fun h => nomatch h

theorem walkStart (c i : Nat) : Statement (.walkStart c i) := fun h => nomatch h

theorem walkRoundEnd (c : Nat) : Statement (.walkRoundEnd c) := fun h => nomatch h

theorem commitOfficeReply (w : Nat) : Statement (.commitOfficeReply w) := fun h => nomatch h

theorem taskCommitStart (g : Nat) : Statement (.taskCommitStart g) := fun h => nomatch h

theorem taskCommitComplete (g : Nat) : Statement (.taskCommitComplete g) := fun h => nomatch h

theorem tsvcReplyResume (w : Nat) (m : Resumption) : Statement (.tsvcReplyResume w m) := fun h => nomatch h

theorem tsvcReplyEnd (w : Nat) (m : BitVec 32) (status detail : BitVec 16) : Statement (.tsvcReplyEnd w m status detail) := fun h => nomatch h

theorem comparatorBreakpoint (w : Nat) : Statement (.comparatorBreakpoint w) := fun h => nomatch h

theorem debugResume (w : DebugTurn) : Statement (.debugResume w) := fun h => nomatch h

theorem preemptRequest (x n : Nat) (die : Option Nat) : Statement (.preemptRequest x n die) := fun h => nomatch h

theorem coreVacated (c : Nat) : Statement (.coreVacated c) := fun h => nomatch h

theorem contextSwitch (x : Nat) : Statement (.contextSwitch x) := fun h => nomatch h

theorem uncorrectableError (u : FailUnit) : Statement (.uncorrectableError u) := fun h => nomatch h

theorem softErrorCorrected : Statement (.softErrorCorrected) := fun h => nomatch h

theorem sccRestart (c : Nat) (entry : BitVec 32) (g : Option Nat) : Statement (.sccRestart c entry g) := fun h => nomatch h

theorem debugStopRequest (t : BitVec 64) : Statement (.debugStopRequest t) := fun h => nomatch h

theorem clockStop : Statement (.clockStop) := fun h => nomatch h

theorem debugStopRelease : Statement (.debugStopRelease) := fun h => nomatch h

theorem watchpointRangeWrite (c n : Nat) (base limit : BitVec 64) : Statement (.watchpointRangeWrite c n base limit) := fun h => nomatch h

theorem traceRingConfig (c : Nat) (ring : Option (BitVec 48 × Nat)) : Statement (.traceRingConfig c ring) := fun h => nomatch h

theorem replayArmed (w : Nat) : Statement (.replayArmed w) := fun h => nomatch h

theorem replayEnforceTimeout (x line : Nat) : Statement (.replayEnforceTimeout x line) := fun h => nomatch h

theorem capturePageSaved (x page : Nat) : Statement (.capturePageSaved x page) := fun h => nomatch h

theorem queueSetup (q : Nat) (base : BitVec 48) (k x prio weight : Nat) : Statement (.queueSetup q base k x prio weight) := fun h => nomatch h

theorem queueReset (q : Nat) : Statement (.queueReset q) := fun h => nomatch h

theorem doorbellWrite (off size : Nat) (v : BitVec 64) : Statement (.doorbellWrite off size v) := fun h => nomatch h

theorem packetLaunch (q : Nat) : Statement (.packetLaunch q) := fun h => nomatch h

theorem packetWaitSignal (q : Nat) : Statement (.packetWaitSignal q) := fun h => nomatch h

theorem waitSignalMet (q i : Nat) : Statement (.waitSignalMet q i) := fun h => nomatch h

theorem packetSetSignal (q : Nat) : Statement (.packetSetSignal q) := fun h => nomatch h

theorem tlbInvalidateRange (x : Nat) (va len : BitVec 64) : Statement (.tlbInvalidateRange x va len) := fun h => nomatch h

theorem dieOnline (d : Nat) : Statement (.dieOnline d) := fun h => nomatch h

theorem dieOffline (d : Nat) : Statement (.dieOffline d) := fun h => nomatch h

theorem liveUpdate (code : List (BitVec 8)) (cert : Cert) : Statement (.liveUpdate code cert) := fun h => nomatch h

theorem peerAccess (a : PeerOp) (pa : BitVec 39) (n : Nat) (v : BitVec 64) : Statement (.peerAccess a pa n v) := fun h => nomatch h

theorem peerFailure (i : Nat) : Statement (.peerFailure i) := fun h => nomatch h

theorem collectiveComplete (k : Nat) : Statement (.collectiveComplete k) := fun h => nomatch h

theorem rdmaWrite (qp x : Nat) (va : BitVec 64) (bytes : List (BitVec 8)) : Statement (.rdmaWrite qp x va bytes) := fun h => nomatch h

theorem rdmaRead (qp x : Nat) (va : BitVec 64) (n : Nat) : Statement (.rdmaRead qp x va n) := fun h => nomatch h

theorem rdmaSend (qp : Nat) (bytes : List (BitVec 8)) : Statement (.rdmaSend qp bytes) := fun h => nomatch h

theorem rdmaReceive (qp x : Nat) (va : BitVec 64) : Statement (.rdmaReceive qp x va) := fun h => nomatch h

theorem hostRead (pa : BitVec 48) (n : Nat) : Statement (.hostRead pa n) := fun h => nomatch h

theorem hostWrite (pa : BitVec 48) (bytes : List (BitVec 8)) : Statement (.hostWrite pa bytes) := fun h => nomatch h

theorem attestationRequest (nonce : BitVec 256) (x : Option Nat) : Statement (.attestationRequest nonce x) := fun h => nomatch h

theorem boot (a b : SignedCode) : Statement (.boot a b) := fun h => nomatch h

theorem powerClockStep (up : Bool) : Statement (.powerClockStep up) := fun h => nomatch h

theorem hostVisible (k : Nat) : Statement (.hostVisible k) := fun h => nomatch h

theorem restanteWaitTimeout (w : Nat) : Statement (.restanteWaitTimeout w) := fun h => nomatch h

theorem relayBringUp (own : BitVec 8) (peers : List (BitVec 8)) : Statement (.relayBringUp own peers) := fun h => nomatch h

theorem queuePairSetup (qp mtu : Nat) : Statement (.queuePairSetup qp mtu) := fun h => nomatch h

theorem rootTableSet (x : Nat) (pa : BitVec 48) : Statement (.rootTableSet x pa) := fun h => nomatch h

theorem quotaSet (x n pool : Nat) : Statement (.quotaSet x n pool) := fun h => nomatch h

theorem peerGroupSet (x : Nat) (g : BitVec 32) (rank ranks : Nat) : Statement (.peerGroupSet x g rank ranks) := fun h => nomatch h

theorem hostServiceRegister (x : Nat) : Statement (.hostServiceRegister x) := fun h => nomatch h

theorem contextKeyRegister (x : Nat) (key : BitVec 512) : Statement (.contextKeyRegister x key) := fun h => nomatch h

theorem debugSessionAttach (x : Nat) : Statement (.debugSessionAttach x) := fun h => nomatch h

theorem linkEnumeration (i : Nat) (base : BitVec 64) : Statement (.linkEnumeration i base) := fun h => nomatch h

end Sys2Proof.Laws.RoundTrip
end

