-- ==== Sys2Proof/Laws/State.lean ====
section
/-! SUPPORT. What each update of the state does to each of its fields, and each update of a lane to each of the lane's. -/

set_option Elab.async false

namespace Sys2Proof.Machine

@[simp] theorem State.setWarp_cur (s : State) (u : Nat) (w : Warp) : (s.setWarp u w).cur = s.cur := rfl
@[simp] theorem State.setWarp_inputs (s : State) (u : Nat) (w : Warp) : (s.setWarp u w).inputs = s.inputs := rfl
@[simp] theorem State.setWarp_plan (s : State) (u : Nat) (w : Warp) : (s.setWarp u w).plan = s.plan := rfl
@[simp] theorem State.setWarp_choice (s : State) (u : Nat) (w : Warp) : (s.setWarp u w).choice = s.choice := rfl
@[simp] theorem State.setWarp_free (s : State) (u : Nat) (w : Warp) : (s.setWarp u w).free = s.free := rfl
@[simp] theorem State.setWarp_nextId (s : State) (u : Nat) (w : Warp) : (s.setWarp u w).nextId = s.nextId := rfl
@[simp] theorem State.setWarp_tick (s : State) (u : Nat) (w : Warp) : (s.setWarp u w).tick = s.tick := rfl
@[simp] theorem State.setWarp_warps (s : State) (u : Nat) (w : Warp) : (s.setWarp u w).warps = Map.put s.warps u w := rfl
@[simp] theorem State.setWarp_blocks (s : State) (u : Nat) (w : Warp) : (s.setWarp u w).blocks = s.blocks := rfl
@[simp] theorem State.setWarp_groups (s : State) (u : Nat) (w : Warp) : (s.setWarp u w).groups = s.groups := rfl
@[simp] theorem State.setWarp_grids (s : State) (u : Nat) (w : Warp) : (s.setWarp u w).grids = s.grids := rfl
@[simp] theorem State.setWarp_cores (s : State) (u : Nat) (w : Warp) : (s.setWarp u w).cores = s.cores := rfl
@[simp] theorem State.setWarp_mem (s : State) (u : Nat) (w : Warp) : (s.setWarp u w).mem = s.mem := rfl
@[simp] theorem State.setWarp_arr (s : State) (u : Nat) (w : Warp) : (s.setWarp u w).arr = s.arr := rfl
@[simp] theorem State.setWarp_relAt (s : State) (u : Nat) (w : Warp) : (s.setWarp u w).relAt = s.relAt := rfl
@[simp] theorem State.setWarp_llc (s : State) (u : Nat) (w : Warp) : (s.setWarp u w).llc = s.llc := rfl
@[simp] theorem State.setWarp_reqs (s : State) (u : Nat) (w : Warp) : (s.setWarp u w).reqs = s.reqs := rfl
@[simp] theorem State.setWarp_scopeWrites (s : State) (u : Nat) (w : Warp) : (s.setWarp u w).scopeWrites = s.scopeWrites := rfl
@[simp] theorem State.setWarp_copies (s : State) (u : Nat) (w : Warp) : (s.setWarp u w).copies = s.copies := rfl
@[simp] theorem State.setWarp_drains (s : State) (u : Nat) (w : Warp) : (s.setWarp u w).drains = s.drains := rfl
@[simp] theorem State.setWarp_colls (s : State) (u : Nat) (w : Warp) : (s.setWarp u w).colls = s.colls := rfl
@[simp] theorem State.setWarp_pwaits (s : State) (u : Nat) (w : Warp) : (s.setWarp u w).pwaits = s.pwaits := rfl
@[simp] theorem State.setWarp_pigeon (s : State) (u : Nat) (w : Warp) : (s.setWarp u w).pigeon = s.pigeon := rfl
@[simp] theorem State.setWarp_pigeonHeld (s : State) (u : Nat) (w : Warp) : (s.setWarp u w).pigeonHeld = s.pigeonHeld := rfl
@[simp] theorem State.setWarp_sccGrid (s : State) (u : Nat) (w : Warp) : (s.setWarp u w).sccGrid = s.sccGrid := rfl
@[simp] theorem State.setWarp_sccHalted (s : State) (u : Nat) (w : Warp) : (s.setWarp u w).sccHalted = s.sccHalted := rfl
@[simp] theorem State.setWarp_sccSaved (s : State) (u : Nat) (w : Warp) : (s.setWarp u w).sccSaved = s.sccSaved := rfl
@[simp] theorem State.setWarp_tlbs (s : State) (u : Nat) (w : Warp) : (s.setWarp u w).tlbs = s.tlbs := rfl
@[simp] theorem State.setWarp_wcache (s : State) (u : Nat) (w : Warp) : (s.setWarp u w).wcache = s.wcache := rfl
@[simp] theorem State.setWarp_saved (s : State) (u : Nat) (w : Warp) : (s.setWarp u w).saved = s.saved := rfl
@[simp] theorem State.setWarp_queues (s : State) (u : Nat) (w : Warp) : (s.setWarp u w).queues = s.queues := rfl
@[simp] theorem State.setWarp_turns (s : State) (u : Nat) (w : Warp) : (s.setWarp u w).turns = s.turns := rfl
@[simp] theorem State.setWarp_ctxs (s : State) (u : Nat) (w : Warp) : (s.setWarp u w).ctxs = s.ctxs := rfl
@[simp] theorem State.setWarp_fw (s : State) (u : Nat) (w : Warp) : (s.setWarp u w).fw = s.fw := rfl

@[simp] theorem State.updWarp_cur (s : State) (u : Nat) (f : Warp → Warp) : (s.updWarp u f).cur = s.cur := rfl
@[simp] theorem State.updWarp_inputs (s : State) (u : Nat) (f : Warp → Warp) : (s.updWarp u f).inputs = s.inputs := rfl
@[simp] theorem State.updWarp_plan (s : State) (u : Nat) (f : Warp → Warp) : (s.updWarp u f).plan = s.plan := rfl
@[simp] theorem State.updWarp_choice (s : State) (u : Nat) (f : Warp → Warp) : (s.updWarp u f).choice = s.choice := rfl
@[simp] theorem State.updWarp_free (s : State) (u : Nat) (f : Warp → Warp) : (s.updWarp u f).free = s.free := rfl
@[simp] theorem State.updWarp_nextId (s : State) (u : Nat) (f : Warp → Warp) : (s.updWarp u f).nextId = s.nextId := rfl
@[simp] theorem State.updWarp_tick (s : State) (u : Nat) (f : Warp → Warp) : (s.updWarp u f).tick = s.tick := rfl
@[simp] theorem State.updWarp_warps (s : State) (u : Nat) (f : Warp → Warp) : (s.updWarp u f).warps = Map.upd s.warps u f := rfl
@[simp] theorem State.updWarp_blocks (s : State) (u : Nat) (f : Warp → Warp) : (s.updWarp u f).blocks = s.blocks := rfl
@[simp] theorem State.updWarp_groups (s : State) (u : Nat) (f : Warp → Warp) : (s.updWarp u f).groups = s.groups := rfl
@[simp] theorem State.updWarp_grids (s : State) (u : Nat) (f : Warp → Warp) : (s.updWarp u f).grids = s.grids := rfl
@[simp] theorem State.updWarp_cores (s : State) (u : Nat) (f : Warp → Warp) : (s.updWarp u f).cores = s.cores := rfl
@[simp] theorem State.updWarp_mem (s : State) (u : Nat) (f : Warp → Warp) : (s.updWarp u f).mem = s.mem := rfl
@[simp] theorem State.updWarp_arr (s : State) (u : Nat) (f : Warp → Warp) : (s.updWarp u f).arr = s.arr := rfl
@[simp] theorem State.updWarp_relAt (s : State) (u : Nat) (f : Warp → Warp) : (s.updWarp u f).relAt = s.relAt := rfl
@[simp] theorem State.updWarp_llc (s : State) (u : Nat) (f : Warp → Warp) : (s.updWarp u f).llc = s.llc := rfl
@[simp] theorem State.updWarp_reqs (s : State) (u : Nat) (f : Warp → Warp) : (s.updWarp u f).reqs = s.reqs := rfl
@[simp] theorem State.updWarp_scopeWrites (s : State) (u : Nat) (f : Warp → Warp) : (s.updWarp u f).scopeWrites = s.scopeWrites := rfl
@[simp] theorem State.updWarp_copies (s : State) (u : Nat) (f : Warp → Warp) : (s.updWarp u f).copies = s.copies := rfl
@[simp] theorem State.updWarp_drains (s : State) (u : Nat) (f : Warp → Warp) : (s.updWarp u f).drains = s.drains := rfl
@[simp] theorem State.updWarp_colls (s : State) (u : Nat) (f : Warp → Warp) : (s.updWarp u f).colls = s.colls := rfl
@[simp] theorem State.updWarp_pwaits (s : State) (u : Nat) (f : Warp → Warp) : (s.updWarp u f).pwaits = s.pwaits := rfl
@[simp] theorem State.updWarp_pigeon (s : State) (u : Nat) (f : Warp → Warp) : (s.updWarp u f).pigeon = s.pigeon := rfl
@[simp] theorem State.updWarp_pigeonHeld (s : State) (u : Nat) (f : Warp → Warp) : (s.updWarp u f).pigeonHeld = s.pigeonHeld := rfl
@[simp] theorem State.updWarp_sccGrid (s : State) (u : Nat) (f : Warp → Warp) : (s.updWarp u f).sccGrid = s.sccGrid := rfl
@[simp] theorem State.updWarp_sccHalted (s : State) (u : Nat) (f : Warp → Warp) : (s.updWarp u f).sccHalted = s.sccHalted := rfl
@[simp] theorem State.updWarp_sccSaved (s : State) (u : Nat) (f : Warp → Warp) : (s.updWarp u f).sccSaved = s.sccSaved := rfl
@[simp] theorem State.updWarp_tlbs (s : State) (u : Nat) (f : Warp → Warp) : (s.updWarp u f).tlbs = s.tlbs := rfl
@[simp] theorem State.updWarp_wcache (s : State) (u : Nat) (f : Warp → Warp) : (s.updWarp u f).wcache = s.wcache := rfl
@[simp] theorem State.updWarp_saved (s : State) (u : Nat) (f : Warp → Warp) : (s.updWarp u f).saved = s.saved := rfl
@[simp] theorem State.updWarp_queues (s : State) (u : Nat) (f : Warp → Warp) : (s.updWarp u f).queues = s.queues := rfl
@[simp] theorem State.updWarp_turns (s : State) (u : Nat) (f : Warp → Warp) : (s.updWarp u f).turns = s.turns := rfl
@[simp] theorem State.updWarp_ctxs (s : State) (u : Nat) (f : Warp → Warp) : (s.updWarp u f).ctxs = s.ctxs := rfl
@[simp] theorem State.updWarp_fw (s : State) (u : Nat) (f : Warp → Warp) : (s.updWarp u f).fw = s.fw := rfl

@[simp] theorem State.updLanes_cur (s : State) (u : Nat) (ls : List Nat) (f : Nat → Lane → Lane) : (s.updLanes u ls f).cur = s.cur := rfl
@[simp] theorem State.updLanes_inputs (s : State) (u : Nat) (ls : List Nat) (f : Nat → Lane → Lane) :
    (s.updLanes u ls f).inputs = s.inputs := rfl
@[simp] theorem State.updLanes_plan (s : State) (u : Nat) (ls : List Nat) (f : Nat → Lane → Lane) : (s.updLanes u ls f).plan = s.plan := rfl
@[simp] theorem State.updLanes_choice (s : State) (u : Nat) (ls : List Nat) (f : Nat → Lane → Lane) :
    (s.updLanes u ls f).choice = s.choice := rfl
@[simp] theorem State.updLanes_free (s : State) (u : Nat) (ls : List Nat) (f : Nat → Lane → Lane) : (s.updLanes u ls f).free = s.free := rfl
@[simp] theorem State.updLanes_nextId (s : State) (u : Nat) (ls : List Nat) (f : Nat → Lane → Lane) :
    (s.updLanes u ls f).nextId = s.nextId := rfl
@[simp] theorem State.updLanes_tick (s : State) (u : Nat) (ls : List Nat) (f : Nat → Lane → Lane) : (s.updLanes u ls f).tick = s.tick := rfl
@[simp] theorem State.updLanes_warps (s : State) (u : Nat) (ls : List Nat) (f : Nat → Lane → Lane) :
    (s.updLanes u ls f).warps = Map.upd s.warps u (fun w => { w with lanes := Map.mapV w.lanes (fun l k => if ls.contains l then f l k else k) }) := rfl
@[simp] theorem State.updLanes_blocks (s : State) (u : Nat) (ls : List Nat) (f : Nat → Lane → Lane) :
    (s.updLanes u ls f).blocks = s.blocks := rfl
@[simp] theorem State.updLanes_groups (s : State) (u : Nat) (ls : List Nat) (f : Nat → Lane → Lane) :
    (s.updLanes u ls f).groups = s.groups := rfl
@[simp] theorem State.updLanes_grids (s : State) (u : Nat) (ls : List Nat) (f : Nat → Lane → Lane) :
    (s.updLanes u ls f).grids = s.grids := rfl
@[simp] theorem State.updLanes_cores (s : State) (u : Nat) (ls : List Nat) (f : Nat → Lane → Lane) :
    (s.updLanes u ls f).cores = s.cores := rfl
@[simp] theorem State.updLanes_mem (s : State) (u : Nat) (ls : List Nat) (f : Nat → Lane → Lane) : (s.updLanes u ls f).mem = s.mem := rfl
@[simp] theorem State.updLanes_arr (s : State) (u : Nat) (ls : List Nat) (f : Nat → Lane → Lane) : (s.updLanes u ls f).arr = s.arr := rfl
@[simp] theorem State.updLanes_relAt (s : State) (u : Nat) (ls : List Nat) (f : Nat → Lane → Lane) :
    (s.updLanes u ls f).relAt = s.relAt := rfl
@[simp] theorem State.updLanes_llc (s : State) (u : Nat) (ls : List Nat) (f : Nat → Lane → Lane) : (s.updLanes u ls f).llc = s.llc := rfl
@[simp] theorem State.updLanes_reqs (s : State) (u : Nat) (ls : List Nat) (f : Nat → Lane → Lane) : (s.updLanes u ls f).reqs = s.reqs := rfl
@[simp] theorem State.updLanes_scopeWrites (s : State) (u : Nat) (ls : List Nat) (f : Nat → Lane → Lane) :
    (s.updLanes u ls f).scopeWrites = s.scopeWrites := rfl
@[simp] theorem State.updLanes_copies (s : State) (u : Nat) (ls : List Nat) (f : Nat → Lane → Lane) :
    (s.updLanes u ls f).copies = s.copies := rfl
@[simp] theorem State.updLanes_drains (s : State) (u : Nat) (ls : List Nat) (f : Nat → Lane → Lane) :
    (s.updLanes u ls f).drains = s.drains := rfl
@[simp] theorem State.updLanes_colls (s : State) (u : Nat) (ls : List Nat) (f : Nat → Lane → Lane) :
    (s.updLanes u ls f).colls = s.colls := rfl
@[simp] theorem State.updLanes_pwaits (s : State) (u : Nat) (ls : List Nat) (f : Nat → Lane → Lane) :
    (s.updLanes u ls f).pwaits = s.pwaits := rfl
@[simp] theorem State.updLanes_pigeon (s : State) (u : Nat) (ls : List Nat) (f : Nat → Lane → Lane) :
    (s.updLanes u ls f).pigeon = s.pigeon := rfl
@[simp] theorem State.updLanes_pigeonHeld (s : State) (u : Nat) (ls : List Nat) (f : Nat → Lane → Lane) :
    (s.updLanes u ls f).pigeonHeld = s.pigeonHeld := rfl
@[simp] theorem State.updLanes_sccGrid (s : State) (u : Nat) (ls : List Nat) (f : Nat → Lane → Lane) :
    (s.updLanes u ls f).sccGrid = s.sccGrid := rfl
@[simp] theorem State.updLanes_sccHalted (s : State) (u : Nat) (ls : List Nat) (f : Nat → Lane → Lane) :
    (s.updLanes u ls f).sccHalted = s.sccHalted := rfl
@[simp] theorem State.updLanes_sccSaved (s : State) (u : Nat) (ls : List Nat) (f : Nat → Lane → Lane) :
    (s.updLanes u ls f).sccSaved = s.sccSaved := rfl
@[simp] theorem State.updLanes_tlbs (s : State) (u : Nat) (ls : List Nat) (f : Nat → Lane → Lane) : (s.updLanes u ls f).tlbs = s.tlbs := rfl
@[simp] theorem State.updLanes_wcache (s : State) (u : Nat) (ls : List Nat) (f : Nat → Lane → Lane) :
    (s.updLanes u ls f).wcache = s.wcache := rfl
@[simp] theorem State.updLanes_saved (s : State) (u : Nat) (ls : List Nat) (f : Nat → Lane → Lane) :
    (s.updLanes u ls f).saved = s.saved := rfl
@[simp] theorem State.updLanes_queues (s : State) (u : Nat) (ls : List Nat) (f : Nat → Lane → Lane) :
    (s.updLanes u ls f).queues = s.queues := rfl
@[simp] theorem State.updLanes_turns (s : State) (u : Nat) (ls : List Nat) (f : Nat → Lane → Lane) :
    (s.updLanes u ls f).turns = s.turns := rfl
@[simp] theorem State.updLanes_ctxs (s : State) (u : Nat) (ls : List Nat) (f : Nat → Lane → Lane) : (s.updLanes u ls f).ctxs = s.ctxs := rfl
@[simp] theorem State.updLanes_fw (s : State) (u : Nat) (ls : List Nat) (f : Nat → Lane → Lane) : (s.updLanes u ls f).fw = s.fw := rfl

@[simp] theorem State.setBlock_cur (s : State) (u : Nat) (b : Block) : (s.setBlock u b).cur = s.cur := rfl
@[simp] theorem State.setBlock_inputs (s : State) (u : Nat) (b : Block) : (s.setBlock u b).inputs = s.inputs := rfl
@[simp] theorem State.setBlock_plan (s : State) (u : Nat) (b : Block) : (s.setBlock u b).plan = s.plan := rfl
@[simp] theorem State.setBlock_choice (s : State) (u : Nat) (b : Block) : (s.setBlock u b).choice = s.choice := rfl
@[simp] theorem State.setBlock_free (s : State) (u : Nat) (b : Block) : (s.setBlock u b).free = s.free := rfl
@[simp] theorem State.setBlock_nextId (s : State) (u : Nat) (b : Block) : (s.setBlock u b).nextId = s.nextId := rfl
@[simp] theorem State.setBlock_tick (s : State) (u : Nat) (b : Block) : (s.setBlock u b).tick = s.tick := rfl
@[simp] theorem State.setBlock_warps (s : State) (u : Nat) (b : Block) : (s.setBlock u b).warps = s.warps := rfl
@[simp] theorem State.setBlock_blocks (s : State) (u : Nat) (b : Block) : (s.setBlock u b).blocks = Map.put s.blocks u b := rfl
@[simp] theorem State.setBlock_groups (s : State) (u : Nat) (b : Block) : (s.setBlock u b).groups = s.groups := rfl
@[simp] theorem State.setBlock_grids (s : State) (u : Nat) (b : Block) : (s.setBlock u b).grids = s.grids := rfl
@[simp] theorem State.setBlock_cores (s : State) (u : Nat) (b : Block) : (s.setBlock u b).cores = s.cores := rfl
@[simp] theorem State.setBlock_mem (s : State) (u : Nat) (b : Block) : (s.setBlock u b).mem = s.mem := rfl
@[simp] theorem State.setBlock_arr (s : State) (u : Nat) (b : Block) : (s.setBlock u b).arr = s.arr := rfl
@[simp] theorem State.setBlock_relAt (s : State) (u : Nat) (b : Block) : (s.setBlock u b).relAt = s.relAt := rfl
@[simp] theorem State.setBlock_llc (s : State) (u : Nat) (b : Block) : (s.setBlock u b).llc = s.llc := rfl
@[simp] theorem State.setBlock_reqs (s : State) (u : Nat) (b : Block) : (s.setBlock u b).reqs = s.reqs := rfl
@[simp] theorem State.setBlock_scopeWrites (s : State) (u : Nat) (b : Block) : (s.setBlock u b).scopeWrites = s.scopeWrites := rfl
@[simp] theorem State.setBlock_copies (s : State) (u : Nat) (b : Block) : (s.setBlock u b).copies = s.copies := rfl
@[simp] theorem State.setBlock_drains (s : State) (u : Nat) (b : Block) : (s.setBlock u b).drains = s.drains := rfl
@[simp] theorem State.setBlock_colls (s : State) (u : Nat) (b : Block) : (s.setBlock u b).colls = s.colls := rfl
@[simp] theorem State.setBlock_pwaits (s : State) (u : Nat) (b : Block) : (s.setBlock u b).pwaits = s.pwaits := rfl
@[simp] theorem State.setBlock_pigeon (s : State) (u : Nat) (b : Block) : (s.setBlock u b).pigeon = s.pigeon := rfl
@[simp] theorem State.setBlock_pigeonHeld (s : State) (u : Nat) (b : Block) : (s.setBlock u b).pigeonHeld = s.pigeonHeld := rfl
@[simp] theorem State.setBlock_sccGrid (s : State) (u : Nat) (b : Block) : (s.setBlock u b).sccGrid = s.sccGrid := rfl
@[simp] theorem State.setBlock_sccHalted (s : State) (u : Nat) (b : Block) : (s.setBlock u b).sccHalted = s.sccHalted := rfl
@[simp] theorem State.setBlock_sccSaved (s : State) (u : Nat) (b : Block) : (s.setBlock u b).sccSaved = s.sccSaved := rfl
@[simp] theorem State.setBlock_tlbs (s : State) (u : Nat) (b : Block) : (s.setBlock u b).tlbs = s.tlbs := rfl
@[simp] theorem State.setBlock_wcache (s : State) (u : Nat) (b : Block) : (s.setBlock u b).wcache = s.wcache := rfl
@[simp] theorem State.setBlock_saved (s : State) (u : Nat) (b : Block) : (s.setBlock u b).saved = s.saved := rfl
@[simp] theorem State.setBlock_queues (s : State) (u : Nat) (b : Block) : (s.setBlock u b).queues = s.queues := rfl
@[simp] theorem State.setBlock_turns (s : State) (u : Nat) (b : Block) : (s.setBlock u b).turns = s.turns := rfl
@[simp] theorem State.setBlock_ctxs (s : State) (u : Nat) (b : Block) : (s.setBlock u b).ctxs = s.ctxs := rfl
@[simp] theorem State.setBlock_fw (s : State) (u : Nat) (b : Block) : (s.setBlock u b).fw = s.fw := rfl

@[simp] theorem State.updBlock_cur (s : State) (u : Nat) (f : Block → Block) : (s.updBlock u f).cur = s.cur := rfl
@[simp] theorem State.updBlock_inputs (s : State) (u : Nat) (f : Block → Block) : (s.updBlock u f).inputs = s.inputs := rfl
@[simp] theorem State.updBlock_plan (s : State) (u : Nat) (f : Block → Block) : (s.updBlock u f).plan = s.plan := rfl
@[simp] theorem State.updBlock_choice (s : State) (u : Nat) (f : Block → Block) : (s.updBlock u f).choice = s.choice := rfl
@[simp] theorem State.updBlock_free (s : State) (u : Nat) (f : Block → Block) : (s.updBlock u f).free = s.free := rfl
@[simp] theorem State.updBlock_nextId (s : State) (u : Nat) (f : Block → Block) : (s.updBlock u f).nextId = s.nextId := rfl
@[simp] theorem State.updBlock_tick (s : State) (u : Nat) (f : Block → Block) : (s.updBlock u f).tick = s.tick := rfl
@[simp] theorem State.updBlock_warps (s : State) (u : Nat) (f : Block → Block) : (s.updBlock u f).warps = s.warps := rfl
@[simp] theorem State.updBlock_blocks (s : State) (u : Nat) (f : Block → Block) : (s.updBlock u f).blocks = Map.upd s.blocks u f := rfl
@[simp] theorem State.updBlock_groups (s : State) (u : Nat) (f : Block → Block) : (s.updBlock u f).groups = s.groups := rfl
@[simp] theorem State.updBlock_grids (s : State) (u : Nat) (f : Block → Block) : (s.updBlock u f).grids = s.grids := rfl
@[simp] theorem State.updBlock_cores (s : State) (u : Nat) (f : Block → Block) : (s.updBlock u f).cores = s.cores := rfl
@[simp] theorem State.updBlock_mem (s : State) (u : Nat) (f : Block → Block) : (s.updBlock u f).mem = s.mem := rfl
@[simp] theorem State.updBlock_arr (s : State) (u : Nat) (f : Block → Block) : (s.updBlock u f).arr = s.arr := rfl
@[simp] theorem State.updBlock_relAt (s : State) (u : Nat) (f : Block → Block) : (s.updBlock u f).relAt = s.relAt := rfl
@[simp] theorem State.updBlock_llc (s : State) (u : Nat) (f : Block → Block) : (s.updBlock u f).llc = s.llc := rfl
@[simp] theorem State.updBlock_reqs (s : State) (u : Nat) (f : Block → Block) : (s.updBlock u f).reqs = s.reqs := rfl
@[simp] theorem State.updBlock_scopeWrites (s : State) (u : Nat) (f : Block → Block) : (s.updBlock u f).scopeWrites = s.scopeWrites := rfl
@[simp] theorem State.updBlock_copies (s : State) (u : Nat) (f : Block → Block) : (s.updBlock u f).copies = s.copies := rfl
@[simp] theorem State.updBlock_drains (s : State) (u : Nat) (f : Block → Block) : (s.updBlock u f).drains = s.drains := rfl
@[simp] theorem State.updBlock_colls (s : State) (u : Nat) (f : Block → Block) : (s.updBlock u f).colls = s.colls := rfl
@[simp] theorem State.updBlock_pwaits (s : State) (u : Nat) (f : Block → Block) : (s.updBlock u f).pwaits = s.pwaits := rfl
@[simp] theorem State.updBlock_pigeon (s : State) (u : Nat) (f : Block → Block) : (s.updBlock u f).pigeon = s.pigeon := rfl
@[simp] theorem State.updBlock_pigeonHeld (s : State) (u : Nat) (f : Block → Block) : (s.updBlock u f).pigeonHeld = s.pigeonHeld := rfl
@[simp] theorem State.updBlock_sccGrid (s : State) (u : Nat) (f : Block → Block) : (s.updBlock u f).sccGrid = s.sccGrid := rfl
@[simp] theorem State.updBlock_sccHalted (s : State) (u : Nat) (f : Block → Block) : (s.updBlock u f).sccHalted = s.sccHalted := rfl
@[simp] theorem State.updBlock_sccSaved (s : State) (u : Nat) (f : Block → Block) : (s.updBlock u f).sccSaved = s.sccSaved := rfl
@[simp] theorem State.updBlock_tlbs (s : State) (u : Nat) (f : Block → Block) : (s.updBlock u f).tlbs = s.tlbs := rfl
@[simp] theorem State.updBlock_wcache (s : State) (u : Nat) (f : Block → Block) : (s.updBlock u f).wcache = s.wcache := rfl
@[simp] theorem State.updBlock_saved (s : State) (u : Nat) (f : Block → Block) : (s.updBlock u f).saved = s.saved := rfl
@[simp] theorem State.updBlock_queues (s : State) (u : Nat) (f : Block → Block) : (s.updBlock u f).queues = s.queues := rfl
@[simp] theorem State.updBlock_turns (s : State) (u : Nat) (f : Block → Block) : (s.updBlock u f).turns = s.turns := rfl
@[simp] theorem State.updBlock_ctxs (s : State) (u : Nat) (f : Block → Block) : (s.updBlock u f).ctxs = s.ctxs := rfl
@[simp] theorem State.updBlock_fw (s : State) (u : Nat) (f : Block → Block) : (s.updBlock u f).fw = s.fw := rfl

@[simp] theorem State.setGroup_cur (s : State) (u : Nat) (g : Group) : (s.setGroup u g).cur = s.cur := rfl
@[simp] theorem State.setGroup_inputs (s : State) (u : Nat) (g : Group) : (s.setGroup u g).inputs = s.inputs := rfl
@[simp] theorem State.setGroup_plan (s : State) (u : Nat) (g : Group) : (s.setGroup u g).plan = s.plan := rfl
@[simp] theorem State.setGroup_choice (s : State) (u : Nat) (g : Group) : (s.setGroup u g).choice = s.choice := rfl
@[simp] theorem State.setGroup_free (s : State) (u : Nat) (g : Group) : (s.setGroup u g).free = s.free := rfl
@[simp] theorem State.setGroup_nextId (s : State) (u : Nat) (g : Group) : (s.setGroup u g).nextId = s.nextId := rfl
@[simp] theorem State.setGroup_tick (s : State) (u : Nat) (g : Group) : (s.setGroup u g).tick = s.tick := rfl
@[simp] theorem State.setGroup_warps (s : State) (u : Nat) (g : Group) : (s.setGroup u g).warps = s.warps := rfl
@[simp] theorem State.setGroup_blocks (s : State) (u : Nat) (g : Group) : (s.setGroup u g).blocks = s.blocks := rfl
@[simp] theorem State.setGroup_groups (s : State) (u : Nat) (g : Group) : (s.setGroup u g).groups = Map.put s.groups u g := rfl
@[simp] theorem State.setGroup_grids (s : State) (u : Nat) (g : Group) : (s.setGroup u g).grids = s.grids := rfl
@[simp] theorem State.setGroup_cores (s : State) (u : Nat) (g : Group) : (s.setGroup u g).cores = s.cores := rfl
@[simp] theorem State.setGroup_mem (s : State) (u : Nat) (g : Group) : (s.setGroup u g).mem = s.mem := rfl
@[simp] theorem State.setGroup_arr (s : State) (u : Nat) (g : Group) : (s.setGroup u g).arr = s.arr := rfl
@[simp] theorem State.setGroup_relAt (s : State) (u : Nat) (g : Group) : (s.setGroup u g).relAt = s.relAt := rfl
@[simp] theorem State.setGroup_llc (s : State) (u : Nat) (g : Group) : (s.setGroup u g).llc = s.llc := rfl
@[simp] theorem State.setGroup_reqs (s : State) (u : Nat) (g : Group) : (s.setGroup u g).reqs = s.reqs := rfl
@[simp] theorem State.setGroup_scopeWrites (s : State) (u : Nat) (g : Group) : (s.setGroup u g).scopeWrites = s.scopeWrites := rfl
@[simp] theorem State.setGroup_copies (s : State) (u : Nat) (g : Group) : (s.setGroup u g).copies = s.copies := rfl
@[simp] theorem State.setGroup_drains (s : State) (u : Nat) (g : Group) : (s.setGroup u g).drains = s.drains := rfl
@[simp] theorem State.setGroup_colls (s : State) (u : Nat) (g : Group) : (s.setGroup u g).colls = s.colls := rfl
@[simp] theorem State.setGroup_pwaits (s : State) (u : Nat) (g : Group) : (s.setGroup u g).pwaits = s.pwaits := rfl
@[simp] theorem State.setGroup_pigeon (s : State) (u : Nat) (g : Group) : (s.setGroup u g).pigeon = s.pigeon := rfl
@[simp] theorem State.setGroup_pigeonHeld (s : State) (u : Nat) (g : Group) : (s.setGroup u g).pigeonHeld = s.pigeonHeld := rfl
@[simp] theorem State.setGroup_sccGrid (s : State) (u : Nat) (g : Group) : (s.setGroup u g).sccGrid = s.sccGrid := rfl
@[simp] theorem State.setGroup_sccHalted (s : State) (u : Nat) (g : Group) : (s.setGroup u g).sccHalted = s.sccHalted := rfl
@[simp] theorem State.setGroup_sccSaved (s : State) (u : Nat) (g : Group) : (s.setGroup u g).sccSaved = s.sccSaved := rfl
@[simp] theorem State.setGroup_tlbs (s : State) (u : Nat) (g : Group) : (s.setGroup u g).tlbs = s.tlbs := rfl
@[simp] theorem State.setGroup_wcache (s : State) (u : Nat) (g : Group) : (s.setGroup u g).wcache = s.wcache := rfl
@[simp] theorem State.setGroup_saved (s : State) (u : Nat) (g : Group) : (s.setGroup u g).saved = s.saved := rfl
@[simp] theorem State.setGroup_queues (s : State) (u : Nat) (g : Group) : (s.setGroup u g).queues = s.queues := rfl
@[simp] theorem State.setGroup_turns (s : State) (u : Nat) (g : Group) : (s.setGroup u g).turns = s.turns := rfl
@[simp] theorem State.setGroup_ctxs (s : State) (u : Nat) (g : Group) : (s.setGroup u g).ctxs = s.ctxs := rfl
@[simp] theorem State.setGroup_fw (s : State) (u : Nat) (g : Group) : (s.setGroup u g).fw = s.fw := rfl

@[simp] theorem State.setGrid_cur (s : State) (u : Nat) (g : Grid) : (s.setGrid u g).cur = s.cur := rfl
@[simp] theorem State.setGrid_inputs (s : State) (u : Nat) (g : Grid) : (s.setGrid u g).inputs = s.inputs := rfl
@[simp] theorem State.setGrid_plan (s : State) (u : Nat) (g : Grid) : (s.setGrid u g).plan = s.plan := rfl
@[simp] theorem State.setGrid_choice (s : State) (u : Nat) (g : Grid) : (s.setGrid u g).choice = s.choice := rfl
@[simp] theorem State.setGrid_free (s : State) (u : Nat) (g : Grid) : (s.setGrid u g).free = s.free := rfl
@[simp] theorem State.setGrid_nextId (s : State) (u : Nat) (g : Grid) : (s.setGrid u g).nextId = s.nextId := rfl
@[simp] theorem State.setGrid_tick (s : State) (u : Nat) (g : Grid) : (s.setGrid u g).tick = s.tick := rfl
@[simp] theorem State.setGrid_warps (s : State) (u : Nat) (g : Grid) : (s.setGrid u g).warps = s.warps := rfl
@[simp] theorem State.setGrid_blocks (s : State) (u : Nat) (g : Grid) : (s.setGrid u g).blocks = s.blocks := rfl
@[simp] theorem State.setGrid_groups (s : State) (u : Nat) (g : Grid) : (s.setGrid u g).groups = s.groups := rfl
@[simp] theorem State.setGrid_grids (s : State) (u : Nat) (g : Grid) : (s.setGrid u g).grids = Map.put s.grids u g := rfl
@[simp] theorem State.setGrid_cores (s : State) (u : Nat) (g : Grid) : (s.setGrid u g).cores = s.cores := rfl
@[simp] theorem State.setGrid_mem (s : State) (u : Nat) (g : Grid) : (s.setGrid u g).mem = s.mem := rfl
@[simp] theorem State.setGrid_arr (s : State) (u : Nat) (g : Grid) : (s.setGrid u g).arr = s.arr := rfl
@[simp] theorem State.setGrid_relAt (s : State) (u : Nat) (g : Grid) : (s.setGrid u g).relAt = s.relAt := rfl
@[simp] theorem State.setGrid_llc (s : State) (u : Nat) (g : Grid) : (s.setGrid u g).llc = s.llc := rfl
@[simp] theorem State.setGrid_reqs (s : State) (u : Nat) (g : Grid) : (s.setGrid u g).reqs = s.reqs := rfl
@[simp] theorem State.setGrid_scopeWrites (s : State) (u : Nat) (g : Grid) : (s.setGrid u g).scopeWrites = s.scopeWrites := rfl
@[simp] theorem State.setGrid_copies (s : State) (u : Nat) (g : Grid) : (s.setGrid u g).copies = s.copies := rfl
@[simp] theorem State.setGrid_drains (s : State) (u : Nat) (g : Grid) : (s.setGrid u g).drains = s.drains := rfl
@[simp] theorem State.setGrid_colls (s : State) (u : Nat) (g : Grid) : (s.setGrid u g).colls = s.colls := rfl
@[simp] theorem State.setGrid_pwaits (s : State) (u : Nat) (g : Grid) : (s.setGrid u g).pwaits = s.pwaits := rfl
@[simp] theorem State.setGrid_pigeon (s : State) (u : Nat) (g : Grid) : (s.setGrid u g).pigeon = s.pigeon := rfl
@[simp] theorem State.setGrid_pigeonHeld (s : State) (u : Nat) (g : Grid) : (s.setGrid u g).pigeonHeld = s.pigeonHeld := rfl
@[simp] theorem State.setGrid_sccGrid (s : State) (u : Nat) (g : Grid) : (s.setGrid u g).sccGrid = s.sccGrid := rfl
@[simp] theorem State.setGrid_sccHalted (s : State) (u : Nat) (g : Grid) : (s.setGrid u g).sccHalted = s.sccHalted := rfl
@[simp] theorem State.setGrid_sccSaved (s : State) (u : Nat) (g : Grid) : (s.setGrid u g).sccSaved = s.sccSaved := rfl
@[simp] theorem State.setGrid_tlbs (s : State) (u : Nat) (g : Grid) : (s.setGrid u g).tlbs = s.tlbs := rfl
@[simp] theorem State.setGrid_wcache (s : State) (u : Nat) (g : Grid) : (s.setGrid u g).wcache = s.wcache := rfl
@[simp] theorem State.setGrid_saved (s : State) (u : Nat) (g : Grid) : (s.setGrid u g).saved = s.saved := rfl
@[simp] theorem State.setGrid_queues (s : State) (u : Nat) (g : Grid) : (s.setGrid u g).queues = s.queues := rfl
@[simp] theorem State.setGrid_turns (s : State) (u : Nat) (g : Grid) : (s.setGrid u g).turns = s.turns := rfl
@[simp] theorem State.setGrid_ctxs (s : State) (u : Nat) (g : Grid) : (s.setGrid u g).ctxs = s.ctxs := rfl
@[simp] theorem State.setGrid_fw (s : State) (u : Nat) (g : Grid) : (s.setGrid u g).fw = s.fw := rfl

@[simp] theorem State.updGrid_cur (s : State) (u : Nat) (f : Grid → Grid) : (s.updGrid u f).cur = s.cur := rfl
@[simp] theorem State.updGrid_inputs (s : State) (u : Nat) (f : Grid → Grid) : (s.updGrid u f).inputs = s.inputs := rfl
@[simp] theorem State.updGrid_plan (s : State) (u : Nat) (f : Grid → Grid) : (s.updGrid u f).plan = s.plan := rfl
@[simp] theorem State.updGrid_choice (s : State) (u : Nat) (f : Grid → Grid) : (s.updGrid u f).choice = s.choice := rfl
@[simp] theorem State.updGrid_free (s : State) (u : Nat) (f : Grid → Grid) : (s.updGrid u f).free = s.free := rfl
@[simp] theorem State.updGrid_nextId (s : State) (u : Nat) (f : Grid → Grid) : (s.updGrid u f).nextId = s.nextId := rfl
@[simp] theorem State.updGrid_tick (s : State) (u : Nat) (f : Grid → Grid) : (s.updGrid u f).tick = s.tick := rfl
@[simp] theorem State.updGrid_warps (s : State) (u : Nat) (f : Grid → Grid) : (s.updGrid u f).warps = s.warps := rfl
@[simp] theorem State.updGrid_blocks (s : State) (u : Nat) (f : Grid → Grid) : (s.updGrid u f).blocks = s.blocks := rfl
@[simp] theorem State.updGrid_groups (s : State) (u : Nat) (f : Grid → Grid) : (s.updGrid u f).groups = s.groups := rfl
@[simp] theorem State.updGrid_grids (s : State) (u : Nat) (f : Grid → Grid) : (s.updGrid u f).grids = Map.upd s.grids u f := rfl
@[simp] theorem State.updGrid_cores (s : State) (u : Nat) (f : Grid → Grid) : (s.updGrid u f).cores = s.cores := rfl
@[simp] theorem State.updGrid_mem (s : State) (u : Nat) (f : Grid → Grid) : (s.updGrid u f).mem = s.mem := rfl
@[simp] theorem State.updGrid_arr (s : State) (u : Nat) (f : Grid → Grid) : (s.updGrid u f).arr = s.arr := rfl
@[simp] theorem State.updGrid_relAt (s : State) (u : Nat) (f : Grid → Grid) : (s.updGrid u f).relAt = s.relAt := rfl
@[simp] theorem State.updGrid_llc (s : State) (u : Nat) (f : Grid → Grid) : (s.updGrid u f).llc = s.llc := rfl
@[simp] theorem State.updGrid_reqs (s : State) (u : Nat) (f : Grid → Grid) : (s.updGrid u f).reqs = s.reqs := rfl
@[simp] theorem State.updGrid_scopeWrites (s : State) (u : Nat) (f : Grid → Grid) : (s.updGrid u f).scopeWrites = s.scopeWrites := rfl
@[simp] theorem State.updGrid_copies (s : State) (u : Nat) (f : Grid → Grid) : (s.updGrid u f).copies = s.copies := rfl
@[simp] theorem State.updGrid_drains (s : State) (u : Nat) (f : Grid → Grid) : (s.updGrid u f).drains = s.drains := rfl
@[simp] theorem State.updGrid_colls (s : State) (u : Nat) (f : Grid → Grid) : (s.updGrid u f).colls = s.colls := rfl
@[simp] theorem State.updGrid_pwaits (s : State) (u : Nat) (f : Grid → Grid) : (s.updGrid u f).pwaits = s.pwaits := rfl
@[simp] theorem State.updGrid_pigeon (s : State) (u : Nat) (f : Grid → Grid) : (s.updGrid u f).pigeon = s.pigeon := rfl
@[simp] theorem State.updGrid_pigeonHeld (s : State) (u : Nat) (f : Grid → Grid) : (s.updGrid u f).pigeonHeld = s.pigeonHeld := rfl
@[simp] theorem State.updGrid_sccGrid (s : State) (u : Nat) (f : Grid → Grid) : (s.updGrid u f).sccGrid = s.sccGrid := rfl
@[simp] theorem State.updGrid_sccHalted (s : State) (u : Nat) (f : Grid → Grid) : (s.updGrid u f).sccHalted = s.sccHalted := rfl
@[simp] theorem State.updGrid_sccSaved (s : State) (u : Nat) (f : Grid → Grid) : (s.updGrid u f).sccSaved = s.sccSaved := rfl
@[simp] theorem State.updGrid_tlbs (s : State) (u : Nat) (f : Grid → Grid) : (s.updGrid u f).tlbs = s.tlbs := rfl
@[simp] theorem State.updGrid_wcache (s : State) (u : Nat) (f : Grid → Grid) : (s.updGrid u f).wcache = s.wcache := rfl
@[simp] theorem State.updGrid_saved (s : State) (u : Nat) (f : Grid → Grid) : (s.updGrid u f).saved = s.saved := rfl
@[simp] theorem State.updGrid_queues (s : State) (u : Nat) (f : Grid → Grid) : (s.updGrid u f).queues = s.queues := rfl
@[simp] theorem State.updGrid_turns (s : State) (u : Nat) (f : Grid → Grid) : (s.updGrid u f).turns = s.turns := rfl
@[simp] theorem State.updGrid_ctxs (s : State) (u : Nat) (f : Grid → Grid) : (s.updGrid u f).ctxs = s.ctxs := rfl
@[simp] theorem State.updGrid_fw (s : State) (u : Nat) (f : Grid → Grid) : (s.updGrid u f).fw = s.fw := rfl

@[simp] theorem State.setCore_cur (s : State) (c : Nat) (k : Core) : (s.setCore c k).cur = s.cur := rfl
@[simp] theorem State.setCore_inputs (s : State) (c : Nat) (k : Core) : (s.setCore c k).inputs = s.inputs := rfl
@[simp] theorem State.setCore_plan (s : State) (c : Nat) (k : Core) : (s.setCore c k).plan = s.plan := rfl
@[simp] theorem State.setCore_choice (s : State) (c : Nat) (k : Core) : (s.setCore c k).choice = s.choice := rfl
@[simp] theorem State.setCore_free (s : State) (c : Nat) (k : Core) : (s.setCore c k).free = s.free := rfl
@[simp] theorem State.setCore_nextId (s : State) (c : Nat) (k : Core) : (s.setCore c k).nextId = s.nextId := rfl
@[simp] theorem State.setCore_tick (s : State) (c : Nat) (k : Core) : (s.setCore c k).tick = s.tick := rfl
@[simp] theorem State.setCore_warps (s : State) (c : Nat) (k : Core) : (s.setCore c k).warps = s.warps := rfl
@[simp] theorem State.setCore_blocks (s : State) (c : Nat) (k : Core) : (s.setCore c k).blocks = s.blocks := rfl
@[simp] theorem State.setCore_groups (s : State) (c : Nat) (k : Core) : (s.setCore c k).groups = s.groups := rfl
@[simp] theorem State.setCore_grids (s : State) (c : Nat) (k : Core) : (s.setCore c k).grids = s.grids := rfl
@[simp] theorem State.setCore_cores (s : State) (c : Nat) (k : Core) : (s.setCore c k).cores = Map.put s.cores c k := rfl
@[simp] theorem State.setCore_mem (s : State) (c : Nat) (k : Core) : (s.setCore c k).mem = s.mem := rfl
@[simp] theorem State.setCore_arr (s : State) (c : Nat) (k : Core) : (s.setCore c k).arr = s.arr := rfl
@[simp] theorem State.setCore_relAt (s : State) (c : Nat) (k : Core) : (s.setCore c k).relAt = s.relAt := rfl
@[simp] theorem State.setCore_llc (s : State) (c : Nat) (k : Core) : (s.setCore c k).llc = s.llc := rfl
@[simp] theorem State.setCore_reqs (s : State) (c : Nat) (k : Core) : (s.setCore c k).reqs = s.reqs := rfl
@[simp] theorem State.setCore_scopeWrites (s : State) (c : Nat) (k : Core) : (s.setCore c k).scopeWrites = s.scopeWrites := rfl
@[simp] theorem State.setCore_copies (s : State) (c : Nat) (k : Core) : (s.setCore c k).copies = s.copies := rfl
@[simp] theorem State.setCore_drains (s : State) (c : Nat) (k : Core) : (s.setCore c k).drains = s.drains := rfl
@[simp] theorem State.setCore_colls (s : State) (c : Nat) (k : Core) : (s.setCore c k).colls = s.colls := rfl
@[simp] theorem State.setCore_pwaits (s : State) (c : Nat) (k : Core) : (s.setCore c k).pwaits = s.pwaits := rfl
@[simp] theorem State.setCore_pigeon (s : State) (c : Nat) (k : Core) : (s.setCore c k).pigeon = s.pigeon := rfl
@[simp] theorem State.setCore_pigeonHeld (s : State) (c : Nat) (k : Core) : (s.setCore c k).pigeonHeld = s.pigeonHeld := rfl
@[simp] theorem State.setCore_sccGrid (s : State) (c : Nat) (k : Core) : (s.setCore c k).sccGrid = s.sccGrid := rfl
@[simp] theorem State.setCore_sccHalted (s : State) (c : Nat) (k : Core) : (s.setCore c k).sccHalted = s.sccHalted := rfl
@[simp] theorem State.setCore_sccSaved (s : State) (c : Nat) (k : Core) : (s.setCore c k).sccSaved = s.sccSaved := rfl
@[simp] theorem State.setCore_tlbs (s : State) (c : Nat) (k : Core) : (s.setCore c k).tlbs = s.tlbs := rfl
@[simp] theorem State.setCore_wcache (s : State) (c : Nat) (k : Core) : (s.setCore c k).wcache = s.wcache := rfl
@[simp] theorem State.setCore_saved (s : State) (c : Nat) (k : Core) : (s.setCore c k).saved = s.saved := rfl
@[simp] theorem State.setCore_queues (s : State) (c : Nat) (k : Core) : (s.setCore c k).queues = s.queues := rfl
@[simp] theorem State.setCore_turns (s : State) (c : Nat) (k : Core) : (s.setCore c k).turns = s.turns := rfl
@[simp] theorem State.setCore_ctxs (s : State) (c : Nat) (k : Core) : (s.setCore c k).ctxs = s.ctxs := rfl
@[simp] theorem State.setCore_fw (s : State) (c : Nat) (k : Core) : (s.setCore c k).fw = s.fw := rfl

@[simp] theorem State.updCore_cur (s : State) (c : Nat) (f : Core → Core) : (s.updCore c f).cur = s.cur := rfl
@[simp] theorem State.updCore_inputs (s : State) (c : Nat) (f : Core → Core) : (s.updCore c f).inputs = s.inputs := rfl
@[simp] theorem State.updCore_plan (s : State) (c : Nat) (f : Core → Core) : (s.updCore c f).plan = s.plan := rfl
@[simp] theorem State.updCore_choice (s : State) (c : Nat) (f : Core → Core) : (s.updCore c f).choice = s.choice := rfl
@[simp] theorem State.updCore_free (s : State) (c : Nat) (f : Core → Core) : (s.updCore c f).free = s.free := rfl
@[simp] theorem State.updCore_nextId (s : State) (c : Nat) (f : Core → Core) : (s.updCore c f).nextId = s.nextId := rfl
@[simp] theorem State.updCore_tick (s : State) (c : Nat) (f : Core → Core) : (s.updCore c f).tick = s.tick := rfl
@[simp] theorem State.updCore_warps (s : State) (c : Nat) (f : Core → Core) : (s.updCore c f).warps = s.warps := rfl
@[simp] theorem State.updCore_blocks (s : State) (c : Nat) (f : Core → Core) : (s.updCore c f).blocks = s.blocks := rfl
@[simp] theorem State.updCore_groups (s : State) (c : Nat) (f : Core → Core) : (s.updCore c f).groups = s.groups := rfl
@[simp] theorem State.updCore_grids (s : State) (c : Nat) (f : Core → Core) : (s.updCore c f).grids = s.grids := rfl
@[simp] theorem State.updCore_cores (s : State) (c : Nat) (f : Core → Core) :
    (s.updCore c f).cores = Map.put s.cores c (f (s.core c)) := rfl
@[simp] theorem State.updCore_mem (s : State) (c : Nat) (f : Core → Core) : (s.updCore c f).mem = s.mem := rfl
@[simp] theorem State.updCore_arr (s : State) (c : Nat) (f : Core → Core) : (s.updCore c f).arr = s.arr := rfl
@[simp] theorem State.updCore_relAt (s : State) (c : Nat) (f : Core → Core) : (s.updCore c f).relAt = s.relAt := rfl
@[simp] theorem State.updCore_llc (s : State) (c : Nat) (f : Core → Core) : (s.updCore c f).llc = s.llc := rfl
@[simp] theorem State.updCore_reqs (s : State) (c : Nat) (f : Core → Core) : (s.updCore c f).reqs = s.reqs := rfl
@[simp] theorem State.updCore_scopeWrites (s : State) (c : Nat) (f : Core → Core) : (s.updCore c f).scopeWrites = s.scopeWrites := rfl
@[simp] theorem State.updCore_copies (s : State) (c : Nat) (f : Core → Core) : (s.updCore c f).copies = s.copies := rfl
@[simp] theorem State.updCore_drains (s : State) (c : Nat) (f : Core → Core) : (s.updCore c f).drains = s.drains := rfl
@[simp] theorem State.updCore_colls (s : State) (c : Nat) (f : Core → Core) : (s.updCore c f).colls = s.colls := rfl
@[simp] theorem State.updCore_pwaits (s : State) (c : Nat) (f : Core → Core) : (s.updCore c f).pwaits = s.pwaits := rfl
@[simp] theorem State.updCore_pigeon (s : State) (c : Nat) (f : Core → Core) : (s.updCore c f).pigeon = s.pigeon := rfl
@[simp] theorem State.updCore_pigeonHeld (s : State) (c : Nat) (f : Core → Core) : (s.updCore c f).pigeonHeld = s.pigeonHeld := rfl
@[simp] theorem State.updCore_sccGrid (s : State) (c : Nat) (f : Core → Core) : (s.updCore c f).sccGrid = s.sccGrid := rfl
@[simp] theorem State.updCore_sccHalted (s : State) (c : Nat) (f : Core → Core) : (s.updCore c f).sccHalted = s.sccHalted := rfl
@[simp] theorem State.updCore_sccSaved (s : State) (c : Nat) (f : Core → Core) : (s.updCore c f).sccSaved = s.sccSaved := rfl
@[simp] theorem State.updCore_tlbs (s : State) (c : Nat) (f : Core → Core) : (s.updCore c f).tlbs = s.tlbs := rfl
@[simp] theorem State.updCore_wcache (s : State) (c : Nat) (f : Core → Core) : (s.updCore c f).wcache = s.wcache := rfl
@[simp] theorem State.updCore_saved (s : State) (c : Nat) (f : Core → Core) : (s.updCore c f).saved = s.saved := rfl
@[simp] theorem State.updCore_queues (s : State) (c : Nat) (f : Core → Core) : (s.updCore c f).queues = s.queues := rfl
@[simp] theorem State.updCore_turns (s : State) (c : Nat) (f : Core → Core) : (s.updCore c f).turns = s.turns := rfl
@[simp] theorem State.updCore_ctxs (s : State) (c : Nat) (f : Core → Core) : (s.updCore c f).ctxs = s.ctxs := rfl
@[simp] theorem State.updCore_fw (s : State) (c : Nat) (f : Core → Core) : (s.updCore c f).fw = s.fw := rfl

@[simp] theorem State.setCtx_cur (s : State) (x : Nat) (k : Ctx) : (s.setCtx x k).cur = s.cur := rfl
@[simp] theorem State.setCtx_inputs (s : State) (x : Nat) (k : Ctx) : (s.setCtx x k).inputs = s.inputs := rfl
@[simp] theorem State.setCtx_plan (s : State) (x : Nat) (k : Ctx) : (s.setCtx x k).plan = s.plan := rfl
@[simp] theorem State.setCtx_choice (s : State) (x : Nat) (k : Ctx) : (s.setCtx x k).choice = s.choice := rfl
@[simp] theorem State.setCtx_free (s : State) (x : Nat) (k : Ctx) : (s.setCtx x k).free = s.free := rfl
@[simp] theorem State.setCtx_nextId (s : State) (x : Nat) (k : Ctx) : (s.setCtx x k).nextId = s.nextId := rfl
@[simp] theorem State.setCtx_tick (s : State) (x : Nat) (k : Ctx) : (s.setCtx x k).tick = s.tick := rfl
@[simp] theorem State.setCtx_warps (s : State) (x : Nat) (k : Ctx) : (s.setCtx x k).warps = s.warps := rfl
@[simp] theorem State.setCtx_blocks (s : State) (x : Nat) (k : Ctx) : (s.setCtx x k).blocks = s.blocks := rfl
@[simp] theorem State.setCtx_groups (s : State) (x : Nat) (k : Ctx) : (s.setCtx x k).groups = s.groups := rfl
@[simp] theorem State.setCtx_grids (s : State) (x : Nat) (k : Ctx) : (s.setCtx x k).grids = s.grids := rfl
@[simp] theorem State.setCtx_cores (s : State) (x : Nat) (k : Ctx) : (s.setCtx x k).cores = s.cores := rfl
@[simp] theorem State.setCtx_mem (s : State) (x : Nat) (k : Ctx) : (s.setCtx x k).mem = s.mem := rfl
@[simp] theorem State.setCtx_arr (s : State) (x : Nat) (k : Ctx) : (s.setCtx x k).arr = s.arr := rfl
@[simp] theorem State.setCtx_relAt (s : State) (x : Nat) (k : Ctx) : (s.setCtx x k).relAt = s.relAt := rfl
@[simp] theorem State.setCtx_llc (s : State) (x : Nat) (k : Ctx) : (s.setCtx x k).llc = s.llc := rfl
@[simp] theorem State.setCtx_reqs (s : State) (x : Nat) (k : Ctx) : (s.setCtx x k).reqs = s.reqs := rfl
@[simp] theorem State.setCtx_scopeWrites (s : State) (x : Nat) (k : Ctx) : (s.setCtx x k).scopeWrites = s.scopeWrites := rfl
@[simp] theorem State.setCtx_copies (s : State) (x : Nat) (k : Ctx) : (s.setCtx x k).copies = s.copies := rfl
@[simp] theorem State.setCtx_drains (s : State) (x : Nat) (k : Ctx) : (s.setCtx x k).drains = s.drains := rfl
@[simp] theorem State.setCtx_colls (s : State) (x : Nat) (k : Ctx) : (s.setCtx x k).colls = s.colls := rfl
@[simp] theorem State.setCtx_pwaits (s : State) (x : Nat) (k : Ctx) : (s.setCtx x k).pwaits = s.pwaits := rfl
@[simp] theorem State.setCtx_pigeon (s : State) (x : Nat) (k : Ctx) : (s.setCtx x k).pigeon = s.pigeon := rfl
@[simp] theorem State.setCtx_pigeonHeld (s : State) (x : Nat) (k : Ctx) : (s.setCtx x k).pigeonHeld = s.pigeonHeld := rfl
@[simp] theorem State.setCtx_sccGrid (s : State) (x : Nat) (k : Ctx) : (s.setCtx x k).sccGrid = s.sccGrid := rfl
@[simp] theorem State.setCtx_sccHalted (s : State) (x : Nat) (k : Ctx) : (s.setCtx x k).sccHalted = s.sccHalted := rfl
@[simp] theorem State.setCtx_sccSaved (s : State) (x : Nat) (k : Ctx) : (s.setCtx x k).sccSaved = s.sccSaved := rfl
@[simp] theorem State.setCtx_tlbs (s : State) (x : Nat) (k : Ctx) : (s.setCtx x k).tlbs = s.tlbs := rfl
@[simp] theorem State.setCtx_wcache (s : State) (x : Nat) (k : Ctx) : (s.setCtx x k).wcache = s.wcache := rfl
@[simp] theorem State.setCtx_saved (s : State) (x : Nat) (k : Ctx) : (s.setCtx x k).saved = s.saved := rfl
@[simp] theorem State.setCtx_queues (s : State) (x : Nat) (k : Ctx) : (s.setCtx x k).queues = s.queues := rfl
@[simp] theorem State.setCtx_turns (s : State) (x : Nat) (k : Ctx) : (s.setCtx x k).turns = s.turns := rfl
@[simp] theorem State.setCtx_ctxs (s : State) (x : Nat) (k : Ctx) : (s.setCtx x k).ctxs = Map.put s.ctxs x k := rfl
@[simp] theorem State.setCtx_fw (s : State) (x : Nat) (k : Ctx) : (s.setCtx x k).fw = s.fw := rfl

@[simp] theorem State.updCtx_cur (s : State) (x : Nat) (f : Ctx → Ctx) : (s.updCtx x f).cur = s.cur := rfl
@[simp] theorem State.updCtx_inputs (s : State) (x : Nat) (f : Ctx → Ctx) : (s.updCtx x f).inputs = s.inputs := rfl
@[simp] theorem State.updCtx_plan (s : State) (x : Nat) (f : Ctx → Ctx) : (s.updCtx x f).plan = s.plan := rfl
@[simp] theorem State.updCtx_choice (s : State) (x : Nat) (f : Ctx → Ctx) : (s.updCtx x f).choice = s.choice := rfl
@[simp] theorem State.updCtx_free (s : State) (x : Nat) (f : Ctx → Ctx) : (s.updCtx x f).free = s.free := rfl
@[simp] theorem State.updCtx_nextId (s : State) (x : Nat) (f : Ctx → Ctx) : (s.updCtx x f).nextId = s.nextId := rfl
@[simp] theorem State.updCtx_tick (s : State) (x : Nat) (f : Ctx → Ctx) : (s.updCtx x f).tick = s.tick := rfl
@[simp] theorem State.updCtx_warps (s : State) (x : Nat) (f : Ctx → Ctx) : (s.updCtx x f).warps = s.warps := rfl
@[simp] theorem State.updCtx_blocks (s : State) (x : Nat) (f : Ctx → Ctx) : (s.updCtx x f).blocks = s.blocks := rfl
@[simp] theorem State.updCtx_groups (s : State) (x : Nat) (f : Ctx → Ctx) : (s.updCtx x f).groups = s.groups := rfl
@[simp] theorem State.updCtx_grids (s : State) (x : Nat) (f : Ctx → Ctx) : (s.updCtx x f).grids = s.grids := rfl
@[simp] theorem State.updCtx_cores (s : State) (x : Nat) (f : Ctx → Ctx) : (s.updCtx x f).cores = s.cores := rfl
@[simp] theorem State.updCtx_mem (s : State) (x : Nat) (f : Ctx → Ctx) : (s.updCtx x f).mem = s.mem := rfl
@[simp] theorem State.updCtx_arr (s : State) (x : Nat) (f : Ctx → Ctx) : (s.updCtx x f).arr = s.arr := rfl
@[simp] theorem State.updCtx_relAt (s : State) (x : Nat) (f : Ctx → Ctx) : (s.updCtx x f).relAt = s.relAt := rfl
@[simp] theorem State.updCtx_llc (s : State) (x : Nat) (f : Ctx → Ctx) : (s.updCtx x f).llc = s.llc := rfl
@[simp] theorem State.updCtx_reqs (s : State) (x : Nat) (f : Ctx → Ctx) : (s.updCtx x f).reqs = s.reqs := rfl
@[simp] theorem State.updCtx_scopeWrites (s : State) (x : Nat) (f : Ctx → Ctx) : (s.updCtx x f).scopeWrites = s.scopeWrites := rfl
@[simp] theorem State.updCtx_copies (s : State) (x : Nat) (f : Ctx → Ctx) : (s.updCtx x f).copies = s.copies := rfl
@[simp] theorem State.updCtx_drains (s : State) (x : Nat) (f : Ctx → Ctx) : (s.updCtx x f).drains = s.drains := rfl
@[simp] theorem State.updCtx_colls (s : State) (x : Nat) (f : Ctx → Ctx) : (s.updCtx x f).colls = s.colls := rfl
@[simp] theorem State.updCtx_pwaits (s : State) (x : Nat) (f : Ctx → Ctx) : (s.updCtx x f).pwaits = s.pwaits := rfl
@[simp] theorem State.updCtx_pigeon (s : State) (x : Nat) (f : Ctx → Ctx) : (s.updCtx x f).pigeon = s.pigeon := rfl
@[simp] theorem State.updCtx_pigeonHeld (s : State) (x : Nat) (f : Ctx → Ctx) : (s.updCtx x f).pigeonHeld = s.pigeonHeld := rfl
@[simp] theorem State.updCtx_sccGrid (s : State) (x : Nat) (f : Ctx → Ctx) : (s.updCtx x f).sccGrid = s.sccGrid := rfl
@[simp] theorem State.updCtx_sccHalted (s : State) (x : Nat) (f : Ctx → Ctx) : (s.updCtx x f).sccHalted = s.sccHalted := rfl
@[simp] theorem State.updCtx_sccSaved (s : State) (x : Nat) (f : Ctx → Ctx) : (s.updCtx x f).sccSaved = s.sccSaved := rfl
@[simp] theorem State.updCtx_tlbs (s : State) (x : Nat) (f : Ctx → Ctx) : (s.updCtx x f).tlbs = s.tlbs := rfl
@[simp] theorem State.updCtx_wcache (s : State) (x : Nat) (f : Ctx → Ctx) : (s.updCtx x f).wcache = s.wcache := rfl
@[simp] theorem State.updCtx_saved (s : State) (x : Nat) (f : Ctx → Ctx) : (s.updCtx x f).saved = s.saved := rfl
@[simp] theorem State.updCtx_queues (s : State) (x : Nat) (f : Ctx → Ctx) : (s.updCtx x f).queues = s.queues := rfl
@[simp] theorem State.updCtx_turns (s : State) (x : Nat) (f : Ctx → Ctx) : (s.updCtx x f).turns = s.turns := rfl
@[simp] theorem State.updCtx_ctxs (s : State) (x : Nat) (f : Ctx → Ctx) : (s.updCtx x f).ctxs = Map.put s.ctxs x (f (s.ctx x)) := rfl
@[simp] theorem State.updCtx_fw (s : State) (x : Nat) (f : Ctx → Ctx) : (s.updCtx x f).fw = s.fw := rfl

@[simp] theorem State.addReq_cur (s : State) (r : Req) : (s.addReq r).cur = s.cur := rfl
@[simp] theorem State.addReq_inputs (s : State) (r : Req) : (s.addReq r).inputs = s.inputs := rfl
@[simp] theorem State.addReq_plan (s : State) (r : Req) : (s.addReq r).plan = s.plan := rfl
@[simp] theorem State.addReq_choice (s : State) (r : Req) : (s.addReq r).choice = s.choice := rfl
@[simp] theorem State.addReq_free (s : State) (r : Req) : (s.addReq r).free = s.free := rfl
@[simp] theorem State.addReq_nextId (s : State) (r : Req) : (s.addReq r).nextId = s.nextId + 1 := rfl
@[simp] theorem State.addReq_tick (s : State) (r : Req) : (s.addReq r).tick = s.tick := rfl
@[simp] theorem State.addReq_warps (s : State) (r : Req) : (s.addReq r).warps = s.warps := rfl
@[simp] theorem State.addReq_blocks (s : State) (r : Req) : (s.addReq r).blocks = s.blocks := rfl
@[simp] theorem State.addReq_groups (s : State) (r : Req) : (s.addReq r).groups = s.groups := rfl
@[simp] theorem State.addReq_grids (s : State) (r : Req) : (s.addReq r).grids = s.grids := rfl
@[simp] theorem State.addReq_cores (s : State) (r : Req) : (s.addReq r).cores = s.cores := rfl
@[simp] theorem State.addReq_mem (s : State) (r : Req) : (s.addReq r).mem = s.mem := rfl
@[simp] theorem State.addReq_arr (s : State) (r : Req) : (s.addReq r).arr = s.arr := rfl
@[simp] theorem State.addReq_relAt (s : State) (r : Req) : (s.addReq r).relAt = s.relAt := rfl
@[simp] theorem State.addReq_llc (s : State) (r : Req) : (s.addReq r).llc = s.llc := rfl
@[simp] theorem State.addReq_reqs (s : State) (r : Req) : (s.addReq r).reqs = Map.put s.reqs s.nextId r := rfl
@[simp] theorem State.addReq_scopeWrites (s : State) (r : Req) : (s.addReq r).scopeWrites = s.scopeWrites := rfl
@[simp] theorem State.addReq_copies (s : State) (r : Req) : (s.addReq r).copies = s.copies := rfl
@[simp] theorem State.addReq_drains (s : State) (r : Req) : (s.addReq r).drains = s.drains := rfl
@[simp] theorem State.addReq_colls (s : State) (r : Req) : (s.addReq r).colls = s.colls := rfl
@[simp] theorem State.addReq_pwaits (s : State) (r : Req) : (s.addReq r).pwaits = s.pwaits := rfl
@[simp] theorem State.addReq_pigeon (s : State) (r : Req) : (s.addReq r).pigeon = s.pigeon := rfl
@[simp] theorem State.addReq_pigeonHeld (s : State) (r : Req) : (s.addReq r).pigeonHeld = s.pigeonHeld := rfl
@[simp] theorem State.addReq_sccGrid (s : State) (r : Req) : (s.addReq r).sccGrid = s.sccGrid := rfl
@[simp] theorem State.addReq_sccHalted (s : State) (r : Req) : (s.addReq r).sccHalted = s.sccHalted := rfl
@[simp] theorem State.addReq_sccSaved (s : State) (r : Req) : (s.addReq r).sccSaved = s.sccSaved := rfl
@[simp] theorem State.addReq_tlbs (s : State) (r : Req) : (s.addReq r).tlbs = s.tlbs := rfl
@[simp] theorem State.addReq_wcache (s : State) (r : Req) : (s.addReq r).wcache = s.wcache := rfl
@[simp] theorem State.addReq_saved (s : State) (r : Req) : (s.addReq r).saved = s.saved := rfl
@[simp] theorem State.addReq_queues (s : State) (r : Req) : (s.addReq r).queues = s.queues := rfl
@[simp] theorem State.addReq_turns (s : State) (r : Req) : (s.addReq r).turns = s.turns := rfl
@[simp] theorem State.addReq_ctxs (s : State) (r : Req) : (s.addReq r).ctxs = s.ctxs := rfl
@[simp] theorem State.addReq_fw (s : State) (r : Req) : (s.addReq r).fw = s.fw := rfl

@[simp] theorem State.setReq_cur (s : State) (k : Nat) (r : Req) : (s.setReq k r).cur = s.cur := rfl
@[simp] theorem State.setReq_inputs (s : State) (k : Nat) (r : Req) : (s.setReq k r).inputs = s.inputs := rfl
@[simp] theorem State.setReq_plan (s : State) (k : Nat) (r : Req) : (s.setReq k r).plan = s.plan := rfl
@[simp] theorem State.setReq_choice (s : State) (k : Nat) (r : Req) : (s.setReq k r).choice = s.choice := rfl
@[simp] theorem State.setReq_free (s : State) (k : Nat) (r : Req) : (s.setReq k r).free = s.free := rfl
@[simp] theorem State.setReq_nextId (s : State) (k : Nat) (r : Req) : (s.setReq k r).nextId = s.nextId := rfl
@[simp] theorem State.setReq_tick (s : State) (k : Nat) (r : Req) : (s.setReq k r).tick = s.tick := rfl
@[simp] theorem State.setReq_warps (s : State) (k : Nat) (r : Req) : (s.setReq k r).warps = s.warps := rfl
@[simp] theorem State.setReq_blocks (s : State) (k : Nat) (r : Req) : (s.setReq k r).blocks = s.blocks := rfl
@[simp] theorem State.setReq_groups (s : State) (k : Nat) (r : Req) : (s.setReq k r).groups = s.groups := rfl
@[simp] theorem State.setReq_grids (s : State) (k : Nat) (r : Req) : (s.setReq k r).grids = s.grids := rfl
@[simp] theorem State.setReq_cores (s : State) (k : Nat) (r : Req) : (s.setReq k r).cores = s.cores := rfl
@[simp] theorem State.setReq_mem (s : State) (k : Nat) (r : Req) : (s.setReq k r).mem = s.mem := rfl
@[simp] theorem State.setReq_arr (s : State) (k : Nat) (r : Req) : (s.setReq k r).arr = s.arr := rfl
@[simp] theorem State.setReq_relAt (s : State) (k : Nat) (r : Req) : (s.setReq k r).relAt = s.relAt := rfl
@[simp] theorem State.setReq_llc (s : State) (k : Nat) (r : Req) : (s.setReq k r).llc = s.llc := rfl
@[simp] theorem State.setReq_reqs (s : State) (k : Nat) (r : Req) : (s.setReq k r).reqs = Map.put s.reqs k r := rfl
@[simp] theorem State.setReq_scopeWrites (s : State) (k : Nat) (r : Req) : (s.setReq k r).scopeWrites = s.scopeWrites := rfl
@[simp] theorem State.setReq_copies (s : State) (k : Nat) (r : Req) : (s.setReq k r).copies = s.copies := rfl
@[simp] theorem State.setReq_drains (s : State) (k : Nat) (r : Req) : (s.setReq k r).drains = s.drains := rfl
@[simp] theorem State.setReq_colls (s : State) (k : Nat) (r : Req) : (s.setReq k r).colls = s.colls := rfl
@[simp] theorem State.setReq_pwaits (s : State) (k : Nat) (r : Req) : (s.setReq k r).pwaits = s.pwaits := rfl
@[simp] theorem State.setReq_pigeon (s : State) (k : Nat) (r : Req) : (s.setReq k r).pigeon = s.pigeon := rfl
@[simp] theorem State.setReq_pigeonHeld (s : State) (k : Nat) (r : Req) : (s.setReq k r).pigeonHeld = s.pigeonHeld := rfl
@[simp] theorem State.setReq_sccGrid (s : State) (k : Nat) (r : Req) : (s.setReq k r).sccGrid = s.sccGrid := rfl
@[simp] theorem State.setReq_sccHalted (s : State) (k : Nat) (r : Req) : (s.setReq k r).sccHalted = s.sccHalted := rfl
@[simp] theorem State.setReq_sccSaved (s : State) (k : Nat) (r : Req) : (s.setReq k r).sccSaved = s.sccSaved := rfl
@[simp] theorem State.setReq_tlbs (s : State) (k : Nat) (r : Req) : (s.setReq k r).tlbs = s.tlbs := rfl
@[simp] theorem State.setReq_wcache (s : State) (k : Nat) (r : Req) : (s.setReq k r).wcache = s.wcache := rfl
@[simp] theorem State.setReq_saved (s : State) (k : Nat) (r : Req) : (s.setReq k r).saved = s.saved := rfl
@[simp] theorem State.setReq_queues (s : State) (k : Nat) (r : Req) : (s.setReq k r).queues = s.queues := rfl
@[simp] theorem State.setReq_turns (s : State) (k : Nat) (r : Req) : (s.setReq k r).turns = s.turns := rfl
@[simp] theorem State.setReq_ctxs (s : State) (k : Nat) (r : Req) : (s.setReq k r).ctxs = s.ctxs := rfl
@[simp] theorem State.setReq_fw (s : State) (k : Nat) (r : Req) : (s.setReq k r).fw = s.fw := rfl

@[simp] theorem State.delReq_cur (s : State) (k : Nat) : (s.delReq k).cur = s.cur := rfl
@[simp] theorem State.delReq_inputs (s : State) (k : Nat) : (s.delReq k).inputs = s.inputs := rfl
@[simp] theorem State.delReq_plan (s : State) (k : Nat) : (s.delReq k).plan = s.plan := rfl
@[simp] theorem State.delReq_choice (s : State) (k : Nat) : (s.delReq k).choice = s.choice := rfl
@[simp] theorem State.delReq_free (s : State) (k : Nat) : (s.delReq k).free = s.free := rfl
@[simp] theorem State.delReq_nextId (s : State) (k : Nat) : (s.delReq k).nextId = s.nextId := rfl
@[simp] theorem State.delReq_tick (s : State) (k : Nat) : (s.delReq k).tick = s.tick := rfl
@[simp] theorem State.delReq_warps (s : State) (k : Nat) : (s.delReq k).warps = s.warps := rfl
@[simp] theorem State.delReq_blocks (s : State) (k : Nat) : (s.delReq k).blocks = s.blocks := rfl
@[simp] theorem State.delReq_groups (s : State) (k : Nat) : (s.delReq k).groups = s.groups := rfl
@[simp] theorem State.delReq_grids (s : State) (k : Nat) : (s.delReq k).grids = s.grids := rfl
@[simp] theorem State.delReq_cores (s : State) (k : Nat) : (s.delReq k).cores = s.cores := rfl
@[simp] theorem State.delReq_mem (s : State) (k : Nat) : (s.delReq k).mem = s.mem := rfl
@[simp] theorem State.delReq_arr (s : State) (k : Nat) : (s.delReq k).arr = s.arr := rfl
@[simp] theorem State.delReq_relAt (s : State) (k : Nat) : (s.delReq k).relAt = s.relAt := rfl
@[simp] theorem State.delReq_llc (s : State) (k : Nat) : (s.delReq k).llc = s.llc := rfl
@[simp] theorem State.delReq_reqs (s : State) (k : Nat) : (s.delReq k).reqs = Map.del s.reqs k := rfl
@[simp] theorem State.delReq_scopeWrites (s : State) (k : Nat) : (s.delReq k).scopeWrites = s.scopeWrites := rfl
@[simp] theorem State.delReq_copies (s : State) (k : Nat) : (s.delReq k).copies = s.copies := rfl
@[simp] theorem State.delReq_drains (s : State) (k : Nat) : (s.delReq k).drains = s.drains := rfl
@[simp] theorem State.delReq_colls (s : State) (k : Nat) : (s.delReq k).colls = s.colls := rfl
@[simp] theorem State.delReq_pwaits (s : State) (k : Nat) : (s.delReq k).pwaits = s.pwaits := rfl
@[simp] theorem State.delReq_pigeon (s : State) (k : Nat) : (s.delReq k).pigeon = s.pigeon := rfl
@[simp] theorem State.delReq_pigeonHeld (s : State) (k : Nat) : (s.delReq k).pigeonHeld = s.pigeonHeld := rfl
@[simp] theorem State.delReq_sccGrid (s : State) (k : Nat) : (s.delReq k).sccGrid = s.sccGrid := rfl
@[simp] theorem State.delReq_sccHalted (s : State) (k : Nat) : (s.delReq k).sccHalted = s.sccHalted := rfl
@[simp] theorem State.delReq_sccSaved (s : State) (k : Nat) : (s.delReq k).sccSaved = s.sccSaved := rfl
@[simp] theorem State.delReq_tlbs (s : State) (k : Nat) : (s.delReq k).tlbs = s.tlbs := rfl
@[simp] theorem State.delReq_wcache (s : State) (k : Nat) : (s.delReq k).wcache = s.wcache := rfl
@[simp] theorem State.delReq_saved (s : State) (k : Nat) : (s.delReq k).saved = s.saved := rfl
@[simp] theorem State.delReq_queues (s : State) (k : Nat) : (s.delReq k).queues = s.queues := rfl
@[simp] theorem State.delReq_turns (s : State) (k : Nat) : (s.delReq k).turns = s.turns := rfl
@[simp] theorem State.delReq_ctxs (s : State) (k : Nat) : (s.delReq k).ctxs = s.ctxs := rfl
@[simp] theorem State.delReq_fw (s : State) (k : Nat) : (s.delReq k).fw = s.fw := rfl

@[simp] theorem State.setCopy_cur (s : State) (k : Nat) (c : Copy) : (s.setCopy k c).cur = s.cur := rfl
@[simp] theorem State.setCopy_inputs (s : State) (k : Nat) (c : Copy) : (s.setCopy k c).inputs = s.inputs := rfl
@[simp] theorem State.setCopy_plan (s : State) (k : Nat) (c : Copy) : (s.setCopy k c).plan = s.plan := rfl
@[simp] theorem State.setCopy_choice (s : State) (k : Nat) (c : Copy) : (s.setCopy k c).choice = s.choice := rfl
@[simp] theorem State.setCopy_free (s : State) (k : Nat) (c : Copy) : (s.setCopy k c).free = s.free := rfl
@[simp] theorem State.setCopy_nextId (s : State) (k : Nat) (c : Copy) : (s.setCopy k c).nextId = s.nextId := rfl
@[simp] theorem State.setCopy_tick (s : State) (k : Nat) (c : Copy) : (s.setCopy k c).tick = s.tick := rfl
@[simp] theorem State.setCopy_warps (s : State) (k : Nat) (c : Copy) : (s.setCopy k c).warps = s.warps := rfl
@[simp] theorem State.setCopy_blocks (s : State) (k : Nat) (c : Copy) : (s.setCopy k c).blocks = s.blocks := rfl
@[simp] theorem State.setCopy_groups (s : State) (k : Nat) (c : Copy) : (s.setCopy k c).groups = s.groups := rfl
@[simp] theorem State.setCopy_grids (s : State) (k : Nat) (c : Copy) : (s.setCopy k c).grids = s.grids := rfl
@[simp] theorem State.setCopy_cores (s : State) (k : Nat) (c : Copy) : (s.setCopy k c).cores = s.cores := rfl
@[simp] theorem State.setCopy_mem (s : State) (k : Nat) (c : Copy) : (s.setCopy k c).mem = s.mem := rfl
@[simp] theorem State.setCopy_arr (s : State) (k : Nat) (c : Copy) : (s.setCopy k c).arr = s.arr := rfl
@[simp] theorem State.setCopy_relAt (s : State) (k : Nat) (c : Copy) : (s.setCopy k c).relAt = s.relAt := rfl
@[simp] theorem State.setCopy_llc (s : State) (k : Nat) (c : Copy) : (s.setCopy k c).llc = s.llc := rfl
@[simp] theorem State.setCopy_reqs (s : State) (k : Nat) (c : Copy) : (s.setCopy k c).reqs = s.reqs := rfl
@[simp] theorem State.setCopy_scopeWrites (s : State) (k : Nat) (c : Copy) : (s.setCopy k c).scopeWrites = s.scopeWrites := rfl
@[simp] theorem State.setCopy_copies (s : State) (k : Nat) (c : Copy) : (s.setCopy k c).copies = Map.put s.copies k c := rfl
@[simp] theorem State.setCopy_drains (s : State) (k : Nat) (c : Copy) : (s.setCopy k c).drains = s.drains := rfl
@[simp] theorem State.setCopy_colls (s : State) (k : Nat) (c : Copy) : (s.setCopy k c).colls = s.colls := rfl
@[simp] theorem State.setCopy_pwaits (s : State) (k : Nat) (c : Copy) : (s.setCopy k c).pwaits = s.pwaits := rfl
@[simp] theorem State.setCopy_pigeon (s : State) (k : Nat) (c : Copy) : (s.setCopy k c).pigeon = s.pigeon := rfl
@[simp] theorem State.setCopy_pigeonHeld (s : State) (k : Nat) (c : Copy) : (s.setCopy k c).pigeonHeld = s.pigeonHeld := rfl
@[simp] theorem State.setCopy_sccGrid (s : State) (k : Nat) (c : Copy) : (s.setCopy k c).sccGrid = s.sccGrid := rfl
@[simp] theorem State.setCopy_sccHalted (s : State) (k : Nat) (c : Copy) : (s.setCopy k c).sccHalted = s.sccHalted := rfl
@[simp] theorem State.setCopy_sccSaved (s : State) (k : Nat) (c : Copy) : (s.setCopy k c).sccSaved = s.sccSaved := rfl
@[simp] theorem State.setCopy_tlbs (s : State) (k : Nat) (c : Copy) : (s.setCopy k c).tlbs = s.tlbs := rfl
@[simp] theorem State.setCopy_wcache (s : State) (k : Nat) (c : Copy) : (s.setCopy k c).wcache = s.wcache := rfl
@[simp] theorem State.setCopy_saved (s : State) (k : Nat) (c : Copy) : (s.setCopy k c).saved = s.saved := rfl
@[simp] theorem State.setCopy_queues (s : State) (k : Nat) (c : Copy) : (s.setCopy k c).queues = s.queues := rfl
@[simp] theorem State.setCopy_turns (s : State) (k : Nat) (c : Copy) : (s.setCopy k c).turns = s.turns := rfl
@[simp] theorem State.setCopy_ctxs (s : State) (k : Nat) (c : Copy) : (s.setCopy k c).ctxs = s.ctxs := rfl
@[simp] theorem State.setCopy_fw (s : State) (k : Nat) (c : Copy) : (s.setCopy k c).fw = s.fw := rfl

@[simp] theorem State.setDrain_cur (s : State) (k : Nat) (d : MCmd) : (s.setDrain k d).cur = s.cur := rfl
@[simp] theorem State.setDrain_inputs (s : State) (k : Nat) (d : MCmd) : (s.setDrain k d).inputs = s.inputs := rfl
@[simp] theorem State.setDrain_plan (s : State) (k : Nat) (d : MCmd) : (s.setDrain k d).plan = s.plan := rfl
@[simp] theorem State.setDrain_choice (s : State) (k : Nat) (d : MCmd) : (s.setDrain k d).choice = s.choice := rfl
@[simp] theorem State.setDrain_free (s : State) (k : Nat) (d : MCmd) : (s.setDrain k d).free = s.free := rfl
@[simp] theorem State.setDrain_nextId (s : State) (k : Nat) (d : MCmd) : (s.setDrain k d).nextId = s.nextId := rfl
@[simp] theorem State.setDrain_tick (s : State) (k : Nat) (d : MCmd) : (s.setDrain k d).tick = s.tick := rfl
@[simp] theorem State.setDrain_warps (s : State) (k : Nat) (d : MCmd) : (s.setDrain k d).warps = s.warps := rfl
@[simp] theorem State.setDrain_blocks (s : State) (k : Nat) (d : MCmd) : (s.setDrain k d).blocks = s.blocks := rfl
@[simp] theorem State.setDrain_groups (s : State) (k : Nat) (d : MCmd) : (s.setDrain k d).groups = s.groups := rfl
@[simp] theorem State.setDrain_grids (s : State) (k : Nat) (d : MCmd) : (s.setDrain k d).grids = s.grids := rfl
@[simp] theorem State.setDrain_cores (s : State) (k : Nat) (d : MCmd) : (s.setDrain k d).cores = s.cores := rfl
@[simp] theorem State.setDrain_mem (s : State) (k : Nat) (d : MCmd) : (s.setDrain k d).mem = s.mem := rfl
@[simp] theorem State.setDrain_arr (s : State) (k : Nat) (d : MCmd) : (s.setDrain k d).arr = s.arr := rfl
@[simp] theorem State.setDrain_relAt (s : State) (k : Nat) (d : MCmd) : (s.setDrain k d).relAt = s.relAt := rfl
@[simp] theorem State.setDrain_llc (s : State) (k : Nat) (d : MCmd) : (s.setDrain k d).llc = s.llc := rfl
@[simp] theorem State.setDrain_reqs (s : State) (k : Nat) (d : MCmd) : (s.setDrain k d).reqs = s.reqs := rfl
@[simp] theorem State.setDrain_scopeWrites (s : State) (k : Nat) (d : MCmd) : (s.setDrain k d).scopeWrites = s.scopeWrites := rfl
@[simp] theorem State.setDrain_copies (s : State) (k : Nat) (d : MCmd) : (s.setDrain k d).copies = s.copies := rfl
@[simp] theorem State.setDrain_drains (s : State) (k : Nat) (d : MCmd) : (s.setDrain k d).drains = Map.put s.drains k d := rfl
@[simp] theorem State.setDrain_colls (s : State) (k : Nat) (d : MCmd) : (s.setDrain k d).colls = s.colls := rfl
@[simp] theorem State.setDrain_pwaits (s : State) (k : Nat) (d : MCmd) : (s.setDrain k d).pwaits = s.pwaits := rfl
@[simp] theorem State.setDrain_pigeon (s : State) (k : Nat) (d : MCmd) : (s.setDrain k d).pigeon = s.pigeon := rfl
@[simp] theorem State.setDrain_pigeonHeld (s : State) (k : Nat) (d : MCmd) : (s.setDrain k d).pigeonHeld = s.pigeonHeld := rfl
@[simp] theorem State.setDrain_sccGrid (s : State) (k : Nat) (d : MCmd) : (s.setDrain k d).sccGrid = s.sccGrid := rfl
@[simp] theorem State.setDrain_sccHalted (s : State) (k : Nat) (d : MCmd) : (s.setDrain k d).sccHalted = s.sccHalted := rfl
@[simp] theorem State.setDrain_sccSaved (s : State) (k : Nat) (d : MCmd) : (s.setDrain k d).sccSaved = s.sccSaved := rfl
@[simp] theorem State.setDrain_tlbs (s : State) (k : Nat) (d : MCmd) : (s.setDrain k d).tlbs = s.tlbs := rfl
@[simp] theorem State.setDrain_wcache (s : State) (k : Nat) (d : MCmd) : (s.setDrain k d).wcache = s.wcache := rfl
@[simp] theorem State.setDrain_saved (s : State) (k : Nat) (d : MCmd) : (s.setDrain k d).saved = s.saved := rfl
@[simp] theorem State.setDrain_queues (s : State) (k : Nat) (d : MCmd) : (s.setDrain k d).queues = s.queues := rfl
@[simp] theorem State.setDrain_turns (s : State) (k : Nat) (d : MCmd) : (s.setDrain k d).turns = s.turns := rfl
@[simp] theorem State.setDrain_ctxs (s : State) (k : Nat) (d : MCmd) : (s.setDrain k d).ctxs = s.ctxs := rfl
@[simp] theorem State.setDrain_fw (s : State) (k : Nat) (d : MCmd) : (s.setDrain k d).fw = s.fw := rfl

@[simp] theorem State.setColl_cur (s : State) (k : Nat) (c : Coll) : (s.setColl k c).cur = s.cur := rfl
@[simp] theorem State.setColl_inputs (s : State) (k : Nat) (c : Coll) : (s.setColl k c).inputs = s.inputs := rfl
@[simp] theorem State.setColl_plan (s : State) (k : Nat) (c : Coll) : (s.setColl k c).plan = s.plan := rfl
@[simp] theorem State.setColl_choice (s : State) (k : Nat) (c : Coll) : (s.setColl k c).choice = s.choice := rfl
@[simp] theorem State.setColl_free (s : State) (k : Nat) (c : Coll) : (s.setColl k c).free = s.free := rfl
@[simp] theorem State.setColl_nextId (s : State) (k : Nat) (c : Coll) : (s.setColl k c).nextId = s.nextId := rfl
@[simp] theorem State.setColl_tick (s : State) (k : Nat) (c : Coll) : (s.setColl k c).tick = s.tick := rfl
@[simp] theorem State.setColl_warps (s : State) (k : Nat) (c : Coll) : (s.setColl k c).warps = s.warps := rfl
@[simp] theorem State.setColl_blocks (s : State) (k : Nat) (c : Coll) : (s.setColl k c).blocks = s.blocks := rfl
@[simp] theorem State.setColl_groups (s : State) (k : Nat) (c : Coll) : (s.setColl k c).groups = s.groups := rfl
@[simp] theorem State.setColl_grids (s : State) (k : Nat) (c : Coll) : (s.setColl k c).grids = s.grids := rfl
@[simp] theorem State.setColl_cores (s : State) (k : Nat) (c : Coll) : (s.setColl k c).cores = s.cores := rfl
@[simp] theorem State.setColl_mem (s : State) (k : Nat) (c : Coll) : (s.setColl k c).mem = s.mem := rfl
@[simp] theorem State.setColl_arr (s : State) (k : Nat) (c : Coll) : (s.setColl k c).arr = s.arr := rfl
@[simp] theorem State.setColl_relAt (s : State) (k : Nat) (c : Coll) : (s.setColl k c).relAt = s.relAt := rfl
@[simp] theorem State.setColl_llc (s : State) (k : Nat) (c : Coll) : (s.setColl k c).llc = s.llc := rfl
@[simp] theorem State.setColl_reqs (s : State) (k : Nat) (c : Coll) : (s.setColl k c).reqs = s.reqs := rfl
@[simp] theorem State.setColl_scopeWrites (s : State) (k : Nat) (c : Coll) : (s.setColl k c).scopeWrites = s.scopeWrites := rfl
@[simp] theorem State.setColl_copies (s : State) (k : Nat) (c : Coll) : (s.setColl k c).copies = s.copies := rfl
@[simp] theorem State.setColl_drains (s : State) (k : Nat) (c : Coll) : (s.setColl k c).drains = s.drains := rfl
@[simp] theorem State.setColl_colls (s : State) (k : Nat) (c : Coll) : (s.setColl k c).colls = Map.put s.colls k c := rfl
@[simp] theorem State.setColl_pwaits (s : State) (k : Nat) (c : Coll) : (s.setColl k c).pwaits = s.pwaits := rfl
@[simp] theorem State.setColl_pigeon (s : State) (k : Nat) (c : Coll) : (s.setColl k c).pigeon = s.pigeon := rfl
@[simp] theorem State.setColl_pigeonHeld (s : State) (k : Nat) (c : Coll) : (s.setColl k c).pigeonHeld = s.pigeonHeld := rfl
@[simp] theorem State.setColl_sccGrid (s : State) (k : Nat) (c : Coll) : (s.setColl k c).sccGrid = s.sccGrid := rfl
@[simp] theorem State.setColl_sccHalted (s : State) (k : Nat) (c : Coll) : (s.setColl k c).sccHalted = s.sccHalted := rfl
@[simp] theorem State.setColl_sccSaved (s : State) (k : Nat) (c : Coll) : (s.setColl k c).sccSaved = s.sccSaved := rfl
@[simp] theorem State.setColl_tlbs (s : State) (k : Nat) (c : Coll) : (s.setColl k c).tlbs = s.tlbs := rfl
@[simp] theorem State.setColl_wcache (s : State) (k : Nat) (c : Coll) : (s.setColl k c).wcache = s.wcache := rfl
@[simp] theorem State.setColl_saved (s : State) (k : Nat) (c : Coll) : (s.setColl k c).saved = s.saved := rfl
@[simp] theorem State.setColl_queues (s : State) (k : Nat) (c : Coll) : (s.setColl k c).queues = s.queues := rfl
@[simp] theorem State.setColl_turns (s : State) (k : Nat) (c : Coll) : (s.setColl k c).turns = s.turns := rfl
@[simp] theorem State.setColl_ctxs (s : State) (k : Nat) (c : Coll) : (s.setColl k c).ctxs = s.ctxs := rfl
@[simp] theorem State.setColl_fw (s : State) (k : Nat) (c : Coll) : (s.setColl k c).fw = s.fw := rfl

@[simp] theorem State.updQueue_cur (s : State) (q : Nat) (f : Queue → Queue) : (s.updQueue q f).cur = s.cur := rfl
@[simp] theorem State.updQueue_inputs (s : State) (q : Nat) (f : Queue → Queue) : (s.updQueue q f).inputs = s.inputs := rfl
@[simp] theorem State.updQueue_plan (s : State) (q : Nat) (f : Queue → Queue) : (s.updQueue q f).plan = s.plan := rfl
@[simp] theorem State.updQueue_choice (s : State) (q : Nat) (f : Queue → Queue) : (s.updQueue q f).choice = s.choice := rfl
@[simp] theorem State.updQueue_free (s : State) (q : Nat) (f : Queue → Queue) : (s.updQueue q f).free = s.free := rfl
@[simp] theorem State.updQueue_nextId (s : State) (q : Nat) (f : Queue → Queue) : (s.updQueue q f).nextId = s.nextId := rfl
@[simp] theorem State.updQueue_tick (s : State) (q : Nat) (f : Queue → Queue) : (s.updQueue q f).tick = s.tick := rfl
@[simp] theorem State.updQueue_warps (s : State) (q : Nat) (f : Queue → Queue) : (s.updQueue q f).warps = s.warps := rfl
@[simp] theorem State.updQueue_blocks (s : State) (q : Nat) (f : Queue → Queue) : (s.updQueue q f).blocks = s.blocks := rfl
@[simp] theorem State.updQueue_groups (s : State) (q : Nat) (f : Queue → Queue) : (s.updQueue q f).groups = s.groups := rfl
@[simp] theorem State.updQueue_grids (s : State) (q : Nat) (f : Queue → Queue) : (s.updQueue q f).grids = s.grids := rfl
@[simp] theorem State.updQueue_cores (s : State) (q : Nat) (f : Queue → Queue) : (s.updQueue q f).cores = s.cores := rfl
@[simp] theorem State.updQueue_mem (s : State) (q : Nat) (f : Queue → Queue) : (s.updQueue q f).mem = s.mem := rfl
@[simp] theorem State.updQueue_arr (s : State) (q : Nat) (f : Queue → Queue) : (s.updQueue q f).arr = s.arr := rfl
@[simp] theorem State.updQueue_relAt (s : State) (q : Nat) (f : Queue → Queue) : (s.updQueue q f).relAt = s.relAt := rfl
@[simp] theorem State.updQueue_llc (s : State) (q : Nat) (f : Queue → Queue) : (s.updQueue q f).llc = s.llc := rfl
@[simp] theorem State.updQueue_reqs (s : State) (q : Nat) (f : Queue → Queue) : (s.updQueue q f).reqs = s.reqs := rfl
@[simp] theorem State.updQueue_scopeWrites (s : State) (q : Nat) (f : Queue → Queue) : (s.updQueue q f).scopeWrites = s.scopeWrites := rfl
@[simp] theorem State.updQueue_copies (s : State) (q : Nat) (f : Queue → Queue) : (s.updQueue q f).copies = s.copies := rfl
@[simp] theorem State.updQueue_drains (s : State) (q : Nat) (f : Queue → Queue) : (s.updQueue q f).drains = s.drains := rfl
@[simp] theorem State.updQueue_colls (s : State) (q : Nat) (f : Queue → Queue) : (s.updQueue q f).colls = s.colls := rfl
@[simp] theorem State.updQueue_pwaits (s : State) (q : Nat) (f : Queue → Queue) : (s.updQueue q f).pwaits = s.pwaits := rfl
@[simp] theorem State.updQueue_pigeon (s : State) (q : Nat) (f : Queue → Queue) : (s.updQueue q f).pigeon = s.pigeon := rfl
@[simp] theorem State.updQueue_pigeonHeld (s : State) (q : Nat) (f : Queue → Queue) : (s.updQueue q f).pigeonHeld = s.pigeonHeld := rfl
@[simp] theorem State.updQueue_sccGrid (s : State) (q : Nat) (f : Queue → Queue) : (s.updQueue q f).sccGrid = s.sccGrid := rfl
@[simp] theorem State.updQueue_sccHalted (s : State) (q : Nat) (f : Queue → Queue) : (s.updQueue q f).sccHalted = s.sccHalted := rfl
@[simp] theorem State.updQueue_sccSaved (s : State) (q : Nat) (f : Queue → Queue) : (s.updQueue q f).sccSaved = s.sccSaved := rfl
@[simp] theorem State.updQueue_tlbs (s : State) (q : Nat) (f : Queue → Queue) : (s.updQueue q f).tlbs = s.tlbs := rfl
@[simp] theorem State.updQueue_wcache (s : State) (q : Nat) (f : Queue → Queue) : (s.updQueue q f).wcache = s.wcache := rfl
@[simp] theorem State.updQueue_saved (s : State) (q : Nat) (f : Queue → Queue) : (s.updQueue q f).saved = s.saved := rfl
@[simp] theorem State.updQueue_queues (s : State) (q : Nat) (f : Queue → Queue) : (s.updQueue q f).queues = Map.upd s.queues q f := rfl
@[simp] theorem State.updQueue_turns (s : State) (q : Nat) (f : Queue → Queue) : (s.updQueue q f).turns = s.turns := rfl
@[simp] theorem State.updQueue_ctxs (s : State) (q : Nat) (f : Queue → Queue) : (s.updQueue q f).ctxs = s.ctxs := rfl
@[simp] theorem State.updQueue_fw (s : State) (q : Nat) (f : Queue → Queue) : (s.updQueue q f).fw = s.fw := rfl

@[simp] theorem State.setHost_cur (s : State) (cs : Map Byte) : (s.setHost cs).cur = s.cur := rfl
@[simp] theorem State.setHost_inputs (s : State) (cs : Map Byte) : (s.setHost cs).inputs = s.inputs := rfl
@[simp] theorem State.setHost_plan (s : State) (cs : Map Byte) : (s.setHost cs).plan = s.plan := rfl
@[simp] theorem State.setHost_choice (s : State) (cs : Map Byte) : (s.setHost cs).choice = s.choice := rfl
@[simp] theorem State.setHost_free (s : State) (cs : Map Byte) : (s.setHost cs).free = s.free := rfl
@[simp] theorem State.setHost_nextId (s : State) (cs : Map Byte) : (s.setHost cs).nextId = s.nextId := rfl
@[simp] theorem State.setHost_tick (s : State) (cs : Map Byte) : (s.setHost cs).tick = s.tick := rfl
@[simp] theorem State.setHost_warps (s : State) (cs : Map Byte) : (s.setHost cs).warps = s.warps := rfl
@[simp] theorem State.setHost_blocks (s : State) (cs : Map Byte) : (s.setHost cs).blocks = s.blocks := rfl
@[simp] theorem State.setHost_groups (s : State) (cs : Map Byte) : (s.setHost cs).groups = s.groups := rfl
@[simp] theorem State.setHost_grids (s : State) (cs : Map Byte) : (s.setHost cs).grids = s.grids := rfl
@[simp] theorem State.setHost_cores (s : State) (cs : Map Byte) : (s.setHost cs).cores = s.cores := rfl
@[simp] theorem State.setHost_mem (s : State) (cs : Map Byte) : (s.setHost cs).mem = s.mem := rfl
@[simp] theorem State.setHost_arr (s : State) (cs : Map Byte) :
    (s.setHost cs).arr = cs.foldl (fun m c => Map.setD m c.1 c.2 unwritten) s.arr := rfl
@[simp] theorem State.setHost_relAt (s : State) (cs : Map Byte) : (s.setHost cs).relAt = s.relAt := rfl
@[simp] theorem State.setHost_llc (s : State) (cs : Map Byte) : (s.setHost cs).llc = s.llc := rfl
@[simp] theorem State.setHost_reqs (s : State) (cs : Map Byte) : (s.setHost cs).reqs = s.reqs := rfl
@[simp] theorem State.setHost_scopeWrites (s : State) (cs : Map Byte) : (s.setHost cs).scopeWrites = s.scopeWrites := rfl
@[simp] theorem State.setHost_copies (s : State) (cs : Map Byte) : (s.setHost cs).copies = s.copies := rfl
@[simp] theorem State.setHost_drains (s : State) (cs : Map Byte) : (s.setHost cs).drains = s.drains := rfl
@[simp] theorem State.setHost_colls (s : State) (cs : Map Byte) : (s.setHost cs).colls = s.colls := rfl
@[simp] theorem State.setHost_pwaits (s : State) (cs : Map Byte) : (s.setHost cs).pwaits = s.pwaits := rfl
@[simp] theorem State.setHost_pigeon (s : State) (cs : Map Byte) : (s.setHost cs).pigeon = s.pigeon := rfl
@[simp] theorem State.setHost_pigeonHeld (s : State) (cs : Map Byte) : (s.setHost cs).pigeonHeld = s.pigeonHeld := rfl
@[simp] theorem State.setHost_sccGrid (s : State) (cs : Map Byte) : (s.setHost cs).sccGrid = s.sccGrid := rfl
@[simp] theorem State.setHost_sccHalted (s : State) (cs : Map Byte) : (s.setHost cs).sccHalted = s.sccHalted := rfl
@[simp] theorem State.setHost_sccSaved (s : State) (cs : Map Byte) : (s.setHost cs).sccSaved = s.sccSaved := rfl
@[simp] theorem State.setHost_tlbs (s : State) (cs : Map Byte) : (s.setHost cs).tlbs = s.tlbs := rfl
@[simp] theorem State.setHost_wcache (s : State) (cs : Map Byte) : (s.setHost cs).wcache = s.wcache := rfl
@[simp] theorem State.setHost_saved (s : State) (cs : Map Byte) : (s.setHost cs).saved = s.saved := rfl
@[simp] theorem State.setHost_queues (s : State) (cs : Map Byte) : (s.setHost cs).queues = s.queues := rfl
@[simp] theorem State.setHost_turns (s : State) (cs : Map Byte) : (s.setHost cs).turns = s.turns := rfl
@[simp] theorem State.setHost_ctxs (s : State) (cs : Map Byte) : (s.setHost cs).ctxs = s.ctxs := rfl
@[simp] theorem State.setHost_fw (s : State) (cs : Map Byte) : (s.setHost cs).fw = s.fw := rfl

@[simp] theorem State.useFree_cur (s : State) : (s.useFree).cur = s.cur := rfl
@[simp] theorem State.useFree_inputs (s : State) : (s.useFree).inputs = s.inputs := rfl
@[simp] theorem State.useFree_plan (s : State) : (s.useFree).plan = s.plan := rfl
@[simp] theorem State.useFree_choice (s : State) : (s.useFree).choice = s.choice := rfl
@[simp] theorem State.useFree_free (s : State) : (s.useFree).free = s.free + 1 := rfl
@[simp] theorem State.useFree_nextId (s : State) : (s.useFree).nextId = s.nextId := rfl
@[simp] theorem State.useFree_tick (s : State) : (s.useFree).tick = s.tick := rfl
@[simp] theorem State.useFree_warps (s : State) : (s.useFree).warps = s.warps := rfl
@[simp] theorem State.useFree_blocks (s : State) : (s.useFree).blocks = s.blocks := rfl
@[simp] theorem State.useFree_groups (s : State) : (s.useFree).groups = s.groups := rfl
@[simp] theorem State.useFree_grids (s : State) : (s.useFree).grids = s.grids := rfl
@[simp] theorem State.useFree_cores (s : State) : (s.useFree).cores = s.cores := rfl
@[simp] theorem State.useFree_mem (s : State) : (s.useFree).mem = s.mem := rfl
@[simp] theorem State.useFree_arr (s : State) : (s.useFree).arr = s.arr := rfl
@[simp] theorem State.useFree_relAt (s : State) : (s.useFree).relAt = s.relAt := rfl
@[simp] theorem State.useFree_llc (s : State) : (s.useFree).llc = s.llc := rfl
@[simp] theorem State.useFree_reqs (s : State) : (s.useFree).reqs = s.reqs := rfl
@[simp] theorem State.useFree_scopeWrites (s : State) : (s.useFree).scopeWrites = s.scopeWrites := rfl
@[simp] theorem State.useFree_copies (s : State) : (s.useFree).copies = s.copies := rfl
@[simp] theorem State.useFree_drains (s : State) : (s.useFree).drains = s.drains := rfl
@[simp] theorem State.useFree_colls (s : State) : (s.useFree).colls = s.colls := rfl
@[simp] theorem State.useFree_pwaits (s : State) : (s.useFree).pwaits = s.pwaits := rfl
@[simp] theorem State.useFree_pigeon (s : State) : (s.useFree).pigeon = s.pigeon := rfl
@[simp] theorem State.useFree_pigeonHeld (s : State) : (s.useFree).pigeonHeld = s.pigeonHeld := rfl
@[simp] theorem State.useFree_sccGrid (s : State) : (s.useFree).sccGrid = s.sccGrid := rfl
@[simp] theorem State.useFree_sccHalted (s : State) : (s.useFree).sccHalted = s.sccHalted := rfl
@[simp] theorem State.useFree_sccSaved (s : State) : (s.useFree).sccSaved = s.sccSaved := rfl
@[simp] theorem State.useFree_tlbs (s : State) : (s.useFree).tlbs = s.tlbs := rfl
@[simp] theorem State.useFree_wcache (s : State) : (s.useFree).wcache = s.wcache := rfl
@[simp] theorem State.useFree_saved (s : State) : (s.useFree).saved = s.saved := rfl
@[simp] theorem State.useFree_queues (s : State) : (s.useFree).queues = s.queues := rfl
@[simp] theorem State.useFree_turns (s : State) : (s.useFree).turns = s.turns := rfl
@[simp] theorem State.useFree_ctxs (s : State) : (s.useFree).ctxs = s.ctxs := rfl
@[simp] theorem State.useFree_fw (s : State) : (s.useFree).fw = s.fw := rfl

@[simp] theorem Lane.put_x (k : Lane) (r : Nat) (v : Word) : (k.put r v).x = Map.setD k.x r ⟨v, .full⟩ .zero := rfl
@[simp] theorem Lane.put_p (k : Lane) (r : Nat) (v : Word) : (k.put r v).p = k.p := rfl
@[simp] theorem Lane.put_pc (k : Lane) (r : Nat) (v : Word) : (k.put r v).pc = k.pc := rfl
@[simp] theorem Lane.put_past (k : Lane) (r : Nat) (v : Word) : (k.put r v).past = k.past := rfl
@[simp] theorem Lane.put_prio (k : Lane) (r : Nat) (v : Word) : (k.put r v).prio = k.prio := rfl
@[simp] theorem Lane.put_lprio (k : Lane) (r : Nat) (v : Word) : (k.put r v).lprio = k.lprio := rfl
@[simp] theorem Lane.put_fpctl (k : Lane) (r : Nat) (v : Word) : (k.put r v).fpctl = k.fpctl := rfl
@[simp] theorem Lane.put_resumePc (k : Lane) (r : Nat) (v : Word) : (k.put r v).resumePc = k.resumePc := rfl
@[simp] theorem Lane.put_resumePrio (k : Lane) (r : Nat) (v : Word) : (k.put r v).resumePrio = k.resumePrio := rfl
@[simp] theorem Lane.put_resumePast (k : Lane) (r : Nat) (v : Word) : (k.put r v).resumePast = k.resumePast := rfl
@[simp] theorem Lane.put_tcause (k : Lane) (r : Nat) (v : Word) : (k.put r v).tcause = k.tcause := rfl
@[simp] theorem Lane.put_taddr (k : Lane) (r : Nat) (v : Word) : (k.put r v).taddr = k.taddr := rfl
@[simp] theorem Lane.put_tlanes (k : Lane) (r : Nat) (v : Word) : (k.put r v).tlanes = k.tlanes := rfl
@[simp] theorem Lane.put_tpc (k : Lane) (r : Nat) (v : Word) : (k.put r v).tpc = k.tpc := rfl
@[simp] theorem Lane.put_tinfo (k : Lane) (r : Nat) (v : Word) : (k.put r v).tinfo = k.tinfo := rfl
@[simp] theorem Lane.put_helper (k : Lane) (r : Nat) (v : Word) : (k.put r v).helper = k.helper := rfl
@[simp] theorem Lane.put_place (k : Lane) (r : Nat) (v : Word) : (k.put r v).place = k.place := rfl
@[simp] theorem Lane.put_task (k : Lane) (r : Nat) (v : Word) : (k.put r v).task = k.task := rfl
@[simp] theorem Lane.put_noWatch (k : Lane) (r : Nat) (v : Word) : (k.put r v).noWatch = k.noWatch := rfl
@[simp] theorem Lane.put_frag (k : Lane) (r : Nat) (v : Word) : (k.put r v).frag = k.frag := rfl
@[simp] theorem Lane.put_asked (k : Lane) (r : Nat) (v : Word) : (k.put r v).asked = k.asked := rfl

@[simp] theorem Lane.goto_x (k : Lane) (pc : Word) (prio : BitVec 6) : (k.goto pc prio).x = k.x := rfl
@[simp] theorem Lane.goto_p (k : Lane) (pc : Word) (prio : BitVec 6) : (k.goto pc prio).p = k.p := rfl
@[simp] theorem Lane.goto_pc (k : Lane) (pc : Word) (prio : BitVec 6) : (k.goto pc prio).pc = pc := rfl
@[simp] theorem Lane.goto_past (k : Lane) (pc : Word) (prio : BitVec 6) : (k.goto pc prio).past = false := rfl
@[simp] theorem Lane.goto_prio (k : Lane) (pc : Word) (prio : BitVec 6) : (k.goto pc prio).prio = prio := rfl
@[simp] theorem Lane.goto_lprio (k : Lane) (pc : Word) (prio : BitVec 6) : (k.goto pc prio).lprio = k.lprio := rfl
@[simp] theorem Lane.goto_fpctl (k : Lane) (pc : Word) (prio : BitVec 6) : (k.goto pc prio).fpctl = k.fpctl := rfl
@[simp] theorem Lane.goto_resumePc (k : Lane) (pc : Word) (prio : BitVec 6) : (k.goto pc prio).resumePc = k.resumePc := rfl
@[simp] theorem Lane.goto_resumePrio (k : Lane) (pc : Word) (prio : BitVec 6) : (k.goto pc prio).resumePrio = k.resumePrio := rfl
@[simp] theorem Lane.goto_resumePast (k : Lane) (pc : Word) (prio : BitVec 6) : (k.goto pc prio).resumePast = k.resumePast := rfl
@[simp] theorem Lane.goto_tcause (k : Lane) (pc : Word) (prio : BitVec 6) : (k.goto pc prio).tcause = k.tcause := rfl
@[simp] theorem Lane.goto_taddr (k : Lane) (pc : Word) (prio : BitVec 6) : (k.goto pc prio).taddr = k.taddr := rfl
@[simp] theorem Lane.goto_tlanes (k : Lane) (pc : Word) (prio : BitVec 6) : (k.goto pc prio).tlanes = k.tlanes := rfl
@[simp] theorem Lane.goto_tpc (k : Lane) (pc : Word) (prio : BitVec 6) : (k.goto pc prio).tpc = k.tpc := rfl
@[simp] theorem Lane.goto_tinfo (k : Lane) (pc : Word) (prio : BitVec 6) : (k.goto pc prio).tinfo = k.tinfo := rfl
@[simp] theorem Lane.goto_helper (k : Lane) (pc : Word) (prio : BitVec 6) : (k.goto pc prio).helper = k.helper := rfl
@[simp] theorem Lane.goto_place (k : Lane) (pc : Word) (prio : BitVec 6) : (k.goto pc prio).place = k.place := rfl
@[simp] theorem Lane.goto_task (k : Lane) (pc : Word) (prio : BitVec 6) : (k.goto pc prio).task = k.task := rfl
@[simp] theorem Lane.goto_noWatch (k : Lane) (pc : Word) (prio : BitVec 6) : (k.goto pc prio).noWatch = k.noWatch := rfl
@[simp] theorem Lane.goto_frag (k : Lane) (pc : Word) (prio : BitVec 6) : (k.goto pc prio).frag = if prio == 63 then k.frag else 0 := rfl
@[simp] theorem Lane.goto_asked (k : Lane) (pc : Word) (prio : BitVec 6) : (k.goto pc prio).asked = k.asked := rfl

@[simp] theorem Lane.raise_x (k : Lane) (f : Flags) : (k.raise f).x = k.x := rfl
@[simp] theorem Lane.raise_p (k : Lane) (f : Flags) : (k.raise f).p = k.p := rfl
@[simp] theorem Lane.raise_pc (k : Lane) (f : Flags) : (k.raise f).pc = k.pc := rfl
@[simp] theorem Lane.raise_past (k : Lane) (f : Flags) : (k.raise f).past = k.past := rfl
@[simp] theorem Lane.raise_prio (k : Lane) (f : Flags) : (k.raise f).prio = k.prio := rfl
@[simp] theorem Lane.raise_lprio (k : Lane) (f : Flags) : (k.raise f).lprio = k.lprio := rfl
@[simp] theorem Lane.raise_fpctl (k : Lane) (f : Flags) : (k.raise f).fpctl = k.fpctl ||| (f.setWidth 14 <<< 4) := rfl
@[simp] theorem Lane.raise_resumePc (k : Lane) (f : Flags) : (k.raise f).resumePc = k.resumePc := rfl
@[simp] theorem Lane.raise_resumePrio (k : Lane) (f : Flags) : (k.raise f).resumePrio = k.resumePrio := rfl
@[simp] theorem Lane.raise_resumePast (k : Lane) (f : Flags) : (k.raise f).resumePast = k.resumePast := rfl
@[simp] theorem Lane.raise_tcause (k : Lane) (f : Flags) : (k.raise f).tcause = k.tcause := rfl
@[simp] theorem Lane.raise_taddr (k : Lane) (f : Flags) : (k.raise f).taddr = k.taddr := rfl
@[simp] theorem Lane.raise_tlanes (k : Lane) (f : Flags) : (k.raise f).tlanes = k.tlanes := rfl
@[simp] theorem Lane.raise_tpc (k : Lane) (f : Flags) : (k.raise f).tpc = k.tpc := rfl
@[simp] theorem Lane.raise_tinfo (k : Lane) (f : Flags) : (k.raise f).tinfo = k.tinfo := rfl
@[simp] theorem Lane.raise_helper (k : Lane) (f : Flags) : (k.raise f).helper = k.helper := rfl
@[simp] theorem Lane.raise_place (k : Lane) (f : Flags) : (k.raise f).place = k.place := rfl
@[simp] theorem Lane.raise_task (k : Lane) (f : Flags) : (k.raise f).task = k.task := rfl
@[simp] theorem Lane.raise_noWatch (k : Lane) (f : Flags) : (k.raise f).noWatch = k.noWatch := rfl
@[simp] theorem Lane.raise_frag (k : Lane) (f : Flags) : (k.raise f).frag = k.frag := rfl
@[simp] theorem Lane.raise_asked (k : Lane) (f : Flags) : (k.raise f).asked = k.asked := rfl

@[simp] theorem Lane.advance_x (k : Lane) (n : Nat) : (k.advance n).x = k.x := by rw [Lane.advance]
@[simp] theorem Lane.advance_p (k : Lane) (n : Nat) : (k.advance n).p = k.p := by rw [Lane.advance]
@[simp] theorem Lane.advance_prio (k : Lane) (n : Nat) : (k.advance n).prio = k.prio := by rw [Lane.advance]
@[simp] theorem Lane.advance_lprio (k : Lane) (n : Nat) : (k.advance n).lprio = k.lprio := by rw [Lane.advance]
@[simp] theorem Lane.advance_fpctl (k : Lane) (n : Nat) : (k.advance n).fpctl = k.fpctl := by rw [Lane.advance]
@[simp] theorem Lane.advance_resumePc (k : Lane) (n : Nat) : (k.advance n).resumePc = k.resumePc := by rw [Lane.advance]
@[simp] theorem Lane.advance_resumePrio (k : Lane) (n : Nat) : (k.advance n).resumePrio = k.resumePrio := by rw [Lane.advance]
@[simp] theorem Lane.advance_resumePast (k : Lane) (n : Nat) : (k.advance n).resumePast = k.resumePast := by rw [Lane.advance]
@[simp] theorem Lane.advance_tcause (k : Lane) (n : Nat) : (k.advance n).tcause = k.tcause := by rw [Lane.advance]
@[simp] theorem Lane.advance_taddr (k : Lane) (n : Nat) : (k.advance n).taddr = k.taddr := by rw [Lane.advance]
@[simp] theorem Lane.advance_tlanes (k : Lane) (n : Nat) : (k.advance n).tlanes = k.tlanes := by rw [Lane.advance]
@[simp] theorem Lane.advance_tpc (k : Lane) (n : Nat) : (k.advance n).tpc = k.tpc := by rw [Lane.advance]
@[simp] theorem Lane.advance_tinfo (k : Lane) (n : Nat) : (k.advance n).tinfo = k.tinfo := by rw [Lane.advance]
@[simp] theorem Lane.advance_helper (k : Lane) (n : Nat) : (k.advance n).helper = k.helper := by rw [Lane.advance]
@[simp] theorem Lane.advance_place (k : Lane) (n : Nat) : (k.advance n).place = k.place := by rw [Lane.advance]
@[simp] theorem Lane.advance_task (k : Lane) (n : Nat) : (k.advance n).task = k.task := by rw [Lane.advance]
@[simp] theorem Lane.advance_frag (k : Lane) (n : Nat) : (k.advance n).frag = k.frag := by rw [Lane.advance]
@[simp] theorem Lane.advance_asked (k : Lane) (n : Nat) : (k.advance n).asked = k.asked := by rw [Lane.advance]

@[simp] theorem Lane.putPair_p (k : Lane) (r : Nat) (v : Dword) : (k.putPair r v).p = k.p := by simp [Lane.putPair]
@[simp] theorem Lane.putPair_pc (k : Lane) (r : Nat) (v : Dword) : (k.putPair r v).pc = k.pc := by simp [Lane.putPair]
@[simp] theorem Lane.putPair_past (k : Lane) (r : Nat) (v : Dword) : (k.putPair r v).past = k.past := by simp [Lane.putPair]
@[simp] theorem Lane.putPair_prio (k : Lane) (r : Nat) (v : Dword) : (k.putPair r v).prio = k.prio := by simp [Lane.putPair]
@[simp] theorem Lane.putPair_lprio (k : Lane) (r : Nat) (v : Dword) : (k.putPair r v).lprio = k.lprio := by simp [Lane.putPair]
@[simp] theorem Lane.putPair_fpctl (k : Lane) (r : Nat) (v : Dword) : (k.putPair r v).fpctl = k.fpctl := by simp [Lane.putPair]
@[simp] theorem Lane.putPair_resumePc (k : Lane) (r : Nat) (v : Dword) : (k.putPair r v).resumePc = k.resumePc := by simp [Lane.putPair]
@[simp] theorem Lane.putPair_resumePrio (k : Lane) (r : Nat) (v : Dword) : (k.putPair r v).resumePrio = k.resumePrio := by simp [Lane.putPair]
@[simp] theorem Lane.putPair_resumePast (k : Lane) (r : Nat) (v : Dword) : (k.putPair r v).resumePast = k.resumePast := by simp [Lane.putPair]
@[simp] theorem Lane.putPair_tcause (k : Lane) (r : Nat) (v : Dword) : (k.putPair r v).tcause = k.tcause := by simp [Lane.putPair]
@[simp] theorem Lane.putPair_taddr (k : Lane) (r : Nat) (v : Dword) : (k.putPair r v).taddr = k.taddr := by simp [Lane.putPair]
@[simp] theorem Lane.putPair_tlanes (k : Lane) (r : Nat) (v : Dword) : (k.putPair r v).tlanes = k.tlanes := by simp [Lane.putPair]
@[simp] theorem Lane.putPair_tpc (k : Lane) (r : Nat) (v : Dword) : (k.putPair r v).tpc = k.tpc := by simp [Lane.putPair]
@[simp] theorem Lane.putPair_tinfo (k : Lane) (r : Nat) (v : Dword) : (k.putPair r v).tinfo = k.tinfo := by simp [Lane.putPair]
@[simp] theorem Lane.putPair_helper (k : Lane) (r : Nat) (v : Dword) : (k.putPair r v).helper = k.helper := by simp [Lane.putPair]
@[simp] theorem Lane.putPair_place (k : Lane) (r : Nat) (v : Dword) : (k.putPair r v).place = k.place := by simp [Lane.putPair]
@[simp] theorem Lane.putPair_task (k : Lane) (r : Nat) (v : Dword) : (k.putPair r v).task = k.task := by simp [Lane.putPair]
@[simp] theorem Lane.putPair_noWatch (k : Lane) (r : Nat) (v : Dword) : (k.putPair r v).noWatch = k.noWatch := by simp [Lane.putPair]
@[simp] theorem Lane.putPair_frag (k : Lane) (r : Nat) (v : Dword) : (k.putPair r v).frag = k.frag := by simp [Lane.putPair]
@[simp] theorem Lane.putPair_asked (k : Lane) (r : Nat) (v : Dword) : (k.putPair r v).asked = k.asked := by simp [Lane.putPair]

end Sys2Proof.Machine
end

