-- ==== Sys2Proof/Tests/Slice0.lean ====
section
/-! SUPPORT. Tests: what WellFormed refuses, words decoded bit by bit from the encoding tables, the spec's worked values, and for each
statement a state and operands that meet its hypotheses. Expected values are the spec's, or worked out by hand from its rules. -/

namespace Sys2Proof.Tests

open Machine

set_option Elab.async false

/-! ### Decoding: one word of every row, its fixed bits from spec/opcode_table.json and each operand field with a value of its own -/

noncomputable def reads (l : List (Nat × Nat × Instr)) : Bool := l.all (fun p => decodeTableWord p.1 p.2.1 == some p.2.2)

theorem test_decode_add_to_mulwZ : reads
    [(32, 0x65081001, .add 4 ⟨8, false, true⟩ ⟨20, true, false⟩), (32, 0x65081011, .sub 4 ⟨8, false, true⟩ ⟨20, true, false⟩),
     (32, 0x65081021, .mul 4 ⟨8, false, true⟩ ⟨20, true, false⟩), (32, 0x65081031, .mulhS 4 ⟨8, false, true⟩ ⟨20, true, false⟩),
     (32, 0x65081041, .mulhZ 4 ⟨8, false, true⟩ ⟨20, true, false⟩), (32, 0x65081051, .mad 4 ⟨8, false, true⟩ ⟨20, true, false⟩),
     (32, 0x65081061, .divS 4 ⟨8, false, true⟩ ⟨20, true, false⟩), (32, 0x65081071, .divZ 4 ⟨8, false, true⟩ ⟨20, true, false⟩),
     (32, 0x65081081, .remS 4 ⟨8, false, true⟩ ⟨20, true, false⟩), (32, 0x65081091, .remZ 4 ⟨8, false, true⟩ ⟨20, true, false⟩),
     (32, 0x650810A1, .and 4 ⟨8, false, true⟩ ⟨20, true, false⟩), (32, 0x650810B1, .or 4 ⟨8, false, true⟩ ⟨20, true, false⟩),
     (32, 0x650810C1, .xor 4 ⟨8, false, true⟩ ⟨20, true, false⟩), (32, 0x650810D1, .andn 4 ⟨8, false, true⟩ ⟨20, true, false⟩),
     (32, 0x650810E1, .shl 4 ⟨8, false, true⟩ ⟨20, true, false⟩), (32, 0x650810F1, .shr 4 ⟨8, false, true⟩ ⟨20, true, false⟩),
     (32, 0x65081101, .sra 4 ⟨8, false, true⟩ ⟨20, true, false⟩), (32, 0x65081111, .rol 4 ⟨8, false, true⟩ ⟨20, true, false⟩),
     (32, 0x65081121, .minS 4 ⟨8, false, true⟩ ⟨20, true, false⟩), (32, 0x65081131, .minZ 4 ⟨8, false, true⟩ ⟨20, true, false⟩),
     (32, 0x65081141, .maxS 4 ⟨8, false, true⟩ ⟨20, true, false⟩), (32, 0x65081151, .maxZ 4 ⟨8, false, true⟩ ⟨20, true, false⟩),
     (32, 0x40081161, .absS 4 ⟨8, false, true⟩), (32, 0x40081171, .popc 4 ⟨8, false, true⟩), (32, 0x40081181, .clz 4 ⟨8, false, true⟩),
     (32, 0x40081191, .brev 4 ⟨8, false, true⟩), (32, 0x650811A1, .bfxZ 4 ⟨8, false, true⟩ ⟨20, true, false⟩),
     (32, 0x650811B1, .bfxS 4 ⟨8, false, true⟩ ⟨20, true, false⟩), (32, 0x650811C1, .bfi 4 ⟨8, false, true⟩ ⟨20, true, false⟩),
     (32, 0x460C11D1, .addw 4 ⟨12, true⟩ ⟨24, false⟩), (32, 0x460C11E1, .subw 4 ⟨12, true⟩ ⟨24, false⟩),
     (32, 0x650811F1, .mulwS 4 ⟨8, false, true⟩ ⟨20, true, false⟩), (32, 0x65081201, .mulwZ 4 ⟨8, false, true⟩ ⟨20, true, false⟩)] = true := by decide +kernel

theorem test_decode_shlw_to_dfma : reads
    [(32, 0x650C1211, .shlw 4 ⟨12, true⟩ ⟨20, true, false⟩), (32, 0x650C1221, .shrw 4 ⟨12, true⟩ ⟨20, true, false⟩),
     (32, 0x650C1231, .sraw 4 ⟨12, true⟩ ⟨20, true, false⟩), (32, 0x6508B701, .cmpS 5 5 ⟨8, false, true⟩ ⟨20, true, false⟩),
     (32, 0x6508B711, .cmpZ 5 5 ⟨8, false, true⟩ ⟨20, true, false⟩), (32, 0x460CB721, .cmpwS 5 5 ⟨12, true⟩ ⟨24, false⟩),
     (32, 0x460CB731, .cmpwZ 5 5 ⟨12, true⟩ ⟨24, false⟩), (32, 0x0145B741, .plog 5 5 5 5), (32, 0x00051351, .ptox 4 5),
     (32, 0x40081761, .xtop 5 ⟨8, false, true⟩), (32, 0x400C13C1, .rng 4 ⟨12, true⟩), (32, 0x460C03D1, .rngj ⟨12, true⟩ ⟨24, false⟩),
     (32, 0x65081003, .fadd 4 ⟨8, false, true⟩ ⟨20, true, false⟩), (32, 0x65081013, .fsub 4 ⟨8, false, true⟩ ⟨20, true, false⟩),
     (32, 0x65081023, .fmul 4 ⟨8, false, true⟩ ⟨20, true, false⟩), (32, 0x65081033, .ffma 4 ⟨8, false, true⟩ ⟨20, true, false⟩),
     (32, 0x65081043, .ffms 4 ⟨8, false, true⟩ ⟨20, true, false⟩), (32, 0x65081053, .fmin 4 ⟨8, false, true⟩ ⟨20, true, false⟩),
     (32, 0x65081063, .fmax 4 ⟨8, false, true⟩ ⟨20, true, false⟩), (32, 0x65081073, .fdiv 4 ⟨8, false, true⟩ ⟨20, true, false⟩),
     (32, 0x40081083, .fsqrt 4 ⟨8, false, true⟩), (32, 0x40081093, .frcp 4 ⟨8, false, true⟩), (32, 0x400810A3, .frsq 4 ⟨8, false, true⟩),
     (32, 0x400810B3, .fabs 4 ⟨8, false, true⟩), (32, 0x400810C3, .fneg 4 ⟨8, false, true⟩),
     (32, 0x6508B4D3, .fcmp 5 5 ⟨8, false, true⟩ ⟨20, true, false⟩), (32, 0x400810E3, .fclass 4 ⟨8, false, true⟩),
     (32, 0x400810F3, .fex2 4 ⟨8, false, true⟩), (32, 0x40081103, .flg2 4 ⟨8, false, true⟩),
     (32, 0x460C1143, .dadd 4 ⟨12, true⟩ ⟨24, false⟩), (32, 0x460C1153, .dsub 4 ⟨12, true⟩ ⟨24, false⟩),
     (32, 0x460C1163, .dmul 4 ⟨12, true⟩ ⟨24, false⟩), (32, 0x460C1173, .dfma 4 ⟨12, true⟩ ⟨24, false⟩)] = true := by decide +kernel

theorem test_decode_dfms_to_xori : reads
    [(32, 0x460C1183, .dfms 4 ⟨12, true⟩ ⟨24, false⟩), (32, 0x460C1193, .dmin 4 ⟨12, true⟩ ⟨24, false⟩),
     (32, 0x460C11A3, .dmax 4 ⟨12, true⟩ ⟨24, false⟩), (32, 0x460C11B3, .ddiv 4 ⟨12, true⟩ ⟨24, false⟩),
     (32, 0x400C11C3, .dsqrt 4 ⟨12, true⟩), (32, 0x460CB5D3, .dcmp 5 5 ⟨12, true⟩ ⟨24, false⟩), (32, 0x400C11E3, .dabs 4 ⟨12, true⟩),
     (32, 0x400C11F3, .dneg 4 ⟨12, true⟩), (32, 0x65081203, .hadd2 4 ⟨8, false, true⟩ ⟨20, true, false⟩),
     (32, 0x65081213, .hmul2 4 ⟨8, false, true⟩ ⟨20, true, false⟩), (32, 0x65081223, .hfma2 4 ⟨8, false, true⟩ ⟨20, true, false⟩),
     (32, 0x65081233, .badd2 4 ⟨8, false, true⟩ ⟨20, true, false⟩), (32, 0x65081243, .bmul2 4 ⟨8, false, true⟩ ⟨20, true, false⟩),
     (32, 0x65081253, .bfma2 4 ⟨8, false, true⟩ ⟨20, true, false⟩), (32, 0xEA0C1263, .cvt 4 ⟨12, true⟩ 0 5 2 true),
     (32, 0x63081273, .pkn 4 8 12 2 1), (32, 0x81881283, .upkn 4 8 6 2),
     (32, 0x65081303, .dot4E4m3 4 ⟨8, false, true⟩ ⟨20, true, false⟩), (32, 0x65081313, .dot4E5m2 4 ⟨8, false, true⟩ ⟨20, true, false⟩),
     (32, 0x65081323, .dot8E2m1 4 ⟨8, false, true⟩ ⟨20, true, false⟩), (32, 0x65081333, .dot4S8 4 ⟨8, false, true⟩ ⟨20, true, false⟩),
     (32, 0x65081343, .dot8S4 4 ⟨8, false, true⟩ ⟨20, true, false⟩), (32, 0x65081353, .dot2Bf16 4 ⟨8, false, true⟩ ⟨20, true, false⟩),
     (32, 0x65081363, .dot2F16 4 ⟨8, false, true⟩ ⟨20, true, false⟩), (32, 0x000807A3, .xaccf true 8), (32, 0x030807B3, .xacc true 8 12),
     (32, 0x030807C3, .xfma true 8 12), (32, 0x000113D3, .xrnd 4 true), (32, 0x000007E3, .xclr true),
     (32, 0x74B30405, .addi 4 ⟨12, true⟩ 933), (32, 0x74B30415, .andi 4 ⟨12, true⟩ 933), (32, 0x74B30425, .ori 4 ⟨12, true⟩ 933),
     (32, 0x74B30435, .xori 4 ⟨12, true⟩ 933)] = true := by decide +kernel

theorem test_decode_shi_to_exit : reads
    [(32, 0x08D30445, .shi 4 ⟨12, true⟩ 2 17), (32, 0x2048C455, .movlo 4 33059), (32, 0x2048C465, .movhi 4 33059),
     (32, 0x74B32D75, .cmpi 5 5 ⟨12, true⟩ 933), (32, 0x75830485, .sel 4 ⟨12, true⟩ ⟨24, false⟩ 5 true),
     (32, 0x29830495, .scale 4 ⟨12, false⟩ ⟨24, true⟩ 2), (32, 0x000684A5, .srd 4 26), (32, 0x00444CB5, .srw ⟨12, true⟩ 17),
     (32, 0x2048C4C5, .ldca 4 33059), (32, 0x74B304D5, .muli 4 ⟨12, true⟩ 933), (32, 0xFC598207, .ld 4 ⟨12, true⟩ 5 504),
     (32, 0x0AA98217, .st 4 ⟨12, true⟩ 2 21), (32, 0x06A98227, .ldo 4 ⟨12, true⟩ 2 1 3), (32, 0x05398237, .sto 4 ⟨12, true⟩ 3 2),
     (32, 0x25A98247, .atom 4 ⟨12, true⟩ 2 3 true 4), (32, 0x91398257, .atomn 4 ⟨12, true⟩ 3 2 false 18),
     (32, 0x00098067, .prf ⟨12, true⟩), (32, 0x00898067, .prfl ⟨12, true⟩), (32, 0x01000067, .inv),
     (32, 0x018980E7, .xld true ⟨12, true⟩), (32, 0x020980E7, .xst true ⟨12, true⟩), (32, 0x028980E7, .xaddm true ⟨12, true⟩),
     (32, 0x80014609, .bra 131077 6), (32, 0x48D06D19, .brc 4660 6 true 5), (32, 0x80014629, .call 131077 6),
     (32, 0x2048C639, .callp 33059 6), (32, 0x00034C49, .jmpr ⟨12, true⟩ 6), (32, 0x00034C59, .callr ⟨12, true⟩ 6),
     (32, 0x00000869, .retr 8), (32, 0x00000579, .jenrol 5), (32, 0x00003589, .jwait 5 6), (32, 0x00000599, .jleave 5),
     (32, 0x000000A9, .exit)] = true := by decide +kernel

theorem test_decode_trap_to_reduAddF32 : reads
    [(32, 0x008123B9, .trap 33059), (32, 0x000000C9, .rett), (16, 0x8C40, .mov16 17 17), (16, 0x8C44, .add16 17 17),
     (16, 0x8C48, .sub16 17 17), (16, 0x8C4C, .mul16 17 17), (16, 0x8C50, .and16 17 17), (16, 0x8C54, .or16 17 17),
     (16, 0x8C58, .xor16 17 17), (16, 0x8C5C, .andn16 17 17), (16, 0x8C60, .shl16 17 17), (16, 0x8C64, .shr16 17 17),
     (16, 0x8C68, .sra16 17 17), (16, 0x8C6C, .fadd16 17 17), (16, 0x8C70, .fsub16 17 17), (16, 0x8C74, .fmul16 17 17),
     (16, 0x8C78, .fmin16 17 17), (16, 0x8C7C, .fmax16 17 17), (16, 0x0002, .nop), (16, 0x0346, .guard true 5), (16, 0x014A, .waitk 5),
     (16, 0x8C4E, .movi 17 17), (16, 0x8C52, .addi16 17 17), (16, 0x0D56, .jwait16 5 6), (16, 0x001A, .ret), (16, 0x001E, .exit16),
     (16, 0x0262, .barb16 9), (16, 0x0026, .yield), (16, 0x1A6A, .movs16 9 6), (32, 0x4008100B, .movu 4 ⟨8, false, true⟩),
     (32, 0x4008101B, .movuf 4 ⟨8, false, true⟩), (32, 0x4008102B, .reduAddS32 4 ⟨8, false, true⟩),
     (32, 0x4008103B, .reduAddF32 4 ⟨8, false, true⟩)] = true := by decide +kernel

theorem test_decode_reduMinS_to_cpyd : reads
    [(32, 0x4008104B, .reduMinS 4 ⟨8, false, true⟩), (32, 0x4008105B, .reduMaxS 4 ⟨8, false, true⟩),
     (32, 0x4008106B, .reduMinZ 4 ⟨8, false, true⟩), (32, 0x4008107B, .reduMaxZ 4 ⟨8, false, true⟩),
     (32, 0x4008108B, .reduAnd 4 ⟨8, false, true⟩), (32, 0x4008109B, .reduOr 4 ⟨8, false, true⟩),
     (32, 0x400810AB, .reduXor 4 ⟨8, false, true⟩), (32, 0x400810BB, .reduFmin 4 ⟨8, false, true⟩),
     (32, 0x400810CB, .reduFmax 4 ⟨8, false, true⟩), (32, 0x400810DB, .reduAmaxF32 4 ⟨8, false, true⟩), (32, 0x000610EB, .movs 4 6),
     (32, 0x4188110B, .qxch 4 ⟨8, false, true⟩ 6), (32, 0x4608111B, .shfl 4 ⟨8, false, true⟩ ⟨24, false⟩),
     (32, 0x4188112B, .shup 4 ⟨8, false, true⟩ 6), (32, 0x4188113B, .shdn 4 ⟨8, false, true⟩ 6),
     (32, 0x4188114B, .shxr 4 ⟨8, false, true⟩ 6), (32, 0x0005115B, .vote 4 5), (32, 0x0005156B, .vany 5 5), (32, 0x0005157B, .vall 5 5),
     (32, 0x4008118B, .scanAddS32 4 ⟨8, false, true⟩), (32, 0x4008119B, .scanAddF32 4 ⟨8, false, true⟩), (32, 0x000015AB, .elect 5),
     (32, 0x440C020B, .spawn ⟨12, true⟩ 16), (32, 0x0000021B, .binfl), (32, 0x400C122B, .launch 4 ⟨12, true⟩),
     (32, 0x4008023B, .join ⟨8, false, true⟩), (32, 0x4188028B, .barb ⟨8, false, true⟩ 6), (32, 0x4188029B, .bara ⟨8, false, true⟩ 6),
     (32, 0x018002AB, .barw ⟨0, false, false⟩ 6), (32, 0x40C802BB, .barc ⟨8, false, true⟩ 3),
     (32, 0x418816CB, .barlast 5 ⟨8, false, true⟩ 6), (32, 0xD308100D, .cpy 4 8 12 5 true), (32, 0xD008001D, .cpyd 8 5 true)] = true := by decide +kernel

theorem test_decode_cpyt_to_pevict : reads
    [(32, 0xD308102D, .cpyt 4 8 12 5 true), (32, 0xD008003D, .gathd 8 5 true), (32, 0x0140108D, .tballoc 4 5),
     (32, 0x460C109D, .tbinit 4 ⟨12, true⟩ ⟨24, false⟩), (32, 0x400C00AD, .tbarr ⟨12, true⟩), (32, 0x404C00BD, .tbwait ⟨12, true⟩ true),
     (32, 0x400C00CD, .tbref ⟨12, true⟩), (32, 0x400C00DD, .tbfree ⟨12, true⟩), (32, 0x0000110D, .pgpop 4),
     (32, 0x400C011D, .pgpost ⟨12, true⟩), (32, 0x0000112D, .pgcnt 4), (32, 0x460C014D, .aestart ⟨12, true⟩ ⟨24, false⟩),
     (32, 0x0000015D, .aestop), (32, 0x0180116D, .qmap 4 6), (32, 0x0000117D, .qunmap 4), (32, 0x0180158D, .qtst 5 6),
     (32, 0x418C019D, .qpush ⟨12, true⟩ 6), (32, 0x018001AD, .qclose 6), (32, 0x018001BD, .qopen 6),
     (32, 0xD308020D, .mmaE4m3 8 12 5 true), (32, 0xD308021D, .mmaE5m2 8 12 5 true), (32, 0xD308022D, .mmaE2m1 8 12 5 true),
     (32, 0xD008023D, .mmaS8 8 5 true), (32, 0xD008024D, .mmaS4 8 5 true), (32, 0xD008025D, .mmaBf16 8 5 true),
     (32, 0xD008026D, .mmaF16 8 5 true), (32, 0xD008027D, .mmaF64 8 5 true), (32, 0xD008028D, .mmv 8 5 true),
     (32, 0xD008029D, .drain 8 5 true), (32, 0x018002AD, .maclr 6), (32, 0x018012BD, .mstat 4 6), (32, 0xD008130D, .pload 4 8 5 true),
     (32, 0x400C031D, .pevict ⟨12, true⟩)] = true := by decide +kernel

theorem test_decode_pres_to_signal : reads
    [(32, 0x400C172D, .pres 5 ⟨12, true⟩), (32, 0x400C133D, .pstat 4 ⟨12, true⟩), (32, 0x5008138D, .walk 4 8 5),
     (32, 0x400C139D, .wstat 4 ⟨12, true⟩), (32, 0x400C03AD, .wcancel ⟨12, true⟩), (32, 0x460C17BD, .wqry 5 ⟨12, true⟩ ⟨24, false⟩),
     (32, 0x400C13CD, .lbdef 4 ⟨12, true⟩), (32, 0x460C13DD, .ldl 4 ⟨12, true⟩ ⟨24, false⟩),
     (32, 0x460C13ED, .stl 4 ⟨12, true⟩ ⟨24, false⟩), (32, 0x400C03FD, .lbfree ⟨12, true⟩), (32, 0x00008C0F, .fence 2 false 3),
     (32, 0x000C841F, .fencex 1 2 3), (32, 0x0000102F, .tick 4), (32, 0x0000103F, .ticko 4), (32, 0x400C084F, .pmcfg 2 ⟨12, true⟩),
     (32, 0x0002105F, .pmrd 4 2), (32, 0x4008106F, .tdrd 4 ⟨8, false, true⟩),
     (32, 0x6508148F, .bankcfg 5 ⟨8, false, true⟩ ⟨20, true, false⟩), (32, 0x650C00CF, .taskbeg ⟨12, true⟩ ⟨20, true, false⟩),
     (32, 0x000000DF, .taskend), (32, 0x650C00EF, .taskrng ⟨12, true⟩ ⟨20, true, false⟩), (32, 0x000010FF, .taskq 4),
     (32, 0x400C150F, .migrate 5 ⟨12, true⟩), (32, 0x0000014F, .brk), (32, 0x400C018F, .rpbeg ⟨12, true⟩), (32, 0x0000159F, .rpend 5),
     (32, 0x400C01AF, .wscap ⟨12, true⟩), (32, 0x400C01BF, .wsrst ⟨12, true⟩),
     (32, 0x650801CF, .setrpc ⟨8, false, true⟩ ⟨20, true, false⟩), (32, 0x400801DF, .texit ⟨8, false, true⟩), (32, 0x000001EF, .tsvc),
     (32, 0x5008020F, .coll 8 5), (32, 0x650C021F, .signal ⟨12, true⟩ ⟨20, true, false⟩)] = true := by decide +kernel

/-! ### WellFormed: for each check, a term that breaks it -/

/-- A source register. -/
def x (r : BitVec 6) : Src := ⟨r, false, false⟩
/-- A register source with its e-bit. -/
def y (r : BitVec 6) : RegE := ⟨r, false⟩

theorem test_ill_formed_refused : ([
    -- R71: an e-bit on a scope source, odd pairs, quads that are no multiple of 4
    .add 1 ⟨2, true, true⟩ (x 3), .mul 1 (x 2) ⟨3, true, true⟩, .absS 1 ⟨2, true, true⟩, .addw 3 (y 2) (y 4), .addw 2 (y 3) (y 4), .addw 2 (y 4) (y 5),
    .mulwS 3 (x 1) (x 2), .shlw 2 (y 5) (x 1), .rng 1 (y 3), .rngj (y 2) (y 3), .dadd 1 (y 2) (y 4), .dsqrt 2 (y 3), .dcmp 0 1 (y 3) (y 4),
    .xacc false 3 4, .xfma true 2 5, .xrnd 3 false, .launch 1 (y 3), .spawn (y 2) 6, .pgpop 2, .pgpost (y 6), .cpyt 2 0 0 0 false, .cpy 1 2 3 0 false,
    .lbdef 1 (y 3), .ldl 1 (y 2) (y 3), .tick 3, .taskbeg (y 3) (x 1), .migrate 0 (y 1), .walk 1 3 0, .mmaS8 3 0 false, .drain 3 0 false,
    -- R73 to R77: selectors out of range
    .cmpS 6 1 (x 2) (x 3), .cmpwZ 6 1 (y 2) (y 4), .fcmp 7 1 (x 2) (x 3), .plog 7 1 2 3, .cvt 2 (y 4) 1 1 0 false, .cvt 2 (y 5) 3 0 0 false,
    .cvt 3 (y 4) 0 5 0 false, .pkn 1 3 2 0 2, .upkn 1 2 4 0, .srd 1 0x16, .srd 1 0x38, .srw (y 1) 0x00, .srw (y 1) 0x12,
    -- R78 to R80: sizes, orders, scopes, atomic operations
    .ld 1 (y 3) 2 0, .ld 1 (y 2) 7 0, .ld 1 (y 2) 3 0, .ld 2 (y 4) 4 0, .st 1 (y 2) 5 0, .ldo 1 (y 2) 4 1 0, .ldo 1 (y 2) 2 0 1, .ldo 1 (y 2) 2 1 5,
    .sto 1 (y 2) 4 0, .sto 1 (y 2) 2 5, .atom 1 (y 2) 2 5 true 0, .atom 2 (y 2) 3 0 true 0, .atom 2 (y 2) 2 0 true 21, .atom 1 (y 2) 2 0 true 10,
    .atomn 2 (y 2) 3 0 false 19, .atom 1 (y 2) 2 0 true 11,
    -- R67, R81 to R85: masks, scope indices, patterns, lane counts, barrier ids, banks, tiles, fences
    .waitk 0, .movu 60 (x 1), .reduXor 63 (x 1), .qxch 1 (x 2) 7, .shup 1 (x 2) 32, .barb (x 1) 16, .barc (x 1) 4, .barw (x 1) 0, .barlast 0 (x 1) 16,
    .join ⟨5, true, false⟩, .qmap 1 37, .qclose 37, .maclr 8, .mstat 1 8, .fence 3 false 0, .fence 0 false 5, .fencex 10 0 0, .fencex 0 10 0,
    .fencex 0 0 5, .tdrd 3 (x 1),
    -- a device event is no instruction of code
    .hostVisible 0, .boot ⟨[], ⟨0, []⟩⟩ ⟨[], ⟨0, []⟩⟩] : List Instr).all (fun i => !i.wf) = true := by decide +kernel

/-- At the edges of the same ranges, terms that are well-formed. -/
theorem test_well_formed : ([
    .add 63 ⟨63, true, false⟩ ⟨63, false, true⟩, .addw 62 (y 62) (y 62), .spawn (y 63) 60, .cmpS 5 7 (x 0) (x 63), .plog 6 7 7 7, .srd 63 0x37, .srw (y 63) 0x1D,
    .ld 63 (y 62) 6 511, .st 60 (y 62) 4 256, .ldo 1 (y 2) 2 1 4, .ldo 1 (y 2) 2 0 0, .atom 60 (y 62) 3 4 true 19, .atomn 63 (y 62) 2 4 false 16,
    .movu 59 (x 63), .qxch 63 (x 63) 6, .shxr 63 (x 1) 31, .barb ⟨60, true, false⟩ 15, .barc (x 1) 3, .barw zrSrc 15, .barw zeroSrc 0, .join ⟨60, true, false⟩,
    .qmap 63 36, .maclr 7, .fence 2 true 4, .fencex 9 9 4, .upkn 1 2 7 2, .waitk 255] : List Instr).all Instr.wf = true := by decide +kernel

/-! ### States that meet the hypotheses of the statements -/

/-- A state has an agent that is ready to issue an instruction with the needs n, with p of it: the hypotheses of `Completes x n p post`. -/
def Meets (s : State) (n : Need) (p : State → Warp → Iss → Prop) : Prop :=
  ∃ u w h, s.Ready u w h n ∧ p s w (w.iss u h n.wlen)

/-- The lane at the head of agent u's frontier. -/
def headAt (s : State) (u : Nat) : Lane := (s.warp u).head.getD (Lane.start 0 0)

/-- The issue of agent u's next instruction. -/
def issAt (s : State) (u : Nat) (n : Need) : Iss := (s.warp u).iss u (headAt s u) n.wlen

/-- Whether agent u meets everything that `State.Ready` asks for the needs n. -/
def readyAt (s : State) (u : Nat) (n : Need) : Bool :=
  let w := s.warp u
  let i := issAt s u n
  s.cur == some u && Map.has s.warps u && w.head.isSome && !w.busy &&
  (List.range 8).all (fun k => !i.wait.getLsbD k || w.isAe || !w.tokBusy k) &&
  !i.n.isEmpty && !s.illegal w i n && (!n.handler || i.handler) && (!n.atHead || (s.waitingTasks w i.act).isEmpty) &&
  (n.mappedSrcs w).isEmpty && i.act.all (fun l => (n.names ++ n.also l (w.lane l)).all (fun r => ((w.lane l).cell r).fe == .full)) &&
  n.srcs.all (fun o => match o with | .scope k => !s.scopePending u k | _ => true) && (!n.mem || !w.acquiring) &&
  (s.core w.core).trace.isNone

theorem get?_of_has {s : State} {u : Nat} (h : Map.has s.warps u = true) : Map.get? s.warps u = some (s.warp u) := by
  unfold Map.has at h
  obtain ⟨w, hw⟩ := Option.isSome_iff_exists.mp h
  simp [State.warp, Map.getD, hw]

theorem ready_of_readyAt {s : State} {u : Nat} {n : Need} (h : readyAt s u n = true) : s.Ready u (s.warp u) (headAt s u) n := by
  simp only [readyAt, Bool.and_eq_true, beq_iff_eq, Bool.not_eq_true', Bool.or_eq_true, List.all_eq_true, List.isEmpty_eq_false_iff,
    List.isEmpty_iff, Option.isNone_iff_eq_none] at h
  obtain ⟨⟨⟨⟨⟨⟨⟨⟨⟨⟨⟨⟨⟨hc, hm⟩, hh⟩, hb⟩, ht⟩, hn⟩, hi⟩, hp⟩, ha⟩, hq⟩, hf⟩, hs⟩, hg⟩, hr⟩ := h
  obtain ⟨k, hk⟩ := Option.isSome_iff_exists.mp hh
  refine ⟨⟨⟨hc, get?_of_has hm⟩, hb, by simp [headAt, hk], ?_, hn, hi, ?_, ?_, hq, ?_, ?_, ?_⟩, hr⟩
  · intro j hj hw hb'
    have := ht j (List.mem_range.mpr hj)
    simp only [issAt] at this
    simp_all
  · intro h1; simpa [h1, issAt] using hp
  · intro h1; simpa [h1, issAt] using ha
  · intro l hl r hr'; simpa using hf l hl r hr'
  · intro j hj; simpa using hs _ hj
  · intro h1; simpa [h1] using hg

theorem meets {s : State} {u : Nat} {n : Need} {p : State → Warp → Iss → Prop} (h : readyAt s u n = true) (hp : p s (s.warp u) (issAt s u n)) :
    Meets s n p := ⟨u, _, _, ready_of_readyAt h, hp⟩

/-- Of several instructions whose statements ask for nothing more. -/
theorem meets_all {s : State} {u : Nat} {ns : List Need} (h : ns.all (readyAt s u) = true) : ∀ n ∈ ns, Meets s n (fun _ _ _ => True) :=
  fun n hn => meets (List.all_eq_true.mp h n hn) trivial

/-- A lane at offset 4 of parcel 1 with the registers given, as (register, value) in rising order. -/
def laneWith (x : List (Nat × Nat)) : Lane := { Lane.start 0x10004 5 with x := x.map (fun p => (p.1, ⟨BitVec.ofNat 32 p.2, .full⟩)) }

/-- Agent 4, whose turn it is, of block 2 of grid 1 on core 0: a warp whose lanes 0 to 3 hold the registers given. Parcel 1 is resident
with 64 halfwords; the block has 4096 bytes of scratchpad, which hold the bytes given. -/
def place (x : Nat → List (Nat × Nat)) (sp : List Nat) : State :=
  let t : State := { State.reset with
    cur := some 4, nextId := 50
    grids := [(1, { Grid.absent with info := { GridRec.seed 1 0 0 0 0 0 false with exact := true }, next := 1, pendSeq := 1, ended := false })]
    groups := [(3, ⟨0, 1, [], []⟩)]
    blocks := [(2, { Block.absent with
      grid := 1, group := 3, producer := some 0, stamp := 1, exact := true, scratch := 4096, banks := [40]
      sp := (sp.zipIdx.filter (fun p => p.1 != 0)).map (fun p => (p.2, BitVec.ofNat 8 p.1)) })]
    warps := [(4, Warp.start .warp 0 0 2 0 1 ((List.range 4).map (fun l => (l, laneWith (x l)))))] }
  let t : State := t.updCtx 0 (fun c => { c with parcels := [(1, ⟨0, 64, 0, false⟩)] })
  t.updCore 0 (fun c => { c with
    online := true, active := [4]
    parcels := [(1, { Parcel.absent with state := 2, gen := 1, code := List.replicate 64 2, pages := 1, occupied := true })] })

/-- Registers for the most: a scratchpad address in x2 and x3, small numbers, a code address in x8 and x63. -/
def plain (l : Nat) : List (Nat × Nat) :=
  [(2, 0), (3, 0xFE000000), (4, 5), (5, 7), (8, 0x10008), (10, l + 1), (12, 0x3F800000), (63, 0x10010)]

def base : State := place plain []

/-- The value of register r of lane l of agent 4 after an instruction. -/
def after (i : Instr) (s : State) (l r : Nat) : Option Word :=
  match exec i s with
  | .next t => some (((t.warp 4).lane l).val r)
  | _ => none

/-! #### The machine as a whole -/

/-- A parcel with ADD x8, x8, x10 (R91) as its first instruction, where the next step fetches it. -/
noncomputable def first : State := State.reset.withFetchWord 32 0x02880001

/-- O2: what a step that runs an instruction asks for, up to the decoded word. -/
theorem test_meets_StepRunsInstruction : ∃ t w h i, first.fw.stopped = false ∧ first.choose1 first.picks = (some (.agent 4), t) ∧
    Map.get? t.warps 4 = some w ∧ w.head = some h ∧ ({ t with cur := some 4 } : State).fetch w h = .instr i ∧ i = .add 0 (x 8) (x 10) := by
  refine ⟨_, (first.warp 4), headAt first 4, _, by decide +kernel, Prod.ext (by decide +kernel) rfl, ?_, ?_, ?_, rfl⟩ <;> decide +kernel
theorem test_meets_StepRunsInstruction_fetches : ∃ p : Parcel, 2 ≤ p.state ∧ p.code.drop 1 = [0x0288] ∧ p.code.drop 0 = [0x0001, 0x0288] ∧ p.code.drop 2 = [] ∧
    (0x0001 : BitVec 16).getLsbD 0 = true ∧ decode 0x0001 0x0288 = some (.add 0 (x 8) (x 10)) ∧ (0x0002 : BitVec 16).getLsbD 0 = false ∧
    decode 0x0002 0 = some .nop ∧ decode 0xFFFF 0xFFFF = none :=
  ⟨{ Parcel.absent with state := 2, code := [0x0001, 0x0288] }, by decide, by decide, by decide, by decide, by decide, by decide +kernel, by decide,
    by decide +kernel, by decide +kernel⟩

/-- O4, O5. -/
theorem test_meets_EncodeDecode : (Instr.add 63 ⟨63, true, false⟩ ⟨63, false, true⟩).wf = true ∧ Instr.nop.wf = true ∧
    decode 0x0001 0x0288 = some (.add 0 (x 8) (x 10)) := by decide +kernel

/-- O6, O7: the reset state; and a state that holds memory, whose step answers. -/
theorem test_meets_EveryStepRuns : State.reset.driven := by unfold State.driven; decide +kernel
theorem test_meets_MemoryFormKept : ({ State.reset with mem := [(5, 7)] } : State).memOk ∧
    ∃ t, step { State.reset with mem := [(5, 7)] } = .next t ∧ t.memOk := ⟨⟨by decide, by decide⟩, _, rfl, by decide +kernel, by decide +kernel⟩

/-- O8. -/
theorem test_meets_MemoryCells : isSp 0 = false ∧ isSp (spKey 2 9) = true ∧ Map.has base.blocks (spBlock (spKey 2 9)) = true ∧
    ([1, 2] : List Byte)[1]? = some 2 ∧ 2 ^ 48 - 2 + ([1, 2] : List Byte).length ≤ 2 ^ 48 ∧ base.memOk := by
  refine ⟨by decide, by decide, by decide +kernel, rfl, by decide, by decide +kernel, by decide +kernel⟩

/-- O9: a guard that is true in no lane; an illegal form; a handler's form outside a handler; an orphaned source; an empty one with and without
its e-bit; a register beyond those of the block. -/
def guarded : State := base.updWarp 4 (fun w => { w with pfx := some ⟨0x10004, 5, 1, some (false, 2), none⟩ })
def marked (f : Fe) : State := base.updWarp 4 (fun w => w.updLane 1 (fun k => { k with x := Map.put k.x 4 ⟨0, f⟩ }))
def checksAt (s : State) : Bool := s.cur == some 4 && Map.has s.warps 4 && !(s.warp 4).busy && (s.warp 4).head.isSome && !(issAt s 4 {}).n.isEmpty &&
  !s.illegal (s.warp 4) (issAt s 4 {}) { srcs := [.regs [4] true] }
theorem test_meets_IssueChecks : (issAt guarded 4 {}).act = [] ∧ guarded.cur = some 4 ∧ (guarded.warp 4).busy = false ∧ (guarded.warp 4).head.isSome = true ∧
    base.illegal (base.warp 4) (issAt base 4 {}) { prio := 63 } = true ∧ checksAt base = true ∧ (issAt base 4 {}).handler = false ∧
    checksAt (marked .orphan) = true ∧ 1 ∈ (issAt (marked .orphan) 4 {}).n ∧ ((((marked .orphan).warp 4).lane 1).cell 4).fe = .orphan ∧
    checksAt (marked (.empty false)) = true ∧ ((((marked (.empty false)).warp 4).lane 1).cell 4).fe = .empty false ∧
    (((marked (.empty false)).warp 4).lane 1).isOrphan 4 = false ∧ (((marked (.empty false)).warp 4).lane 1).isLong 4 = false ∧
    nameable (({ base with blocks := Map.upd base.blocks 2 (fun b => { b with nregs := 32 }) } : State).nregs (base.warp 4)) 40 = false := by
  decide +kernel

/-- O10: an ordinary fragment of a warp; a scalar control core. -/
def scc : State := { base with warps := Map.upd base.warps 4 (fun w => { w with kind := .scc 0, block := 0, lanes := w.lanes.take 1 }), sccGrid := [(0, 1)] }
theorem test_meets_TrapEntry : Map.get? base.warps 4 = some (base.warp 4) ∧ (base.warp 4).isAe = false ∧ Map.get? (base.warp 4).lanes 1 = some ((base.warp 4).lane 1) ∧
    (base.warp 4).kind = .warp ∧ Map.get? scc.warps 4 = some (scc.warp 4) ∧ (scc.warp 4).kind = .scc 0 := by decide +kernel

/-! #### Lane by lane (O11 to O22): every form is ready in `base`, operands at the ends of their ranges -/

def any : State → Warp → Iss → Prop := fun _ _ _ => True
def one (r : Nat) : Opd := .regs [r] false
def two (r : Nat) : Opd := .regs [r, r + 1] false

theorem test_meets_integer : ∀ n ∈ ([{ srcs := [one 63, .scope 60], dsts := [0] }, { srcs := [.regs [4] true, .regs [5] true], dsts := [63] },
    { srcs := [.scope 9, one 5, one 63], dsts := [63] }, { srcs := [.scope 59], dsts := [5] }, { srcs := [two 62, two 0], dsts := [62, 63] },
    { srcs := [two 62, .scope 30], dsts := [0, 1] }, { srcs := [one 0, one 63] }, { srcs := [two 0, two 62] }, {}, { dsts := [63] },
    { srcs := [one 63], dsts := [0] }, { srcs := [one 31, one 31], dsts := [31], wlen := 1 }, { srcs := [one 0], dsts := [31], wlen := 1 },
    { dsts := [31], wlen := 1 }] : List Need), Meets base n any := meets_all (u := 4) (by decide +kernel)

theorem test_meets_floating : ∀ n ∈ ([{ srcs := [one 63, .scope 60], dsts := [0], lpb := 8, ae := false }, { srcs := [one 0, one 63], dsts := [63], lpb := 2, ae := false },
    { srcs := [one 0, one 63, one 63], dsts := [63], ae := false }, { srcs := [one 63], dsts := [63], lpb := 4, ae := false },
    { srcs := [two 62, two 0], dsts := [0, 1], lpb := 2, ae := false }, { srcs := [two 62, two 62, two 62], dsts := [62, 63], ae := false },
    { srcs := [two 62], dsts := [62, 63], lpb := 2, ae := false }, { srcs := [one 0, .scope 59], ae := false },
    { srcs := [one 31, one 0], dsts := [31], wlen := 1, ae := false }, { srcs := [two 0, two 62], dsts := [0, 1, 63] }] : List Need),
    Meets base n any := meets_all (u := 4) (by decide +kernel)

/-- No lane of `base` has a flag's trap enabled: what FpActs asks of the flags, whatever they are. -/
theorem test_meets_no_enable : ∀ l < 4, ∀ fl : BitVec 14, ((base.warp 4).lane l).fpctl >>> 9 &&& fl = 0 := by
  have h : ∀ l < 4, ((base.warp 4).lane l).fpctl >>> 9 = 0 := by decide +kernel
  intro l hl fl; rw [h l hl]; simp

/-- O18, the special values: a NaN, infinity, a normal and a subnormal number, zero (R27). -/
theorem test_meets_FloatResults : (0x7F800001 / 2 ^ 23 % 256 = 255 ∧ 0x7F800001 % 2 ^ 23 ≠ 0) ∧ (0x3F800000 < 2 ^ 32 ∧ 0x3F800000 / 2 ^ 23 % 256 ≠ 255 ∧
    0x3F800000 / 2 ^ 23 % 256 ≠ 0) ∧ (1 < 2 ^ 32 ∧ 1 / 2 ^ 23 % 256 ≠ 255) ∧ (0xFF7FFFFF < 2 ^ 32 ∧ 0xFF7FFFFF / 2 ^ 23 % 256 = 254) := by decide

/-- O20. -/
theorem test_meets_accumulators : ∀ n ∈ ([{ srcs := [two 62], scc := false, ae := false, exact := true }, { srcs := [two 0, two 62], scc := false, ae := false, exact := true },
    { srcs := [], scc := false, ae := false, exact := true }] : List Need), Meets base n (fun _ w _ => w.xaWait.contains true = false) :=
  fun n hn => meets (u := 4) (List.all_eq_true.mp (show List.all _ (readyAt base 4) = true by decide +kernel) n hn) (by decide +kernel)
theorem test_meets_xrnd : Meets base { dsts := [62, 63], scc := false, ae := false, exact := true } (fun _ w i => w.xaWait.contains false = false ∧
    ∀ l ∈ i.n, ((w.lane l).fpctl >>> 9 : BitVec 14) &&& (BitVec.setWidth 14 w.xa0.round.flags : BitVec 14) = (0 : BitVec 14)) :=
  meets (u := 4) (by decide +kernel) (by decide +kernel)

/-- O21: lane 0 adds ∞ and −∞ with the invalid flag's trap enabled, the others do not. -/
def trapping : State :=
  (place (fun l => [(12, if l = 0 then 0x7F800000 else 0x3F800000), (13, 0xFF800000)]) []).updWarp 4 (fun w =>
    w.updLane 0 (fun k => { k with fpctl := 0x200 }))
theorem test_meets_InstructionTraps : readyAt trapping 4 { srcs := [one 12, one 13], dsts := [5], ae := false } = true ∧ (trapping.warp 4).kind = .warp ∧
    (issAt trapping 4 {}).handler = false ∧ (issAt trapping 4 {}).n.filter (fun l => let k := (trapping.warp 4).lane l
      k.fpctl >>> 9 &&& ((f32.add k.env (k.val 12).toNat (k.val 13).toNat).flags.setWidth 14 : BitVec 14) ≠ 0) = [0] := by decide +kernel
theorem test_meets_traps : ∀ n ∈ ([{ lpb := 0, ae := false }, { lpb := 0, ae := false, scc := false }] : List Need),
    Meets base n (fun _ w i => w.isAe = false ∧ i.handler = false) := fun n hn =>
  meets (u := 4) (List.all_eq_true.mp (show List.all _ (readyAt base 4) = true by decide +kernel) n hn) (by
    rw [List.mem_cons, List.mem_singleton] at hn; rcases hn with rfl | rfl <;> decide +kernel)

/-- O22: SRD of the first and last register that the table assigns, with gaps between; SRW in a handler and outside one. -/
theorem test_meets_srd : (∀ sr : BitVec 8, sr ∈ [0x00, 0x15, 0x18, 0x1D, 0x20, 0x2F, 0x30, 0x37] → srReadable sr = true) ∧
    Meets base { dsts := [63], lpb := 0, ae := false } (fun _ w _ => w.kind = .warp) := ⟨by decide, meets (u := 4) (by decide +kernel) (by decide +kernel)⟩
def handler : State := base.updWarp 4 (fun w => { w with lanes := Map.mapV w.lanes (fun _ k => { k with prio := 63, pc := 0x00000010 }) })
theorem test_meets_srw : Meets base { srcs := [one 4], lpb := 0, ae := false, handler := false } (fun s w i =>
      (∀ l ∈ i.n, ((w.lane l).val 4).extractLsb' 0 6 ≠ 63) ∧ (∀ l ∈ i.n, (w.lane l).val 4 = (w.lane (i.n.headD 0)).val 4) ∧ w.kind = .warp ∧
      (s.block w.block).det = false) ∧
    Meets handler { srcs := [one 10], lpb := 0, ae := false, handler := true } any ∧
    Meets handler { srcs := [one 4], lpb := 0, ae := false, handler := true } (fun _ w i => i.handler = true ∧
      ∀ l ∈ i.n, (w.lane l).val 4 = (w.lane (i.n.headD 0)).val 4) :=
  ⟨meets (u := 4) (by decide +kernel) (by decide +kernel), meets (u := 4) (by decide +kernel) trivial, meets (u := 4) (by decide +kernel) (by decide +kernel)⟩

/-! #### Control and joins (O23 to O25) -/

/-- A branch to the next group and to the parcel's last halfword; an entry slot; the code address in x8 and x63. -/
theorem test_meets_branches : Meets base { dsts := [63], lpb := 0, prio := 62, jump := 1, branch := true, sent := fun _ => some 0 } (fun s w i =>
    let at_ (off : Int) : Int := ((i.pc.toNat % 65536 + (i.len - 2) : Nat) : Int) + off
    (∀ off ∈ [(-4 : Int), 0, 59], 0 ≤ at_ off ∧ at_ off < (s.parcel w.core w.ctx (i.pc.toNat / 65536)).length) ∧ w.isAe = false) :=
  meets (u := 4) (by decide +kernel) (by decide +kernel)
theorem test_meets_brc : Meets base { lpb := 0, prio := 5, jump := 2, branch := true, sent := fun k => if k.pred 1 != false then some 0 else none } (fun _ w i =>
    w.isAe = false ∧ ∀ l ∈ i.act, ((w.lane l).pred 1 ^^ false) = false) := meets (u := 4) (by decide +kernel) (by decide +kernel)
theorem test_meets_ldca : Meets base { dsts := [0] } any := meets (u := 4) (by decide +kernel) trivial
def slotted : State := base.updCore 0 (fun c => { c with parcels := Map.upd c.parcels 1 (fun p => { p with entries := [(3, (5, 9))] }) })
theorem test_meets_transfers : Meets slotted { srcs := [one 8], dsts := [63], lpb := 0, prio := 0, jump := 8, branch := true, sent := fun k => some (k.val 8) } (fun s w i =>
      w.isAe = false ∧ (∀ l ∈ i.n, ((w.lane l).val 8).toNat / 65536 = i.pc.toNat / 65536) ∧
      (s.mapped w.ctx (((w.lane 0).val 8).toNat / 65536) = true ∧ 2 ≤ (s.parcel w.core w.ctx 1).state ∧ 0x10008 % 65536 < (s.parcel w.core w.ctx 1).length)) ∧
    Meets slotted { srcs := [one 63], lpb := 0, wlen := 1, jump := 8, branch := true, sent := fun k => some (k.val 63) } (fun _ w i =>
      w.isAe = false ∧ ∀ l ∈ i.n, ((w.lane l).val 63).toNat / 65536 = i.pc.toNat / 65536) ∧
    Meets slotted { dsts := [63], lpb := 0, ae := false, jump := 1, branch := true, sent := fun _ => some 0 } (fun s w i =>
      ((1 : Word) <<< 16).toNat / 65536 = i.pc.toNat / 65536 ∧ (s.entrySlot w.core w.ctx 1 3).isSome = true) :=
  ⟨meets (u := 4) (by decide +kernel) (by decide +kernel), meets (u := 4) (by decide +kernel) (by decide +kernel),
    meets (u := 4) (by decide +kernel) (by decide +kernel)⟩

theorem test_meets_idle_and_joins : ∀ n ∈ ([{ lpb := 0, wlen := 1 }, { lpb := 0, wlen := 1, ae := false, yields := true }, { lpb := 0, scc := false, ae := false },
    { lpb := 0, scc := false, ae := false, prio := 62 }, { lpb := 0, scc := false, ae := false, prio := 0, wlen := 1 }] : List Need), Meets base n any :=
  meets_all (u := 4) (by decide +kernel)
theorem test_meets_prefixes : base.cur = some 4 ∧ (base.warp 4).busy = false ∧ (base.warp 4).head.isSome = true ∧
    ((base.warp 4).prefixAt (headAt base 4)).guard = none ∧ ((base.warp 4).prefixAt (headAt base 4)).wait = none ∧
    ((base.warp 4).prefixAt (headAt base 4)).len + (headAt base 4).pc.toNat % 65536 + 1 <
      (base.parcel (base.warp 4).core (base.warp 4).ctx ((headAt base 4).pc.toNat / 65536)).length := by decide +kernel
theorem test_meets_ends : (base.warp 4).kind = .warp ∧ readyAt base 4 { lpb := 0, wlen := 2 } = true ∧ readyAt base 4 { lpb := 0, wlen := 1 } = true ∧
    (∀ l ∈ (issAt base 4 {}).n, ∀ c ∈ ((base.warp 4).lane l).x, ∀ b, c.2.fe ≠ .empty b) ∧
    (headAt base 4).prio ≠ 63 ∧ (∀ l ∈ (issAt base 4 {}).n, ((base.warp 4).lane l).task = none) ∧
    readyAt handler 4 { srcs := [one 4], lpb := 0, ae := false, handler := true, perWarp := true } = true ∧
    (∀ l ∈ (issAt handler 4 {}).n, ((handler.warp 4).lane l).val 4 = ((handler.warp 4).lane 0).val 4) ∧ (((handler.warp 4).lane 0).val 4).getLsbD 2 = true := by
  decide +kernel
theorem test_meets_HandlerForms : Meets handler { lpb := 0, ae := false, handler := true, jump := 1, sent := fun _ => some 0 }
      (fun _ w i => ∀ l ∈ i.n, (w.lane l).task = none) ∧
    Meets handler { srcs := [one 4, one 10], lpb := 0, ae := false, handler := true, perWarp := true } (fun _ w i => ∀ l ∈ i.n, (w.lane l).val 4 = (w.lane (i.n.headD 0)).val 4) ∧
    Meets handler { lpb := 0, ae := false, handler := true } (fun s w _ => (s.ctx w.ctx).debug = false) :=
  ⟨meets (u := 4) (by decide +kernel) (by decide +kernel), meets (u := 4) (by decide +kernel) (by decide +kernel), meets (u := 4) (by decide +kernel) (by decide +kernel)⟩

/-! #### Scopes, lanes together, warps (O26 to O29) -/

/-- A DET block, and a warp that migrated. -/
def det : State := { base with blocks := Map.upd base.blocks 2 (fun b => { b with det := true }) }
def moved : State := base.updWarp 4 (fun w => { w with privB := some [(3, 9)], privC := some [] })

def scopeNeed : Need := { srcs := [one 4], lpb := 0, scc := false, ae := false, atHead := true, perWarp := true }
theorem test_meets_scope_writes : (∀ d ∈ ([0, 7, 8, 23, 24, 39, 40, 47, 48, 59] : List (BitVec 6)), (Instr.movu d (x 4)).wf = true) ∧
    Meets base scopeNeed (fun s w i => (w.walked = false ∨ (s.block w.block).det = false) ∧ (s.block w.block).det = false ∧ w.privB = none ∧ w.privC = none ∧
      (∀ l ∈ i.n, ∀ m ∈ i.n, l / 4 = m / 4 → (w.lane l).val 4 = (w.lane m).val 4) ∧ ∀ l ∈ i.n, (w.lane l).val 4 = (w.lane (i.n.headD 0)).val 4) ∧
    Meets moved scopeNeed (fun s w _ => (s.block w.block).det = false ∧ w.privB.isSome = true) ∧
    Meets det scopeNeed (fun s w _ => w.walked = false ∧ (s.block w.block).det = true ∧ Map.get? w.det 0 = none ∧ Map.get? w.det 15 = none) :=
  ⟨by decide +kernel, meets (u := 4) (by decide +kernel) (by decide +kernel), meets (u := 4) (by decide +kernel) (by decide +kernel),
    meets (u := 4) (by decide +kernel) (by decide +kernel)⟩
theorem test_meets_scope_reads : ∀ i ∈ [0, 7, 8, 23, 24, 39, 40, 47, 48, 59, 60, 61, 62, 63],
    Meets base { srcs := [.scope i], dsts := [15], lpb := 0, scc := false, ae := false } (fun _ w _ => w.kind = .warp ∧ w.privB = none ∧ w.privC = none ∧
      Map.get? w.det (i - 24) = none) := by
  intro i hi
  refine meets (u := 4) ?_ ?_ <;> revert i <;> decide +kernel

def crossed (n : Need) : Need := { n with lpb := 0, scc := false, ae := false, perWarp := true }
theorem test_meets_cross_lane : ∀ n ∈ [crossed { srcs := [one 10], dsts := [63] }, crossed { srcs := [one 10, one 4], dsts := [0] }, crossed { dsts := [5] }, crossed {}],
    Meets base n (fun s w _ => w.walked = false ∨ (s.block w.block).det = false) := fun n hn =>
  meets (u := 4) (List.all_eq_true.mp (show List.all _ (readyAt base 4) = true by decide +kernel) n hn) (.inl (by decide +kernel))
theorem test_meets_elect : Meets base (crossed {}) (fun _ w _ => (w.lanes.map (·.1)).Pairwise (· < ·)) := meets (u := 4) (by decide +kernel) (by decide +kernel)

/-- The little-endian bytes of a value. -/
def le (n v : Nat) : List Nat := (List.range n).map (fun j => v / 256 ^ j % 256)
/-- The descriptor at x2, x3 of lane 0 of agent 4, its field at an offset, and whether it can be read. -/
def desc (s : State) (n : Nat) : List Byte := match s.agentPlaces (s.warp 4) ((s.warp 4).lane 0 |>.pairVal 2) n true false with
  | .inl ks => (s.readRecord 4 0 (((s.warp 4).lane 0).pairVal 2) ks).1
  | .inr _ => []
def fld (s : State) (n off m : Nat) : Nat := leNat (((desc s n).drop off).take m)
def readable (s : State) (n : Nat) : Bool := (match s.agentPlaces (s.warp 4) ((s.warp 4).lane 0 |>.pairVal 2) n true false with
    | .inl ks => !s.recordWaits 4 0 ks
    | .inr _ => false) &&
  (issAt s 4 {}).n.all (fun l => ((s.warp 4).lane l).pairVal 2 == ((s.warp 4).lane 0).pairVal 2) && (((s.warp 4).lane 0).pairVal 2).toNat % n == 0
theorem places_of_readable {s : State} {n : Nat} (h : readable s n = true) :
    ∃ ks, s.agentPlaces (s.warp 4) (((s.warp 4).lane 0).pairVal 2) n true false = .inl ks := by
  simp only [readable, Bool.and_eq_true] at h
  revert h
  split <;> rename_i r hr
  · exact fun _ => ⟨_, hr⟩
  · simp

/-- A grid record: parcel 1, one block of one warp, 64 registers (R189). -/
def gridRecord : List Nat := le 2 1 ++ [0, 0] ++ le 4 1 ++ le 4 1 ++ le 4 1 ++ [1, 1, 255, 64] ++ List.replicate 44 0
def launching : State := (place plain gridRecord).updCtx 0 (fun c => { c with parcels := [(1, ⟨0, 64, 0, false⟩)] })
theorem test_meets_spawn : Meets base { srcs := [one 8, .regs [12, 13, 14, 15] false], lpb := 0, ae := false, atHead := true } (fun s w i =>
      w.kind = .warp ∧ (s.block w.block).migrated = false ∧ w.spawned = 0 ∧ (∀ l ∈ i.n, ((w.lane l).val 8).toNat / 65536 = i.pc.toNat / 65536) ∧
      (s.spawnAll s i.u (i.n.map (fun l => (l, (w.lane l).val 8, (List.range 4).map (fun j => (w.lane l).val (12 + j)))))).1 = i.n) ∧
    Meets base { lpb := 0, scc := false, ae := false, atHead := true } any :=
  ⟨meets (u := 4) (by decide +kernel) (by decide +kernel), meets (u := 4) (by decide +kernel) trivial⟩
theorem test_meets_launch : Meets launching { srcs := [two 2], dsts := [5], lpb := 0, scc := false, ae := false, atHead := true, perWarp := true } (fun s w i =>
      s.released i.u 3 = true ∧ (∀ l ∈ i.n, ((w.lane l).pairVal 2).toNat % 64 = 0 ∧ (s.agentPlaces w ((w.lane l).pairVal 2) 64 true false).isLeft = true) ∧
      s.badRecord w.ctx (desc s 64) = none ∧ (s.block w.block).det = false) ∧
    (launching.warp 4).kind = .warp ∧ launching.mailbag < 4096 ∧ launching.setsUsed < 512 :=
  ⟨meets (u := 4) (by decide +kernel) (by decide +kernel), by decide +kernel⟩
/-- The grid that lane 0's register x10 names is a child of the warp's grid. -/
def parent : State := { place (fun _ => [(10, 9)]) [] with grids := (place plain []).grids ++ [(9, { Grid.absent with parentGrid := some 1, ended := false })] }
theorem test_meets_join : Meets parent { srcs := [one 10], lpb := 0, scc := false, ae := false, inTask := false, perWarp := true } (fun s w i =>
      ∀ h ∈ (i.n.map (fun l => ((w.lane l).val 10).toNat)).eraseDups, Map.has s.grids h = true ∧ (s.grid h).parentGrid = some (s.block w.block).grid) ∧
    Meets parent { srcs := [.scope 60], lpb := 0, scc := false, ae := false, inTask := false, perWarp := true } any :=
  ⟨meets (u := 4) (by decide +kernel) (by decide +kernel), meets (u := 4) (by decide +kernel) trivial⟩

/-- Barriers 0 and 15 of the block, 0 and 3 of the cluster: with the count in x4 (5), and with ALL. -/
theorem test_meets_Barriers : Meets base { srcs := [one 4], lpb := 0, scc := false, ae := false, inTask := false, perWarp := true } (fun s w i =>
      (∀ l ∈ w.lanes, l.1 < 32) ∧ s.loadsDone i.u = true ∧ (∀ k ∈ [0, 15, 16, 19], Map.get? w.barLast k = none) ∧
      (∀ l ∈ i.act, ((w.lane l).val 4).toNat = 5) ∧ 0 < 5 ∧ 5 ≤ 64 ∧
      (∀ k ∈ [0, 15], (Map.getD (s.block w.block).bars k .fresh).expected = none) ∧
      (∀ k ∈ [0, 3], (Map.getD (s.group (s.block w.block).group).bars k .fresh).expected = none) ∧ w.walked = false ∧ (s.block w.block).det = false) ∧
    Meets base { srcs := [.scope 60], lpb := 0, scc := false, ae := false, inTask := false, perWarp := true, wlen := 1 } (fun s _ i => s.loadsDone i.u = true) ∧
    Meets base { lpb := 0, scc := false, ae := false, inTask := false } (fun s w _ => (s.block w.block).det = false) :=
  ⟨meets (u := 4) (by decide +kernel) (by decide +kernel), meets (u := 4) (by decide +kernel) (by decide +kernel),
    meets (u := 4) (by decide +kernel) (by decide +kernel)⟩

/-! #### Memory, labels, queues (O30 to O32) -/

def waits0 (s : State) (w : Warp) (i : Iss) : Prop := s.waitingTasks w i.act = []
theorem test_meets_MemoryIssue : (∀ n ∈ ([{ srcs := [two 2], dsts := [0], mem := true }, { srcs := [two 62], dsts := [60, 61, 62, 63], mem := true },
      { srcs := [two 2, .regs [60, 61, 62, 63] false], mem := true, ae := false }, { srcs := [two 2, one 4], mem := true, ae := false, atHead := true },
      { srcs := [two 2, .regs [4, 5] false], ae := false, atHead := true, mem := true },
      { srcs := [two 2], scc := false, ae := false, exact := true, perWarp := true, mem := true, atHead := true },
      { srcs := [two 2], ae := false, mem := true }, { ae := false, mem := true, perWarp := true },
      { srcs := [two 2, one 4], lpb := 0, ae := false, atHead := true, mem := true }] : List Need),
    Meets base n (fun s w i => (∀ l ∈ i.act, l ∉ s.waitingTasks w i.act) ∧ w.isAe = false ∧ w.kind = .warp ∧ (∀ c < 5, s.released i.u c = true) ∧
      (s.block w.block).det = false ∧ w.xaWait.contains true = false ∧ ∀ l ∈ i.n, ∀ m ∈ i.n, (w.lane l).pairVal 2 = (w.lane m).pairVal 2)) := by
  intro n hn
  refine meets (u := 4) (List.all_eq_true.mp (show List.all _ (readyAt base 4) = true by decide +kernel) n hn) ?_
  have h : ∀ n ∈ ([2, 1] : List Nat), (fun (s : State) (w : Warp) (i : Iss) => (∀ l ∈ i.act, l ∉ s.waitingTasks w i.act) ∧ w.isAe = false ∧ w.kind = .warp ∧
      (∀ c < 5, s.released i.u c = true) ∧ (s.block w.block).det = false ∧ w.xaWait.contains true = false ∧
      ∀ l ∈ i.n, ∀ m ∈ i.n, (w.lane l).pairVal 2 = (w.lane m).pairVal 2) base (base.warp 4) (issAt base 4 { wlen := n }) := by decide +kernel
  simp only [List.mem_cons, List.not_mem_nil, or_false] at hn
  rcases hn with rfl | rfl | rfl | rfl | rfl | rfl | rfl | rfl | rfl <;> exact h 2 (by decide)
theorem test_meets_prf_scc : Meets scc { srcs := [two 2], ae := false, mem := true } (fun _ w _ => w.isScc = true) :=
  meets (u := 4) (by decide +kernel) (by decide +kernel)
/-- An address engine whose x58 pushes to bank 9 and whose x59 is free. -/
def ae : State := { base with warps := Map.upd base.warps 4 (fun w => { w with kind := .ae [none, none, some 9, none] 0 none 1 }) }
theorem test_meets_engine_loads : Meets ae { srcs := [two 2], dsts := [], mem := true } (fun s w i => (∀ l ∈ i.act, l ∉ s.waitingTasks w i.act) ∧
      w.kind = .ae [none, none, some 9, none] 0 none 1 ∧ s.aeLoads i.u < 16) ∧
    Meets ae { srcs := [two 2], dsts := [59], mem := true } (fun s w i => (∀ l ∈ i.act, l ∉ s.waitingTasks w i.act) ∧ w.isAe = true) :=
  ⟨meets (u := 4) (by decide +kernel) (by decide +kernel), meets (u := 4) (by decide +kernel) (by decide +kernel)⟩

/-- Labels 0 to 3 of the block, of 4 × 4 elements of 4 bytes in the scratchpad; lane l holds the handle of label l, and row 3, column 4 × (l mod 2):
in bounds for none of the odd lanes. -/
def aLabel : Label := ⟨2, 0xFE00000000000000, 4, 4, 16, 4, 2, 2, 0xFFFFFFFF, false, true, 0⟩
def labelled : State :=
  (place (fun l => [(2, 0x400), (3, 0xFE000000), (10, 64 + l), (12, 3), (13, 4 * (l % 2))]) []).updCore 0 (fun c => { c with
    labels := (List.range 4).map (fun k => (k, ⟨1, some aLabel⟩)) })
theorem test_meets_labels : ∀ n ∈ ([{ srcs := [one 10, two 12], dsts := [5], mem := true }, { srcs := [one 10, two 12, one 5], mem := true, ae := false }] : List Need),
    Meets labelled n (fun s w i => s.waitingTasks w i.act = [] ∧
      (∀ l ∈ i.n, (s.core w.core).label w.block ((w.lane l).val 10) = some aLabel) ∧ aLabel.trapOut = false ∧ aLabel.esize = 4 ∧
      (∀ l ∈ i.n, 0 ≤ ((w.lane l).val 12).toInt ∧ ((w.lane l).val 12).toInt < 4) ∧ ((w.lane 0).val 13).toInt < 4 ∧ ((w.lane 1).val 13).toInt = 4) := by
  intro n hn
  simp only [List.mem_cons, List.not_mem_nil, or_false] at hn
  rcases hn with rfl | rfl <;> exact meets (u := 4) (by decide +kernel) (by decide +kernel)
/-- A label record: base 0x8000, 3 rows of 5 elements of 2 bytes, pitch 10, tiles of 1 × 1 (R213). -/
def labelRecord : List Nat := le 8 0x8000 ++ le 4 3 ++ le 4 5 ++ le 4 10 ++ [1, 1] ++ le 2 1 ++ List.replicate 8 0
theorem test_meets_lbdef : Meets (place plain labelRecord) { srcs := [two 2], dsts := [63], lpb := 0, ae := false, atHead := true, mem := true, perWarp := true }
    (fun s _ _ => readable s 32 = true ∧ badLabel (desc s 32) = none) := meets (u := 4) (by decide +kernel) (by decide +kernel)
theorem test_meets_lbfree : Meets labelled { srcs := [one 10], lpb := 0, ae := false, atHead := true, perWarp := true } (fun s w i =>
    (∀ l ∈ i.n, ((s.core w.core).label w.block ((w.lane l).val 10)).isSome = true) ∧ (i.n.map (fun l => (w.lane l).val 10)).Nodup) :=
  meets (u := 4) (by decide +kernel) (by decide +kernel)

/-- Bank 36 is a FIFO of the block with one producer and one group; x5 is mapped to it in the second state. -/
def fifo : State := base.updCore 0 (fun c => { c with bank := [(36, ⟨2, none, false, [List.replicate 32 7], 1, some 2, false, false⟩)] })
def queued : State := fifo.updWarp 4 (fun w => { w with qmaps := [⟨5, 36, [], none⟩] })
def queueNeed (srcs : List Opd) : Need := { srcs := srcs, lpb := 0, ae := false, atHead := true, perWarp := true }
theorem test_meets_queues : Meets fifo (queueNeed [one 4]) (fun s w _ => s.fifoRights w 36 = true ∧ w.mapOf 4 = none ∧ w.qmaps.length < 4 ∧
      (∀ x ∈ w.lanes, x.2.place = .ended ∨ ((x.2.cell 4).fe ≠ .empty true ∧ (x.2.cell 4).fe ≠ .empty false)) ∧
      0 < ((s.core w.core).bankOf 36).producers ∧ ((s.core w.core).bankOf 36).fifo.length < 512 ∧ ((s.core w.core).bankOf 36).producers < 255) ∧
    Meets queued (queueNeed []) (fun s w _ => nameable (s.nregs w) 5 = true ∧ w.mapOf 5 = some ⟨5, 36, [], none⟩ ∧ w.mapOf 63 = none) :=
  ⟨meets (u := 4) (by decide +kernel) (by decide +kernel), meets (u := 4) (by decide +kernel) (by decide +kernel)⟩
/-- Bank 5 (x4) to mode 1, and to mode 0 (x0), which it has. -/
theorem test_meets_bankcfg : Meets (place (fun _ => [(4, 5), (6, 1)]) []) { srcs := [one 4, one 6], lpb := 0, ae := false, perWarp := true } (fun s w i =>
      (∀ l ∈ i.n, (w.lane l).val 4 = 5 ∧ (w.lane l).val 6 = 1) ∧ 5 ≤ 36 ∧ (s.core w.core).cfg = none) ∧
    Meets base { srcs := [one 4, one 0], lpb := 0, ae := false, perWarp := true } (fun s w i =>
      (∀ l ∈ i.n, (w.lane l).val 4 = 5 ∧ (w.lane l).val 0 = 0) ∧ (s.core w.core).cfg = none) :=
  ⟨meets (u := 4) (by decide +kernel) (by decide +kernel), meets (u := 4) (by decide +kernel) (by decide +kernel)⟩

/-! #### Engines (O33 to O38) -/

def copyNeed (srcs : List Opd) : Need := { srcs := srcs, lpb := 0, ae := false, atHead := true, mem := true, perWarp := true }
/-- Source 0x30000 in x6, destination 0x50000 in x12, 4096 bytes in x4. -/
def copying : State := place (fun _ => [(4, 4096), (6, 0x30000), (12, 0x50000)]) []
theorem test_meets_cpy : Meets copying (copyNeed [two 12, two 6, one 4]) (fun s w i => (s.block w.block).producer = some w.wix ∧
    (s.copies.filter (fun c => c.2.core == w.core && c.2.cls == 1)).length + i.n.length ≤ 64 ∧ ∀ l ∈ i.n,
      s.rangeTrap w ((w.lane l).pairVal 6) 4096 = none ∧ s.rangeTrap w ((w.lane l).pairVal 12) 4096 = none ∧
      ¬(0 < 4096 ∧ ((w.lane l).pairVal 6).toNat < ((w.lane l).pairVal 12).toNat ∧ ((w.lane l).pairVal 12).toNat < ((w.lane l).pairVal 6).toNat + 4096)) :=
  meets (u := 4) (by decide +kernel) (by decide +kernel)
/-- A CPYD block: destination, source, 4096 bytes, no barrier, a record (R285); with barrier 5 of generation 1 that it credits. -/
def copyBlock (bar flags : Nat) : List Nat := le 8 0x50000 ++ le 8 0x30000 ++ le 4 4096 ++ le 4 bar ++ le 4 flags ++ le 4 0x77
def barred (sp : List Nat) : State := (place plain sp).updCore 0 (fun c => { c with tbars := [(5, ⟨1, some ⟨2, 0, false, 0, 8192, 0, 0, 1, 0, true⟩⟩)] })
theorem test_meets_cpyd : Meets (place plain (copyBlock 0xFFFFFFFF 2)) (copyNeed [two 2]) (fun s w _ => (s.block w.block).producer = some w.wix ∧ readable s 32 = true ∧
      s.copies.length + 1 ≤ 64 ∧ fld s 32 20 4 = 0xFFFFFFFF ∧ fld s 32 24 4 < 4 ∧ fld s 32 24 4 % 2 = 0 ∧
      s.rangeTrap w (BitVec.ofNat 64 (fld s 32 8 8)) (fld s 32 16 4) = none ∧ s.rangeTrap w (BitVec.ofNat 64 (fld s 32 0 8)) (fld s 32 16 4) = none) ∧
    Meets (barred (copyBlock (256 + 5) 1)) (copyNeed [two 2]) (fun s w i => readable s 32 = true ∧ fld s 32 24 4 % 2 = 1 ∧
      (s.tbarOf i.u w (BitVec.ofNat 32 (fld s 32 20 4))).isSome = true) :=
  ⟨meets (u := 4) (by decide +kernel) (by decide +kernel), meets (u := 4) (by decide +kernel) (by decide +kernel)⟩
/-- A GATHD block: 4 rows of 256 bytes, pitch 256 (R287). -/
def gatherBlock : List Nat := le 8 0x50000 ++ le 8 0x30000 ++ le 8 0x40000 ++ le 4 4 ++ le 4 256 ++ le 4 256 ++ le 4 0xFFFFFFFF ++ le 4 0 ++ le 4 0
theorem test_meets_gathd : Meets (place plain gatherBlock) (copyNeed [two 2]) (fun s w _ => (s.agentPlaces w ((w.lane 0).pairVal 2) 48 true false).isLeft = true ∧
    ((w.lane 0).pairVal 2).toNat % 16 = 0 ∧ s.copies.length + 1 ≤ 64 ∧ fld s 48 36 4 = 0xFFFFFFFF ∧ fld s 48 40 4 < 4 ∧ fld s 48 16 8 % 4 = 0 ∧
    fld s 48 24 4 = 4 ∧ fld s 48 28 4 = 256 ∧ s.rangeTrap w (BitVec.ofNat 64 (fld s 48 16 8)) 16 = none ∧
    s.rangeTrap w (BitVec.ofNat 64 (fld s 48 0 8)) 1024 = none) := meets (u := 4) (by decide +kernel) (by decide +kernel)
/-- Tile (0, 0) of lane l's label to tile (0, 1) of label 3, its destination after its source. -/
def tiles : State := (place (fun l => [(10, 64), (11, 65), (14, l % 2), (15, 0)]) []).updCore 0 (fun c => { c with
    labels := [(0, ⟨1, some aLabel⟩), (1, ⟨1, some { aLabel with base := 0xFE00000000000400 }⟩)] })
theorem test_meets_cpyt : Meets tiles (copyNeed [one 10, one 11, .regs [12, 13, 14, 15] false]) (fun s w i => ∀ l ∈ i.n,
    (s.core w.core).label w.block ((w.lane l).val 10) = some aLabel ∧ ((s.core w.core).label w.block ((w.lane l).val 11)).isSome = true ∧
    aLabel.trapOut = false ∧ s.rangeTrap w (aLabel.tileFirst 0 0) (aLabel.tileSpan 0 0) = none) := meets (u := 4) (by decide +kernel) (by decide +kernel)
/-- A COLL block: function 0, mode 1 with 8 chains, type 2, 16 elements in group 5, of which this is rank 0 of 2 (R414). -/
def collBlock : List Nat := [0, 1, 2, 0] ++ le 4 5 ++ le 8 0x30000 ++ le 8 0x50000 ++ le 8 16 ++ le 2 0 ++ le 2 8 ++ List.replicate 28 0
def grouped : State := (place plain collBlock).updCtx 0 (fun c => { c with groups := [(5, ⟨0, 2, 0⟩)] })
theorem test_meets_coll : Meets grouped { srcs := [two 2], lpb := 0, scc := false, ae := false, atHead := true, mem := true, perWarp := true } (fun s w _ =>
    readable s 64 = true ∧ badColl (desc s 64) = none ∧ Map.get? (s.ctx w.ctx).groups (fld s 64 4 4) = some ⟨0, 2, 0⟩ ∧ (s.block w.block).det = false) :=
  meets (u := 4) (by decide +kernel) (by decide +kernel)

/-- Barrier 5 of generation 1 is in x10: initialised, and one whose both needs are reached twice. -/
def tb (b : TBar) : State := (place (fun _ => [(10, 256 + 5), (4, 1)]) []).updCore 0 (fun c => { c with tbars := [(5, ⟨1, some b⟩)] })
theorem test_meets_TransactionBarriers : Meets (tb ⟨2, 0, true, 1, 64, 0, 0, 1, 0, true⟩) (queueNeed [one 10, one 4, one 5]) (fun s w i =>
      s.tbarOf i.u w ((w.lane 0).val 10) = some (0, 5, ⟨2, 0, true, 1, 64, 0, 0, 1, 0, true⟩) ∧ (∀ l ∈ i.n, (w.lane l).val 10 = (w.lane 0).val 10) ∧
      (∀ p ∈ (s.core 0).tbars, (p.2.val.map (·.waits)) = some 0) ∧ 1 ≤ 1 ∧ ((w.lane 0).val 4).toNat ≤ 65535 ∧ (w.lane 0).val 4 ≠ 0) ∧
    Meets (tb ⟨2, 0, true, 1, 64, 0, 0, 1, 0, true⟩) (queueNeed [one 10]) any ∧ Meets base { dsts := [63], lpb := 0, ae := false, atHead := true, perWarp := true } any ∧
    (let y : TBar := ⟨2, 0, true, 1, 64, 2, 130, 1, 0, true⟩; y.init = true ∧ 0 < y.needA + y.needY ∧ TBar.settle (y.a + y.y + 1) y = { y with a := 0, y := 2 }) :=
  ⟨meets (u := 4) (by decide +kernel) (by decide +kernel), meets (u := 4) (by decide +kernel) trivial, meets (u := 4) (by decide +kernel) trivial,
    by decide, by decide, by decide +kernel⟩

/-- A pigeonhole with one record; an argument block with bank 36 for x56 (R300). -/
def boxed : State := { scc with pigeon := [(0, [[1, 2, 3, 4]])] }
theorem test_meets_Pigeonhole : Meets boxed { srcs := [], dsts := [60, 61, 62, 63], lpb := 0, lanes := false, ae := false, atHead := true, perWarp := true }
      (fun s w _ => Map.getD s.pigeon (clusterOf w.core) [] ≠ []) ∧
    Meets boxed { srcs := [.regs [0, 1, 2, 3] false], lpb := 0, lanes := false, ae := false, atHead := true, perWarp := true }
      (fun s w _ => (Map.getD s.pigeon (clusterOf w.core) []).length < 256) ∧
    Meets boxed { dsts := [63], lpb := 0, lanes := false, ae := false, atHead := true, perWarp := true } any :=
  ⟨meets (u := 4) (by decide +kernel) (by decide +kernel), meets (u := 4) (by decide +kernel) (by decide +kernel), meets (u := 4) (by decide +kernel) trivial⟩
def aeBlock : List Nat := [36, 255, 255, 255] ++ List.replicate 60 0
def starting : State := (place plain aeBlock).updCore 0 (fun c => { c with bank := [(36, ⟨2, none, false, [], 1, some 2, false, false⟩)] })
theorem test_meets_AddressEngine : Meets starting (copyNeed [one 8, two 2]) (fun s w i => (∀ l ∈ i.n, (w.lane l).val 8 = (w.lane 0).val 8) ∧
      ((w.lane 0).val 8).toNat / 65536 = i.pc.toNat / 65536 ∧ s.aeOf w.core = none ∧ readable s 64 = true ∧
      ∀ j < 4, fld s 64 j 1 = 255 ∨ (fld s 64 j 1 ≤ 36 ∧ s.fifoRights w (fld s 64 j 1) = true)) ∧ Meets starting (copyNeed []) any :=
  ⟨meets (u := 4) (by decide +kernel) (by decide +kernel), meets (u := 4) (by decide +kernel) trivial⟩

/-- MMA on 8 × 8 × 64 into tile 7 with clear; MMV; DRAIN of tile 0, which holds S32 (R309, R318, R315). -/
def mmaBlock : List Nat := le 8 0x30000 ++ le 8 0x50000 ++ le 4 64 ++ le 4 64 ++ le 2 8 ++ le 2 8 ++ le 4 64 ++ [7, 1] ++ List.replicate 30 0
def matrixNeed0 (srcs : List Opd) : Need := { srcs := srcs, lpb := 0, scc := false, ae := false, atHead := true, mem := true, perWarp := true }
theorem test_meets_mma : Meets (place plain mmaBlock) (matrixNeed0 [two 2]) (fun s w _ => readable s 64 = true ∧ badMma 3 (desc s 64) = none ∧
    badMma 0 (desc s 64) = none ∧ ((s.core w.core).tile (fld s 64 32 1)).owner = none ∧ fld s 64 33 1 % 2 = 1 ∧
    (∀ r ∈ [20, 21], nameable (s.nregs w) r = true ∧ ∀ y ∈ w.lanes, (y.2.cell r).fe = .full) ∧
    s.rangeTrap w (BitVec.ofNat 64 (fld s 64 0 8)) (span 8 64 64) = none ∧ s.rangeTrap w (BitVec.ofNat 64 (fld s 64 8 8)) (span 64 64 8) = none ∧
    (s.core w.core).mq.length < 16) := meets (u := 4) (by decide +kernel) (by decide +kernel)
def mmvBlock : List Nat := le 8 0x30000 ++ le 8 0x50000 ++ le 8 0 ++ le 4 64 ++ le 2 8 ++ le 2 32 ++ [0, 7, 8, 5, 3] ++ List.replicate 27 0
theorem test_meets_mmv : Meets (place plain mmvBlock) (matrixNeed0 [two 2]) (fun s w _ => readable s 64 = true ∧ badMmv (desc s 64) = none ∧
    ((s.core w.core).tile 0).owner = none ∧ ((s.core w.core).tile 7).owner = none ∧ fld s 64 36 1 = 3 ∧
    s.rangeTrap w (BitVec.ofNat 64 (fld s 64 0 8)) (span 8 64 64) = none ∧ s.rangeTrap w (BitVec.ofNat 64 (fld s 64 8 8)) (4 * 8 * 32) = none ∧
    (s.core w.core).mq.length < 16) := meets (u := 4) (by decide +kernel) (by decide +kernel)
def drainBlock : List Nat := le 8 0x30000 ++ le 4 64 ++ [0, 6, 0, 0] ++ List.replicate 16 0
def tiled (sp : List Nat) : State := (place plain sp).updCore 0 (fun c => { c with tiles := [(0, ⟨some 2, 2, 8, 8, [(0, 5)], 0, 0⟩)] })
theorem test_meets_drain : Meets (tiled drainBlock) (matrixNeed0 [two 2]) (fun s w _ => readable s 32 = true ∧ badDrain (desc s 32) 2 8 = none ∧
      ((s.core w.core).tile 0).owner = some w.block ∧ (s.core w.core).projected 0 = (2, 8, 8) ∧ 8 * outNibbles 6 / 2 ≤ fld s 32 8 4 ∧
      drainAllowed 2 6 = true ∧ s.rangeTrap w (BitVec.ofNat 64 (fld s 32 0 8)) (span 8 64 32) = none ∧ (s.core w.core).mq.length < 16) ∧
    Meets (tiled []) (matrixNeed0 []) (fun s w _ => ((s.core w.core).tile 0).owner = some w.block ∧ ((s.core w.core).tile 7).owner = none) ∧
    Meets (tiled []) { srcs := [], dsts := [63], lpb := 0, scc := false, ae := false, atHead := true } any :=
  ⟨meets (u := 4) (by decide +kernel) (by decide +kernel), meets (u := 4) (by decide +kernel) (by decide +kernel), meets (u := 4) (by decide +kernel) trivial⟩

/-- The parcel word 0x00020000 in x10: parcel 2, mapped, with the state given (R326); word 0 in x0: the runtime's. -/
def parcel2 (st : Nat) : State :=
  ((place (fun _ => [(10, 0x00020001)]) []).updCtx 0 (fun c => { c with parcels := [(1, ⟨0, 64, 0, false⟩), (2, ⟨0, 16, 0, false⟩)], quota := 64 })).updCore 0 (fun c =>
    { c with parcels := c.parcels ++ [(2, { Parcel.absent with state := st, gen := 1 })] })
def parcelNeed (srcs : List Opd) (dsts : List Nat) (mem : Bool) : Need :=
  { srcs := srcs, dsts := dsts, lpb := 0, ae := false, atHead := true, mem := mem, perWarp := true }
theorem test_meets_ParcelInstructions : ∀ st < 4, Meets (parcel2 st) (parcelNeed [one 10] [63] true) (fun s w i => (∀ l ∈ i.n, (w.lane l).val 10 = (w.lane 0).val 10) ∧
    Map.has (s.ctx w.ctx).parcels (((w.lane 0).val 10).toNat / 65536) = true ∧ (s.parcel w.core w.ctx 2).state = st) ∧
    Meets (parcel2 st) (parcelNeed [one 10] [] true) any ∧ Meets (parcel2 st) (parcelNeed [one 0] [63] false) any := by
  intro st h
  refine ⟨meets (u := 4) ?_ ?_, meets (u := 4) ?_ trivial, meets (u := 4) ?_ trivial⟩ <;> revert st <;> decide +kernel
theorem test_meets_pload_fits : (parcel2 0).parcelFits 0 2 = true ∧ ((parcel2 0).updCtx 0 (fun c => { c with quota := 0 })).parcelFits 0 2 = false := by decide +kernel

/-- A WALK descriptor: 32 points, entry 0x10008, spawning, window 1, no label (R338). -/
def walkBlock : List Nat := le 4 32 ++ le 4 0x10008 ++ le 8 0 ++ [0, 0, 1, 1] ++ List.replicate 44 0
theorem test_meets_walk : Meets (place plain walkBlock) { srcs := [two 2], dsts := [63], lpb := 0, scc := false, ae := false, atHead := true, mem := true, perWarp := true }
    (fun s w i => readable s 64 = true ∧ badWalk (desc s 64) = none ∧ fld s 64 19 1 % 2 = 1 ∧ fld s 64 16 1 < (s.block w.block).banks.length ∧
      fld s 64 17 1 = 0 ∧ fld s 64 4 4 / 65536 = i.pc.toNat / 65536 ∧ fld s 64 8 8 = 0 ∧ s.loadsDone i.u = true ∧ (s.core w.core).walkSlot.isSome = true) :=
  meets (u := 4) (by decide +kernel) (by decide +kernel)
/-- Walk slot 3 of generation 1, queued, running or complete; its handle is in x10. -/
def aWalk (st : Nat) : Walk := ⟨2, 4, 0, 1, 32, 0x10008, 0, 0, 4, true, false, 4, 0, [], [], 0, 9, st, 0, 0, [], 0, 0, [], none⟩
def walking (st : Nat) : State := (place (fun _ => [(10, 256 + 3)]) []).updCore 0 (fun c => { c with walks := [(3, ⟨1, some (aWalk st)⟩)] })
theorem test_meets_walks : ∀ st < 3, Meets (walking st) (parcelNeed [one 10] [] true) (fun s w i => (∀ l ∈ i.n, (w.lane l).val 10 = (w.lane 0).val 10) ∧
    ((w.lane 0).val 10).toNat / 2 ^ 18 = 0 ∧ ((w.lane 0).val 10).toNat / 4 % 64 = 0 ∧
    (Map.get? (s.core w.core).walks (((w.lane 0).val 10).toNat % 4)) = some ⟨1, some (aWalk st)⟩ ∧ (aWalk st).block = w.block) ∧
    Meets (walking st) (parcelNeed [one 10] [63] false) any ∧ Meets (walking st) (parcelNeed [one 10, one 4] [] false) any := by
  intro st h
  refine ⟨meets (u := 4) ?_ ?_, meets (u := 4) ?_ trivial, meets (u := 4) ?_ trivial⟩ <;> revert st <;> decide +kernel

/-! #### Fences, ticks, tasks, replay (O39 to O41) -/

theorem test_meets_fences : Meets base { lpb := 0, ae := false, mem := true, perWarp := true } (fun s _ i => (∀ c < 5, s.cumDone i.u c s.nextId [] = true) ∧
    s.loadsDone i.u = true ∧ (∀ c < 5, s.released i.u c = true) ∧ s.scopeWrites = [] ∧ ∀ x < 10, ∀ c < 5, s.classDone i.u x c [] = true) :=
  meets (u := 4) (by decide +kernel) (by decide +kernel)
theorem test_meets_ticks : Meets base { dsts := [62, 63], lpb := 0, ae := false, atHead := true, mem := true } any ∧
    Meets base { srcs := [one 4], lpb := 0, ae := false, scc := false, perWarp := true } (fun _ w i => (∀ l ∈ i.n, (w.lane l).val 4 = 5) ∧ 5 ≤ 0x1D) ∧
    Meets base { dsts := [62, 63], lpb := 0, ae := false, scc := false } any ∧ base.fw.stopAt = none ∧
    Meets base { srcs := [one 4], dsts := [62, 63], lpb := 0, ae := false } (fun _ w i => ∀ l ∈ i.n, (w.lane l).val 4 &&& 0xFFFFFEC0 = 0 ∧
      ((w.lane l).val 4).toNat % 64 < 26) :=
  ⟨meets (u := 4) (by decide +kernel) trivial, meets (u := 4) (by decide +kernel) (by decide +kernel), meets (u := 4) (by decide +kernel) trivial, by decide +kernel,
    meets (u := 4) (by decide +kernel) (by decide +kernel)⟩
def taskNeed (srcs : List Opd) (dsts : List Nat) : Need := { srcs := srcs, dsts := dsts, lpb := 0, scc := false, ae := false, perWarp := true }
/-- Each lane runs the task of its number, of timestamps 10 to 13, in an open range. -/
def tasked : State :=
  ({ base with grids := Map.upd base.grids 1 (fun g => { g with range := some ⟨10, 4, 10, [10, 11, 12, 13], false⟩, office := some 0 }) } : State).updWarp 4 (fun w =>
    { w with lanes := Map.mapV w.lanes (fun l k => { k with task := some l }) })
theorem test_meets_TaskInstructions : Meets base { taskNeed [two 4, one 0] [] with inTask := false } (fun s w i => (∀ l ∈ i.n, (w.lane l).pairVal 4 = (w.lane 0).pairVal 4) ∧
      (∀ l ∈ i.n, ∀ r < 32, ((w.lane l).val 0).getLsbD r = true → nameable (s.nregs w) r = true ∧ ((w.lane l).cell r).fe = .full)) ∧
    Meets tasked (taskNeed [] []) (fun _ w i => ∀ l ∈ i.n, (w.lane l).task.isSome = true) ∧ Meets base (taskNeed [] [63]) any :=
  ⟨meets (u := 4) (by decide +kernel) (by decide +kernel), meets (u := 4) (by decide +kernel) (by decide +kernel), meets (u := 4) (by decide +kernel) trivial⟩

/-- Page tables of context 0 that map VA 0x30000 to PA 0x50000, a page of 64 KB that may be read and written (R209, R210). -/
def paged (s : State) : State :=
  { s.updCtx 0 (fun c => { c with root := some 0x4000 }) with
    mem := [(0x4000, 0x01), (0x4001, 0x80), (0x8000, 0x01), (0x8001, 0xC0), (0xC000, 0x01), (0xC002, 0x01), (0x10018, 0x33), (0x1001A, 0x05)] }
theorem test_meets_migrate : (paged copying).place 0 0 .none 0x30000 1 true false = .inl 0x50000 ∧
    Meets (let t := paged copying; { t with blocks := Map.upd t.blocks 2 (fun b => { b with exact := false }) }) { srcs := [two 6], lpb := 0, mem := true, perWarp := true }
      (fun s w i => w.kind = .warp ∧ (s.block w.block).exact = false ∧ w.qmaps = [] ∧ (∀ l ∈ i.frag, (w.lane l).task = none) ∧
        (∀ l ∈ i.n, (w.lane l).pairVal 6 = 0x30000) ∧ i.handler = false ∧ (∀ l ∈ w.liveLanes, l ∈ i.act) ∧ inWindow 0x30000 = false ∧
        s.place w.ctx w.core .none 0x30000 1 true false = .inl 0x50000 ∧ (∀ k < 8, w.tokBusy k = false) ∧ s.released i.u 3 = true ∧
        s.scopeWrites = [] ∧ w.core / 64 = homeDie 0x50000) := ⟨by decide +kernel, meets (u := 4) (by decide +kernel) (by decide +kernel)⟩
/-- A session descriptor: record, log at 0x30000 of 4096 bytes, status at 0x30F00 (R395). -/
def sessionBlock (mode : Nat) : List Nat := [mode, 1] ++ List.replicate 6 0 ++ le 8 0x30000 ++ le 4 4096 ++ le 4 0 ++ le 8 0x30F00 ++ List.replicate 32 0
def aSession : Session := ⟨1, 4, 0x30000, 4096, 0x30F00, [], [], false, false, 0, 0, [], true⟩
theorem test_meets_replay : Meets (place plain (sessionBlock 1)) { srcs := [two 2], lpb := 0, scc := false, ae := false, perWarp := true } (fun s w i =>
      readable s 64 = true ∧ badSession (desc s 64) = none ∧ (s.ctx w.ctx).session = none ∧ s.released i.u 3 = true ∧ fld s 64 0 1 = 1) ∧
    Meets ((paged base).updCtx 0 (fun c => { c with session := some aSession })) { lpb := 0, scc := false, ae := false, perWarp := true } (fun s w _ =>
      (s.ctx w.ctx).session = some aSession ∧ (s.grids.filter (fun g => g.2.parentWarp == some aSession.warp && g.2.inSession)) = [] ∧ s.reqs = []) :=
  ⟨meets (u := 4) (by decide +kernel) (by decide +kernel), meets (u := 4) (by decide +kernel) (by decide +kernel)⟩
/-- A capture of no page, with no room to save one (R398). -/
def captureBlock : List Nat := List.replicate 64 0
def noPage : Capture := ⟨[], [], [], [], false⟩
theorem test_meets_capture : Meets ((place plain captureBlock).updCtx 0 (fun c => { c with captures := [(0xFE00000000000000, noPage)] }))
    { srcs := [two 2], lpb := 0, scc := false, ae := false, perWarp := true } (fun s w i => readable s 64 = true ∧ badCapture (desc s 64) = none ∧
      s.capturePages w (desc s 64) = .inr noPage ∧ s.released i.u 3 = true ∧
      Map.get? (s.ctx w.ctx).captures (((w.lane 0).pairVal 2).toNat) = some noPage ∧ w.children = []) := meets (u := 4) (by decide +kernel) (by decide +kernel)

/-! #### Events (O44 to O60) -/

/-- A request 9 in flight over `paged base`. -/
def flying (r : Req) : State := { paged base with reqs := [(9, r)] }
def aWalkRead (va level table : Nat) : PageWalk := ⟨0, 4, 0, va, level, table⟩
/-- A store's checks are pending, its page found. -/
def checking (bad : List (Nat × Nat)) : State := (paged copying).updWarp 4 (fun w => { w with check := some ⟨.st, [0, 1], [0, 1].map (fun l =>
  ⟨l, 0x30000 + BitVec.ofNat 64 (4 * l), 4, false, true, 7⟩), 2, [], [⟨0, 0x30000, 65536, 0x50000, true, true, false, 4⟩], bad, none, [0, 1], []⟩ })
def noXlat : State := (checking []).updWarp 4 (fun w => { w with check := w.check.map (fun c => { c with xlat := [] }) })
theorem test_meets_TranslationChecks : (flying (.walk (aWalkRead 0x30000 1 0x4000))).pteStep 0 (0x30000 % 2 ^ 57) 1 0x4000 = .next 0x8000 ∧
    (flying (.walk (aWalkRead 0x30000 4 0x10000))).pteStep 0 (0x30000 % 2 ^ 57) 4 0x10000 = .leaf ⟨0, 0x30000, 65536, 0x50000, true, true, false, 4⟩ ∧
    (flying (.walk (aWalkRead 0x40000 4 0x10000))).pteStep 0 (0x40000 % 2 ^ 57) 4 0x10000 = .fault false ∧
    (checking []).checkReady 4 = true ∧ noXlat.checkReady 4 = false ∧
    (let w := (checking []).warp 4; w.isAe = false ∧ (w.check.map (fun c => (c.what, c.lanes, c.acc.filterMap (fun a => (checking []).accessTrap w c a)))) =
      some (.st, [0, 1], []) ∧ (w.lane 1).helper = false ∧ (checking []).waitingTasks w [0, 1] = []) := by decide +kernel

def aStore (cls : Nat) (stage : Stage) (cells : Map Byte) : Store := ⟨cls, 0, 4, 2, 1, 0, cells, stage, [], if stage = .issued then 0 else 7, 0, 0, 0, false, [0]⟩
theorem test_meets_StorePath : (flying (.store (aStore 0 .issued [(0x50000, 7)]))).mayPass 9 (.store (aStore 0 .issued [(0x50000, 7)])) false = true ∧
    isSp 0x50000 = false ∧ (flying (.store (aStore 0 .issued [(spKey 2 0, 7)]))).mayPass 9 (.store (aStore 0 .issued [(spKey 2 0, 7)])) false = true ∧
    isSp (spKey 2 0) = true ∧ (flying (.store (aStore 0 .passed [(0x50000, 7)]))).storeReady 9 (aStore 0 .passed [(0x50000, 7)]) = true := by decide +kernel

def aLoad (serve : Serve) (acc : Option Bool) : Load := ⟨0, 4, 1, [5], 4, false, [0x50000, 0x50001, 0x50002, 0x50003], serve, [(0, 1)], [], acc, none, 0, false, 0, 0, 0⟩
def aFill (passed : Option (Map Byte)) (got : Option (List Byte)) : Fill := ⟨0, 1, 4, 0x1400, passed, got, got.isSome, none, if passed.isSome then 7 else 0, false⟩
def anAtom : Atom := ⟨0, 0, 4, 0, 2, 1, 0, 0, 3, some 5, [⟨0, 0x50000, 1, 0, 0⟩, ⟨1, 0x50000, 2, 0, 0⟩], 1, [], [], [], 0, 7, 0, false, 0⟩
def anXaddm (locked : Bool) : Xaddm := ⟨0, 4, 0, [0], 2, 1, 0, (List.range 552).map (0x50000 + ·), List.replicate 552 1, 0, [0x500, 0x501, 0x502], locked, 7⟩
theorem test_meets_LoadAndAtomicPath : (flying (.load (aLoad .diePoint none))).mayPass 9 (.load (aLoad .diePoint none)) true = true ∧
    (flying (.load (aLoad .home none))).homeLoadReady 9 (aLoad .home none) = true ∧ (aLoad .done none).n = 4 ∧
    (flying (.fill (aFill none none))).mayPass 9 (.fill (aFill none none)) true = true ∧ (aFill (some []) (some [])).stale = true ∧
    (flying (.atom anAtom)).atomReady 9 anAtom = true ∧ (flying (.atom anAtom)).sessionFor anAtom = none ∧
    (flying (.xaddm (anXaddm true))).xaddmReady 9 (anXaddm true) = true := by decide +kernel
theorem test_meets_held : ({ flying (.load (aLoad .diePoint none)) with reqs := [(8, .store { aStore 0 .passed [(0x50000, 7)] with core := 1 }),
    (9, .load (aLoad .diePoint none))] } : State).held (baseDieOfCore 0) 0x50000 = some 7 := by decide +kernel

/-- A scope write under way; lanes that wait at a join, at a barrier, for children that have ended. -/
def writing : State := { base with scopeWrites := [(9, ⟨0, 2, 5, none, 7, 0, 2, 4, 0⟩)] }
def parked (p : Place) : State := base.updWarp 4 (fun w => { w with joins := [(1, 0xF)], lanes := Map.mapV w.lanes (fun _ k => { k with place := p }) })
def atBar (cluster : Bool) : State :=
  let s := parked (.bar cluster 3 2 none)
  let b : Barrier := ⟨2, some none, [4]⟩
  { s with blocks := Map.upd s.blocks 2 (fun k => { k with bars := if cluster then [] else [(3, b)] }),
           groups := Map.upd s.groups 3 (fun k => { k with bars := if cluster then [(3, b)] else [] }) }
theorem test_meets_SynchronisationEvents : (∀ p ∈ writing.scopeWrites, 9 ≤ p.1 ∨ p.2.level ≠ 0 ∨ p.2.owner ≠ 2) ∧ Map.getD ((parked (.join 1)).warp 4).joins 1 0 ≠ 0 ∧
    maskOf ((((parked (.join 1)).warp 4).lanes.filter (fun l => l.2.place == .join 1)).map (·.1)) = Map.getD ((parked (.join 1)).warp 4).joins 1 0 ∧
    (base.warp 4).joinReady 1 = false ∧ (atBar false).barReady false 2 3 = true ∧ (atBar true).barReady true 3 3 = true ∧ base.barReady false 2 3 = false ∧
    2 ∈ (atBar false).barBlocks false 2 ∧ (Map.find? ((parked (.children [])).warp 4).lanes (fun _ y => (parked (.children [])).joinDone y)).isSome = true := by
  decide +kernel

def idle : State := base.updCore 0 (fun c => { c with active := [] })
def binned (n : Nat) (timer : Bool) : State := base.updCore 0 (fun c => { c with bins := [(7, ⟨2, none, 0x10008, List.replicate n [1, 2, 3, 4], false, timer⟩)] })
def limited : State := { base with grids := Map.upd base.grids 1 (fun g => { g with armed := true, info := { g.info with limit := 5 } }) }
def changing (bank mode : Nat) (b : Bank) : State := base.updCore 0 (fun c => { c with bank := [(bank, b)], cfg := some ⟨bank, mode, 4, [0, 1, 2, 3], 2, 1⟩ })
theorem test_meets_CoreEvents : idle.entersReady 4 = true ∧ base.entersReady 4 = false ∧ (binned 3 true).binReady 0 7 = false ∧ (binned 32 false).binReady 0 7 = true ∧
    limited.limitReady 1 = true ∧ base.limitReady 1 = false ∧
    -- a bank that left CACHE, one that changes at once, one that keeps its mode, one that cannot change
    (let s := changing 5 1 ⟨0, none, false, [], 0, none, false, true⟩; s.bankHeld 0 5 = false ∧ ((s.core 0).bankOf 5).stopping = true) ∧
    (changing 5 0 ⟨1, none, false, [], 0, none, false, false⟩).bankFree 0 5 0 = true ∧ (changing 5 1 ⟨1, none, false, [], 0, none, false, false⟩).bankFree 0 5 1 = true ∧
    (changing 5 0 ⟨1, some 3, false, [], 0, none, false, false⟩).bankFree 0 5 0 = false := by decide +kernel

/-- TASKRNG and TASKBEG at the office; the head ended and not ready, then ready. -/
def asking (ts : List (Nat × Nat × Word)) (range : Option (Nat × Nat)) (open_ : Option Range) : State :=
  ({ base with grids := Map.upd base.grids 1 (fun g => { g with range := open_ }) } : State).updWarp 4 (fun w => { w with hold := some (.office [0, 1] 2 ts range) })
def ended (ready : Bool) : State :=
  ({ base with grids := Map.upd base.grids 1 (fun g => { g with range := some ⟨10, 4, 10, [10], ready⟩ }) } : State).updCore 0 (fun c => { c with
    tasks := [(0, ⟨1, 10, 4, 0, ⟨0x10004, 5, 0, 0, [], 0x10004, 5⟩, [], 0, 0, true, false, 0, [], []⟩)] })
theorem test_meets_TaskEvents : (0 < 4 ∧ 10 + 4 ≤ 2 ^ 64 ∧ (((asking [] (some (10, 4)) none).grid 1).range = none)) ∧ 2 ^ 64 < (2 ^ 64 - 1) + 2 ∧
    (let r : Range := ⟨10, 4, 10, [], false⟩; (∀ t ∈ ([(0, 10, 0), (1, 13, 0)] : List (Nat × Nat × Word)), r.t0 ≤ t.2.1 ∧ t.2.1 < r.t0 + r.count ∧ r.next ≤ t.2.1 ∧ t.2.1 ∉ r.begun) ∧
      (([(0, 10, 0), (1, 13, 0)] : List (Nat × Nat × Word)).map (·.2.1)).Nodup) ∧
    (ended false).commitStartReady 1 = true ∧ base.commitStartReady 1 = false ∧ (ended true).commitReady 1 = true ∧ ((ended true).endedHead 1).isSome = true := by
  decide +kernel

/-- An enforcing session whose line 0x500 asks for another requester; a page watched, with a store that waits to be performed. -/
def enforcing : State := (flying (.atom anAtom)).updCtx 0 (fun c => { c with session := some { aSession with mode := 2, lines := [(0x500, [9, 0])] } })
def watched : State := (flying (.store (aStore 0 .passed [(0x50000, 7)]))).updCtx 0 (fun c => { c with captures := [(0, ⟨[5], [6], [], [], false⟩)] })
def restanteWait : State := base.updWarp 4 (fun w => { w with hold := some (.restante [0, 1] 2 3) })
theorem test_meets_ReplayAndMigrationEvents : (enforcing.enforcedWait 0 0x500).isSome = true ∧ base.enforcedWait 0 0x500 = none ∧ watched.pageWaits 0 5 = true ∧
    base.pageWaits 0 5 = false ∧ (restanteWait.warp 4).hold = some (.restante [0, 1] 2 3) ∧ Memory.wf (paged base).mem = true ∧ (5 : Nat) ≠ 6 := by decide +kernel

/-- A grid of one block that waits to be placed on core 0, online and empty; the same for a cluster of 4, and for a rectangle of 2 × 2. -/
def empty (info : GridRec) (cores : List Nat) : State :=
  cores.foldl (fun s c => s.updCore c (fun k => { k with online := true })) (({ State.reset with
    nextId := 50, grids := [(1, { Grid.absent with info := info, pendSeq := 1, ended := false })] } : State).updCtx 0 (fun c => { c with
      quota := 64, parcels := [(1, ⟨0, 64, 0, false⟩)] }))
def small : GridRec := GridRec.seed 1 0 0 0 0 0 false
theorem test_meets_BlockPlacement : (empty small []).placeReady 1 = false ∧ (empty small [0]).placeReady 1 = true ∧ (empty small [0]).pendingItem 1 = some (.new [0]) ∧
    ((empty small [0]).placeFor 1 (.new [0])).isSome = true ∧
    ((empty { small with dimx := 4, cluster := 4 } [coreAt 0 0, coreAt 0 1, coreAt 0 2, coreAt 0 3]).placeFor 1 (.new [0, 1, 2, 3])).isSome = true ∧
    ((empty { small with rectW := 1, rectH := 1 } ((List.range 4).map (coreAt 0))).placeFor 1 (.new [0])).isSome = true := by decide +kernel

/-- Block 2 waits for child 9 while grid 20, which needs all five banks of scratchpad, waits for a place. -/
def crowded : State :=
  let s := (parent.updWarp 4 (fun w => { w with lanes := Map.mapV w.lanes (fun _ k => { k with place := .children [9] }) })).updCore 0 (fun c =>
    { c with bank := [(36, { Bank.initial 36 with alloc := some 3 })] })
  { s with grids := Map.put (Map.upd s.grids 9 (fun g => { g with next := 1 })) 20 { Grid.absent with info := { small with scratch := 327680 }, pendSeq := 9, ended := false } }
theorem test_meets_BlockSwapsAndVacates : crowded.swapOutReady 2 = true ∧ (crowded.blocks.map (·.1)).Nodup ∧ base.swapOutReady 2 = false ∧ base.swapInFor 2 = none ∧
    (base.ctx 0).away = false ∧ ((base.updCtx 0 (fun c => { c with away := true })).ctx 0).away = true ∧ base.vacatedReady 0 = false ∧
    (base.updCore 0 (fun c => { c with vacating := [0] })).vacatedReady 0 = true ∧ (State.reset.core (32 * 7)).online = false ∧ (base.core (32 * 0)).online = true ∧
    base.fw.vacates = [] ∧ State.reset.blocks = [] := by decide +kernel
/-- The same block saved, its child ended. -/
def waiting : State := { crowded.saveBlock 2 true with grids := [(1, (crowded.saveBlock 2 true).grid 1)] }
theorem test_meets_swapIn : (waiting.swapInFor 2).isSome = true ∧ (Map.get? waiting.saved 2).isSome = true := by decide +kernel

/-- A copy of so many bytes from 0x30000 to 0x30100, and of a window address that names block 6, ended or saved. -/
def aCopy (bytes : Nat) (fault : Option (Nat × Dword)) (status : Option Nat) (writes : List Nat) : Copy :=
  ⟨0, 4, 2, 1, 0, 1, 0x30100, bytes, .linear 0x30000, none, 0, false, 0, 0, fault, status, writes, [(0, 6)]⟩
def copies (c : Copy) : State := { paged base with copies := [(9, c)] }
def windowed : Copy := { aCopy 8 none none [] with shape := .linear 0xFE00000000000000 }
def targetSaved (s : State) : State := { s with saved := [(6, ⟨0, Block.absent, [], [], [], [], [], [], [], [], [], false⟩)] }
theorem test_meets_CopyEvents : (copies (aCopy 8 none none [])).chunkReady 9 = true ∧ (copies (aCopy 8 (some (8, 0)) none [])).chunkReady 9 = false ∧
    (copies (aCopy 8 none none [3])).writesAcked [3] = true ∧ (copies (aCopy 8 none none [])).resting 2 = false ∧ 4096 * 0 < 8 ∧
    (copies (aCopy 8 none none [])).transferring 9 (aCopy 8 none none []) = true ∧
    (match (copies (aCopy 8 none none [])).copyChunk (aCopy 8 none none []) with
      | .inl m => !m.isEmpty && !((copies (aCopy 8 none none [])).engineWrite 1 0 2 1 0 m).1.isEmpty | .inr _ => false) = true ∧
    (match (copies (aCopy 8 none none [])).copyChunk { aCopy 8 none none [] with dst := 0xFE00000000000100, tgts := [(0, 2)] } with
      | .inl m => ((copies (aCopy 8 none none [])).engineWrite 1 0 2 1 0 m).1.isEmpty | .inr _ => false) = true ∧
    (let c := { aCopy 8 none none [] with shape := .linear 0x40000 }; (match (copies c).copyChunk c with
      | .inr t => (engineStatus t).isNone && !(copies c).engineWaits c.eng t | .inl _ => false) = true) ∧
    (let c := { aCopy 8 none none [] with shape := .linear 0x0200000000000000 }; (match (copies c).copyChunk c with
      | .inr t => (engineStatus t).isSome && !(copies c).engineWaits c.eng t | .inl _ => false) = true) ∧
    (match (copies windowed).copyChunk windowed with | .inr t => engineStatus t == some 4 && !(copies windowed).engineWaits windowed.eng t | .inl _ => false) = true ∧
    (match (targetSaved (copies windowed)).copyChunk windowed with | .inr t => (targetSaved (copies windowed)).engineWaits windowed.eng t | .inl _ => false) = true ∧
    (copies (aCopy 0 none none [])).copyReady 9 = true ∧ (copies (aCopy 8 none none [])).copyReady 9 = false ∧ (copies (aCopy 8 none (some 2) [])).copyReady 9 = true := by
  decide +kernel

def aCmd (op : MOp) (started : Bool) (status : Option Nat) : MCmd := ⟨op, 0, 2, 1, 4, 0, 0, false, 0, 0, started, none, none, status, [], 0, 9, (2, 1), []⟩
/-- An MMV of 2 × 2 weights in bf16 at an address, its vector as given. -/
def anMmv (w : Dword) (load : Bool) (vec : Dword) : MOp := .mmv 5 w vec 0 16 2 2 0 1 1 load true
def run0 (started : Bool) (status : Option Nat) : MCmd := aCmd (anMmv 0x30000 false 0) started status
def bad0 (started : Bool) : MCmd := aCmd (anMmv 0x0200000000000000 false 0) started none
def noVec : MCmd := aCmd (anMmv 0x30000 true 0x0200000000000000) false none
def aDrain (accum absmax : Bool) : MOp := .drain 0x30000 64 0 0 accum absmax false 0 0x30F00 0
def commands (q : List MCmd) (d : Map MCmd) : State := { (paged (tiled [])).updCore 0 (fun c => { c with mq := q }) with drains := d }
def head0 (q : List MCmd) : Option (List MCmd × MCmd × List MCmd) := mulHead [] ((commands q []).core 0).mq
/-- A DRAIN of another tile that an earlier MMA's operand meets. -/
def before : MCmd := { aCmd (.drain 0x30000 64 2 0 false false false 0 0 0) false none with seq := 5 }
theorem test_meets_MatrixEvents : (commands [] []).kstepReady 0 = false ∧ (commands [run0 false none] []).kstepReady 0 = true ∧
    head0 [before, run0 false none] = some ([before], run0 false none, []) ∧
    (commands [before, run0 false none] []).heldByDrain (run0 false none) (run0 false none).reads = true ∧
    (run0 true (some 1)).over = true ∧ (run0 false (some 1)).over = true ∧ (run0 false none).over = false ∧
    (commands [run0 true (some 1)] []).kstepReady 0 = true ∧ (commands [run0 false (some 1)] []).kstepReady 0 = true ∧
    (commands [run0 true none] []).kstepReady 0 = true := by decide +kernel
/-- Whether a command's start succeeds, and then its first step. -/
def starts (s : State) (m : MCmd) : Option Bool := match s.matrixBegin (s.core 0) m with | .inl p => some (s.matrixStep p.1 m).isLeft | .inr _ => none
/-- Whether the next step of a command that has started succeeds. -/
def goesOn (s : State) (m : MCmd) : Bool := (s.matrixStep (s.core 0) m).isLeft
theorem test_meets_MatrixSteps : starts (commands [] []) (run0 false none) = some true ∧ starts (commands [] []) (bad0 false) = some false ∧
    (commands [noVec] []).kstepReady 0 = true ∧ (commands [bad0 false] []).kstepReady 0 = true ∧ (commands [bad0 true] []).kstepReady 0 = true ∧
    starts (commands [] []) noVec = none ∧ goesOn (commands [] []) (run0 true none) = true ∧ goesOn (commands [] []) (bad0 true) = false := by decide +kernel
theorem test_meets_DrainStarts :
    (commands [] []).drainHead 0 = none ∧ (commands [aCmd (aDrain false false) false none] []).drainHead 0 = some ([], aCmd (aDrain false false) false none, []) ∧
    (commands [aCmd (aDrain false false) false none] [(9, aCmd (aDrain false false) true none)]).drainHead 0 = none ∧
    (commands [aCmd (.maclr 0) false none] []).beingRead 0 0 = false ∧ (commands [] [(9, aCmd (aDrain false false) true none)]).beingRead 0 0 = true ∧
    (commands [] []).drainReady 9 = false := by
  decide +kernel
theorem test_meets_Drains : (let m := aCmd (aDrain false false) true none; (commands [] [(9, m)]).drainReady 9 = true ∧ m.drainNext = .row ∧
      ((commands [] [(9, m)]).rowPlaces m (vaRange 0x30000 4) false).isLeft = true ∧
      (let s : State := { commands [] [(9, m)] with mem := [] }; s.drainReady 9 = true ∧ (s.rowPlaces m (vaRange 0x30000 4) false).isLeft = false)) ∧
    (let m := aCmd (aDrain true false) true none; m.accumulates = true ∧ m.drainNext = .row ∧ (commands [before] [(9, m)]).heldByDrain m (m.rowVas m.row) = true) ∧
    (let m := { aCmd (aDrain false false) true none with row := 2 }; (commands [] [(9, m)]).drainReady 9 = true ∧ m.drainNext = .done) ∧
    (let m := { aCmd (aDrain false true) true none with row := 2, amx := some 5 }; (commands [] [(9, m)]).drainReady 9 = true ∧ m.drainNext = .amax ∧
      ((commands [] [(9, m)]).rowPlaces m (vaRange 0x30F00 4) true).isLeft = true) := by
  decide +kernel
/-- What stops a command: a window whose block is saved, a fault that the firmware serves, one that it cannot. -/
theorem test_meets_mStop : (let s := targetSaved base; let e : Eng := ⟨0, 0, 2, [(0, 6)]⟩; s.engineWaits e ⟨0x0B, 0xFE00000000000000, 0⟩ = true ∧
    s.engineWaits e ⟨0x08, 0x30000, 0⟩ = false ∧ s.engineWaits e ⟨0x09, 0x0200000000000000, 0⟩ = false) ∧ engineStatus ⟨0x08, 0x30000, 0⟩ = none ∧
    engineStatus ⟨0x09, 0x0200000000000000, 0⟩ = some 2 := by decide +kernel

/-- A PLOAD that completes; a load at the head; a parcel that closes; a walk queued, running with nothing out, with points out, and ended. -/
def ploading : State := { parcel2 2 with pwaits := [⟨0, 2, 4, 0, false, 0x00020001, 0, some 0⟩] }
def loading : State := (parcel2 1).updCore 0 (fun c => { c with loads := [2] })
def run (w : Walk) : State := base.updCore 0 (fun c => { c with walks := [(3, ⟨1, some w⟩)] })
theorem test_meets_ParcelAndWalkEvents : (ploading.pwaitReady 0).isSome = true ∧ loading.pwaitReady 0 = none ∧ (loading.core 0).loads = [2] ∧ loading.loadReady 0 = some 2 ∧
    ((parcel2 3).parcel 0 0 2).state = 3 ∧ (parcel2 3).occupancy 0 0 2 = 0 ∧ loading.parcelInfo 2 = some ⟨0, 16, 0, false⟩ ∧
    (let i : ParcelInfo := ⟨0x30000, 16, 0, false⟩; ((paged loading).parcelBytes 0 2 (parcelVas i 256)).isLeft = true ∧ (loading.parcelBytes 0 2 (parcelVas i 256)).isLeft = false) ∧
    (run (aWalk 0)).walkStartable 0 3 = true ∧ (run (aWalk 2)).walkStartable 0 3 = false ∧ (run { aWalk 0 with cancel := 5 }).walkStartable 0 3 = true ∧
    (run (aWalk 1)).roundReady 0 = true ∧ (run (aWalk 0)).roundReady 0 = false ∧ (run (aWalk 1)).walkAlive (aWalk 1) = true ∧ ((run (aWalk 1)).core 0).running.isSome = true ∧
    (run { aWalk 1 with out := [(1, 2, 3)] }).roundReady 0 = true ∧ (run { aWalk 1 with issued := 32 }).roundReady 0 = true ∧
    (let w := { aWalk 1 with spawn := false, fifo := 36, out := [(1, 2, 3)] }; let s := (run w).updCore 0 (fun c => { c with bank := [(36, ⟨2, none, false, [], 1, some 2, false, false⟩)] })
      s.walkFifo 0 w = true ∧ s.roundReady 0 = true) := by decide +kernel

/-- Lanes that wait for the firmware with a cause; engines with a fault that awaits service. -/
def served (cause : Word) : State := base.updWarp 4 (fun w => { w with lanes := Map.mapV w.lanes (fun _ k => { k with place := .tsvc, prio := 63, tcause := cause }) })
def servedScc : State := { served 0x08 with warps := Map.upd (served 0x08).warps 4 (fun w => { w with kind := .scc 0 }) }
def faulted : State := { base.updCore 0 (fun c => { c with
    mq := [{ run0 true none with fault := some (8, 0x40000) }], loads := [2], parcels := c.parcels ++ [(2, { Parcel.absent with state := 1, fault := some 8 })]
    walks := [(3, ⟨1, some { aWalk 1 with fault := some (8, 0x40000) }⟩)] }) with
  copies := [(9, aCopy 8 (some (8, 0x40000)) none [])], drains := [(10, { aCmd (aDrain false false) true none with fault := some (9, 0) })] }
def aeFault : State := ae.updWarp 4 (fun w => { w with check := some ⟨.aeLd 5 2, [0], [], 2, [], [], [], some 8, [0], []⟩ })
theorem test_meets_ServiceReplies : ((Map.get? faulted.copies 9).bind (·.fault)) = some (8, 0x40000) ∧ ((Map.get? (copies (aCopy 8 none none [])).copies 9).map (·.fault)) = some none ∧
    ((Map.get? faulted.drains 10).bind (·.fault)) = some (9, 0) ∧ ((faulted.core 0).mq.head?.bind (·.fault)) = some (8, 0x40000) ∧
    ((faulted.core 0).running.bind (fun x => x.2.fault)) = some (8, 0x40000) ∧ (faulted.core 0).loads = [2] ∧
    (Map.getD (faulted.core 0).parcels 2 .absent).fault = some 8 ∧ aeFault.aeOf 0 = some 4 ∧ ((aeFault.warp 4).check.bind (·.fault)) = some 8 ∧
    (served 0x08).replied ((served 0x08).warp 4) 0xF .resume = [0, 1, 2, 3] ∧ (served 0x08).replied ((served 0x08).warp 4) 0x5 (.finish 7 0) = [0, 2] ∧
    (served 0x08).replied ((served 0x08).warp 4) 0xF (.finish 5 0) = [] ∧ (servedScc.warp 4).kind = .scc 0 ∧
    servedScc.replied (servedScc.warp 4) 0xF (.finish 7 0) ≠ [] := by decide +kernel

def broken : State := base.updWarp 4 (fun w => { w with bp := some (0x10004, [0, 1]) })
def stopping (at_ : Option (BitVec 64)) (stopped : Bool) : State := { base with tick := 5, fw := { base.fw with stopAt := at_, stopped := stopped } }
theorem test_meets_DebugEvents : (broken.warp 4).bp = some (0x10004, [0, 1]) ∧ (broken.warp 4).check = none ∧ [0, 1].filter (fun l => ((broken.warp 4).lane l).ready) = [0, 1] ∧
    (base.warp 4).bp = none ∧ (∀ p ∈ (base.warp 4).lanes, p.2.task = none) ∧ (stopping (some 9) false).tick ≤ 9 ∧ (stopping (some 9) false).fw.stopped = false ∧
    (4 : BitVec 64) < (stopping none false).tick ∧ (stopping (some 9) true).fw.stopped = true ∧ (.debugStopRelease ∉ (stopping (some 9) true).inputs) ∧
    (base.core 0).online = true ∧ (0x50000 : Nat) % 4096 = 0 ∧ base.mappable 0x50000 = true ∧ base.mappable (0x50000 + 4096 * 2 ^ 16 - 1) = true := by decide +kernel

theorem test_meets_ErrorEvents : (base.core 0).online = true ∧ (base.core 0).fenced = false ∧ (base.core 1).online = false ∧ (idle.coreBlocks 1) = [] ∧ base.fw.vacates = [] ∧
    (idle.blocks.map (·.1)).Nodup ∧ (idle.warps.map (·.1)).Nodup ∧ (base.grids.map (·.1)).Pairwise (· < ·) ∧ (∀ p ∈ base.grids, p.1 < base.nextId) ∧ (base.blocks.map (·.1)).Nodup ∧ (base.warps.map (·.1)).Nodup ∧
    (base.block 2).core = 0 ∧ Map.has base.blocks 2 = true ∧ Map.has base.grids (base.block 2).grid = true ∧ (base.grid (base.block 2).grid).ended = false ∧
    (base.grid (base.block 2).grid).status = none ∧ base.liveWarps 2 ≠ [] ∧ (scc.warps.map (·.1)).Nodup ∧ (scc.warp 4).kind = .scc 0 ∧ (scc.warp 4).live = true ∧
    0 ∉ base.fw.failedPeers ∧ base.sccReady 0 none = true ∧ base.sccReady 0 (some 1) = true ∧ scc.sccReady 0 none = false := by decide +kernel

/-- Queue 1 of context 0, whose next packet has the bytes given at 0x20000. -/
def queue (p : List Nat) (taken : List Packet) : State :=
  { (paged base).updCtx 0 (fun c => { c with images := [0] }) with
    arr := (p.zipIdx.filter (fun x => x.1 != 0)).map (fun x => (0x20000 + x.2, BitVec.ofNat 8 x.1))
    queues := [(1, ⟨0x20000, 4, 0, 2, 1, 1, 0, false, taken⟩)] }
def waitPacket (operand : Dword) : Packet := packetOf 0 ([2, 0, 0, 0, 0, 0, 0, 3] ++ (le 8 0x30000 ++ le 8 operand.toNat ++ List.replicate 40 0).map (BitVec.ofNat 8 ·))
theorem test_meets_QueueEvents : (∀ o, Map.get? base.queues 5 = some o → o.taken = []) ∧ (0x1000 : Nat) % 4096 = 0 ∧ ((queue [] []).queues.map (·.1)).Nodup ∧
    ((queue [1] []).taking 1 1).isSome = true ∧ badPacket ((queue [1] []).packetBytes ⟨0x20000, 4, 0, 2, 1, 1, 0, false, []⟩) = false ∧ (queue [1] []).setFree [] = true ∧
    ((queue [1, 0, 1] []).taking 1 1).isSome = true ∧ badPacket ((queue [1, 0, 1] []).packetBytes ⟨0x20000, 4, 0, 2, 1, 1, 0, false, []⟩) = true ∧
    ((queue [1] []).registerImage 0 0).isSome = true ∧ ((queue [2] []).taking 1 2).isSome = true ∧ ((queue [3, 0, 0, 0, 0, 0, 0, 0, 0, 0, 3] []).taking 1 3).isSome = true ∧
    ((queue [3] []).place 0 0 .none 0x30000 8 true true).isLeft = true ∧ (queue [] []).waitReady 1 9 = none := by decide +kernel
theorem test_meets_waitReady : ((queue [] [waitPacket 0]).waitReady 1 0).map (fun x => x.2.getLsbD 63) = some false ∧
    (({ queue [] [waitPacket 0] with arr := [(0x50007, 0x80)] } : State).waitReady 1 0).map (fun x => x.2.getLsbD 63) = some true := by decide +kernel

theorem test_meets_ContextAndFirmwareEvents : (0x4000 : Nat) % 16384 = 0 ∧ isHbm 0x4000 = true ∧ isHbm (2 ^ 39) = false ∧ base.invalidateReady 0 = true ∧
    (flying (.walk (aWalkRead 0x30000 1 0x4000))).invalidateReady 0 = false ∧ State.reset.fw.booted = false ∧ (50 : Nat) < State.reset.fw.clockMhz ∧
    (({ State.reset with fw := { State.reset.fw with booted := true } } : State).fw.active).2 ≤ 1 := by decide +kernel

def paired : State := { paged base with fw := { base.fw with qps := [(3, 1024)], received := [(3, [1, 2])] } }
def aColl (status : Option Nat) (writes : Option (List Nat)) : Coll := ⟨0, 4, 2, 1, 0, 0, 0, 1, 2, 0, 5, 0x30000, 0x30100, 4, 0, 8, 0, false, 0, 0, status, writes, [], 0⟩
theorem test_meets_LinkEvents : peerOk .load 0x50000 256 = true ∧ peerOk .store 0x50008 8 = true ∧ peerOk (.atomic 0 0) 0x50004 4 = true ∧ peerOk .load 0x500FF 2 = false ∧
    base.contained 0x50000 = false ∧ Map.has paired.fw.qps 3 = true ∧ Map.has base.fw.qps 3 = false ∧ (paired.places 0 0 .none 0x30000 2 false true).isLeft = true ∧
    (paired.places 0 0 .none 0x40000 2 false true).isLeft = false ∧ (paired.fw.received.find? (fun m => m.1 == 3)).isSome = true ∧ isHost (2 ^ 46) = true ∧
    ({ base with colls := [(9, aColl none none)] } : State).collReady 9 = true ∧ ({ base with colls := [(9, aColl (some 2) none)] } : State).collReady 9 = true ∧
    base.collReady 9 = false := by decide +kernel


/-! ### Decoding: the words that the spec writes out as examples -/

/-- The words of the worked examples of the instruction files, R128 to R427 and 23_program_counter_replay.md. -/
theorem test_decode_spec_examples_scalar : reads
    [(32, 0x00545433, .ffma 21 ⟨20, false, false⟩ ⟨1, false, false⟩), (32, 0x14051263, .cvt 4 ⟨5, false⟩ 0 2 1 false),
     (32, 0x01C67B03, .dot4E4m3 30 ⟨6, false, false⟩ ⟨7, false, false⟩), (32, 0x01210207, .ld 4 ⟨8, false⟩ 2 2),
     (32, 0x06A10227, .ldo 4 ⟨8, false⟩ 2 1 3), (32, 0x072142B7, .sto 5 ⟨10, false⟩ 2 3), (32, 0x012105B7, .sto 11 ⟨8, false⟩ 2 0),
     (32, 0x00210AA7, .ldo 21 ⟨8, false⟩ 2 0 0), (32, 0x55A18347, .atom 6 ⟨12, false⟩ 2 3 true 10),
     (32, 0x01A10547, .atom 10 ⟨8, false⟩ 2 3 false 0), (32, 0x00A10597, .st 11 ⟨8, false⟩ 2 1),
     (32, 0x00C1CE17, .st 28 ⟨14, false⟩ 4 1), (32, 0x0041CC07, .ld 24 ⟨14, false⟩ 4 0), (32, 0x00420C17, .st 24 ⟨16, false⟩ 4 0),
     (32, 0x0B186003, .fadd 24 ⟨24, false, false⟩ ⟨44, false, false⟩), (16, 0xE62C, .fadd16 24 28),
     (32, 0x3F3D2711, .cmpZ 1 1 ⟨61, true, false⟩ ⟨60, true, false⟩), (32, 0x3F3F2B11, .cmpZ 1 2 ⟨63, true, false⟩ ⟨60, true, false⟩),
     (32, 0x08414685, .sel 6 ⟨5, false⟩ ⟨4, false⟩ 2 false), (32, 0xFFF40319, .brc (-3) 0x40 false 3),
     (32, 0x00180C19, .brc 6 0 true 4), (32, 0x00148039, .callp 0x52 0), (32, 0x00249B75, .cmpi 3 3 ⟨18, false⟩ 1),
     (32, 0x060C5973, .dfma 22 ⟨12, false⟩ ⟨24, false⟩), (32, 0x029C79B3, .ddiv 30 ⟨28, false⟩ ⟨10, false⟩),
     (32, 0x0030CC07, .ld 24 ⟨6, false⟩ 3 0), (32, 0x0030CF17, .st 30 ⟨6, false⟩ 3 0), (32, 0x00004067, .prf ⟨2, false⟩),
     (16, 0x0086, .guard false 2), (16, 0x024A, .waitk 9), (16, 0x00C6, .guard false 3), (16, 0x020A, .waitk 8)] = true := by decide +kernel

theorem test_decode_spec_examples_package : reads
    [(32, 0x0000AC0F, .fence 2 true 3), (32, 0x0000041F, .fencex 1 0 0), (32, 0x000C0C1F, .fencex 3 0 3),
     (32, 0x028800EF, .taskrng ⟨8, false⟩ ⟨10, false, false⟩), (32, 0x2F0400CF, .taskbeg ⟨4, false⟩ ⟨60, true, false⟩),
     (32, 0x000000DF, .taskend), (32, 0x000014FF, .taskq 5), (32, 0x1288100D, .cpy 4 8 10 1 false),
     (32, 0xA008001D, .cpyd 8 2 true), (32, 0x0000015D, .aestop), (32, 0x00C0308D, .tballoc 12 3),
     (32, 0x004C00BD, .tbwait ⟨12, false⟩ true), (32, 0x014002AD, .maclr 5), (32, 0x01401EBD, .mstat 7 5),
     (32, 0x2508020D, .mmaE4m3 8 20 2 false), (32, 0x1008027D, .mmaF64 8 1 false), (32, 0x400C028D, .mmv 12 4 false),
     (32, 0xB00A029D, .drain 10 3 true), (32, 0x3008538D, .walk 20 8 3), (32, 0x0014179D, .wstat 5 ⟨20, false⟩),
     (32, 0x001403AD, .wcancel ⟨20, false⟩), (32, 0x01140BBD, .wqry 2 ⟨20, false⟩ ⟨4, false⟩), (32, 0x1004530D, .pload 20 4 1 false),
     (32, 0x0004031D, .pevict ⟨4, false⟩), (32, 0x00140B2D, .pres 2 ⟨20, false⟩), (32, 0x0004173D, .pstat 5 ⟨4, false⟩),
     (32, 0x0008050F, .migrate 1 ⟨8, false⟩), (32, 0x200A020F, .coll 10 2), (32, 0x038C021F, .signal ⟨12, false⟩ ⟨14, false, false⟩),
     (32, 0x000000C9, .rett), (32, 0x014401CF, .setrpc ⟨4, false, false⟩ ⟨5, false, false⟩), (32, 0x000401DF, .texit ⟨4, false, false⟩),
     (32, 0x000001EF, .tsvc), (32, 0x0000102F, .tick 4), (32, 0x0000103F, .ticko 4), (32, 0x0005084F, .pmcfg 2 ⟨5, false⟩),
     (32, 0x0002185F, .pmrd 6 2), (32, 0x0004206F, .tdrd 8 ⟨4, false, false⟩), (32, 0x0000014F, .brk),
     (32, 0x000A018F, .rpbeg ⟨10, false⟩), (32, 0x0000099F, .rpend 2), (32, 0x000C01AF, .wscap ⟨12, false⟩),
     (32, 0x000C01BF, .wsrst ⟨12, false⟩), (32, 0x00103BCD, .lbdef 14 ⟨16, false⟩), (32, 0x000005AB, .elect 1),
     (32, 0x000E562B, .launch 21 ⟨14, false⟩), (32, 0x103C023B, .join ⟨60, true, false⟩)] = true := by decide +kernel

/-! ### The worked values of the instruction files -/

/-- The value of register r of lane 0 after an instruction, from the registers given. -/
def gives (i : Instr) (x : List (Nat × Nat)) (r : Nat) : Option Word := after i (place (fun _ => x) []) 0 r

def src (n : BitVec 6) : Src := ⟨n, false, false⟩
def low (n : BitVec 6) : RegE := ⟨n, false⟩

/-- R93: −99 by 5, and 7 by 0. -/
theorem test_division :
    gives (.divS 4 (src 5) (src 6)) [(5, 0xFFFFFF9D), (6, 5)] 4 = some 0xFFFFFFED ∧
    gives (.remS 4 (src 5) (src 6)) [(5, 0xFFFFFF9D), (6, 5)] 4 = some 0xFFFFFFFC ∧
    gives (.divZ 4 (src 5) (src 6)) [(5, 7), (6, 0)] 4 = some 0xFFFFFFFF ∧
    gives (.remZ 4 (src 5) (src 6)) [(5, 7), (6, 0)] 4 = some 7 := by decide +kernel

/-- R96: the fields of 0xF0A0 and 0xF1A0 at position 4, length 5. -/
theorem test_bit_fields :
    gives (.bfxZ 4 (src 5) (src 6)) [(5, 0xF0A0), (6, 0xA4)] 4 = some 0xA ∧
    gives (.bfxS 4 (src 5) (src 6)) [(5, 0xF0A0), (6, 0xA4)] 4 = some 0xA ∧
    gives (.bfxZ 4 (src 5) (src 6)) [(5, 0xF1A0), (6, 0xA4)] 4 = some 0x1A ∧
    gives (.bfxS 4 (src 5) (src 6)) [(5, 0xF1A0), (6, 0xA4)] 4 = some 0xFFFFFFFA := by decide +kernel

/-- R99: `andi x4, x4, -256` clears the low byte. -/
theorem test_andi : gives (.andi 4 (low 4) (-256)) [(4, 0x12345678)] 4 = some 0x12345600 := by decide +kernel

/-- R128: 16,777,217 to F32 toward zero, to nearest and upward; toward zero it raises nx. -/
theorem test_cvt :
    gives (.cvt 4 (low 5) 0 2 1 false) [(5, 0x01000001)] 4 = some 0x4B800000 ∧
    gives (.cvt 4 (low 5) 0 2 0 false) [(5, 0x01000001)] 4 = some 0x4B800000 ∧
    gives (.cvt 4 (low 5) 0 2 3 false) [(5, 0x01000001)] 4 = some 0x4B800001 := by decide +kernel

/-- R132: the dot product of four E4M3 halves on 2^24, exact where four FFMA would lose it. -/
theorem test_dot4 : gives (.dot4E4m3 30 (src 6) (src 7)) [(6, 0x38383838), (7, 0x30303030), (30, 0x4B800000)] 30 = some 0x4B800001 := by
  decide +kernel

/-- R40: the table of narrow codes. -/
theorem test_pkn : let t := fun f v => (List.range 4).map (fun k => pkn (BitVec.ofNat 2 k) 0 v v f)
    t 0 0x43960000 = [0x79, 0x5D, 0x77, 0x7F] ∧ t 0 0x40200000 = [0x42, 0x41, 0x44, 0x02] ∧
    t 0 0xC3FA0000 = [0xFE, 0xE0, 0xFF, 0x80] ∧ t 0 0x7FC00000 = [0x7F, 0x7E, 0x00, 0x00] := by decide +kernel

/-- R50: the first step of the generator from 0. -/
theorem test_rng :
    gives (.rng 4 (low 6)) [(4, 9)] 6 = some 0x00014E6B ∧ gives (.rng 4 (low 6)) [(4, 9)] 4 = some 0 ∧
    gives (.rngj (low 6) (low 8)) [(8, 1)] 6 = some 0x00014E6B := by decide +kernel

/-- R243: INCW of 6 by 3 with bound 7 and DECW of 1 by 3 with bound 7. -/
theorem test_wrapping_atomics : atomOp 11 6 3 7 = some 1 ∧ atomOp 12 1 3 7 = some 6 := by decide +kernel

/-- R44: REDU.ADD.f32 of 1, 2^−24, 2^−24, 2^−24 folds to 0x3F800001; SCAN.ADD.f32 leaves 1 in every lane. -/
theorem test_order_of_sums :
    foldTree addF32 5 ((List.range 32).map (fun l => if l = 0 then some 0x3F800000 else if l < 4 then some 0x33800000 else none)) =
      some 0x3F800001 ∧
    (List.range 4).map (after (.scanAddF32 4 (src 5)) (place (fun l => [(5, if l = 0 then 0x3F800000 else 0x33800000)]) []) · 4) =
      [some 0x3F800000, some 0x3F800000, some 0x3F800000, some 0x3F800000] := by decide +kernel

/-- R48: the image of an accumulator that holds 1.0, and then 0 plus −1.0 more. -/
theorem test_accumulator_image :
    ((Acc.zero.add (accTerm 0x3FF0000000000000)).image.drop 272).take 8 = [0, 0, 0, 1, 0, 0, 0, 0] ∧
    ((Acc.zero.add (accTerm 0xBFF0000000000000)).image.drop 272).take 8 = [0, 0, 0, 255, 255, 255, 255, 255] ∧
    ((((Acc.zero.add (accTerm 0x43B0000000000000)).add (accTerm 0x3FF0000000000000)).add (accTerm 0xC3B0000000000000)).round).bits =
      0x3FF0000000000000 := by decide +kernel

/-! #### More of the events' hypotheses (O48 to O60) -/

/-- Block 2 saved by a pre-emption; the same block migrated, restante slots free; a scalar control core saved beside them. -/
def vacatedBase : State := base.saveBlock 2 false
def migratedAway : State := ({ base with blocks := Map.upd base.blocks 2 (fun b => { b with migrated := true }) } : State).saveBlock 2 false
theorem test_meets_Returns : vacatedBase.placeReady 1 = true ∧ vacatedBase.pendingItem 1 = some (.saved [2]) ∧ (vacatedBase.placeFor 1 (.saved [2])).isSome = true ∧
    migratedAway.placeReady 1 = true ∧ migratedAway.pendingItem 1 = some (.restante 2) ∧
    ((migratedAway.placeFor 1 (.restante 2)).map (fun p => (p.1.length, p.2.isNone))) = some (1, true) ∧ (Map.get? migratedAway.saved 2).isSome = true ∧
    (∀ q ∈ ({ empty small [0] with sccSaved := [(0, (7, scc.warp 4))] } : State).sccSaved, q.2.1 < (empty small [0]).nextId) ∧
    (({ scc with blocks := [] } : State).blocks.all (fun q => clusterOf q.2.core != clusterOf 0 || scc.ctxOfBlock q.1 != 0)) = true := by decide +kernel

/-- A parcel whose body's next bytes are to be read, one that has it all with the digest of its body or another, one that shares a copy. -/
def reading (n : Nat) (digest : BitVec 256) : State :=
  ((paged (parcel2 1)).updCtx 0 (fun c => { c with parcels := [(1, ⟨0, 64, 0, false⟩), (2, ⟨0x30000, 16, digest, false⟩)] })).updCore 0 (fun c =>
    { c with loads := [2], parcels := Map.upd c.parcels 2 (fun p => { p with got := List.replicate n 0 }) })
theorem test_meets_ParcelReads : (reading 64 0).parcelInfo 2 = some ⟨0x30000, 16, 0, false⟩ ∧ (reading 64 0).loadReady 0 = some 2 ∧ (64 : Nat) < 256 + 2 * 16 ∧
    ((reading 64 0).parcelBytes 0 2 (parcelVas ⟨0x30000, 16, 0, false⟩ 64)).isLeft = true ∧
    (({ reading 64 0 with mem := [] } : State).parcelBytes 0 2 (parcelVas ⟨0x30000, 16, 0, false⟩ 64)).isLeft = false := by decide +kernel
theorem test_meets_ParcelBody (d : BitVec 256) : (reading 288 d).parcelInfo 2 = some ⟨0x30000, 16, d, false⟩ ∧
    (Map.getD ((reading 288 d).core 0).parcels 2 .absent).got = List.replicate 288 0 ∧ 256 + 2 * 16 ≤ (List.replicate 288 (0 : Byte)).length ∧
    ∀ b : List Byte, ∃ d, shake256 b ≠ d :=
  ⟨rfl, rfl, Nat.le_of_eq List.length_replicate.symm, fun b => ⟨~~~ shake256 b, by generalize shake256 b = x; intro h; have := congrArg (fun y => y.getLsbD 0) h; simp at this⟩⟩
/-- Context 1 maps the same library parcel, resident on the core. -/
def copied : State :=
  let s := (reading 0 5).updCtx 1 (fun c => { c with parcels := [(2, ⟨0x30000, 16, 5, true⟩)] })
  let s := s.updCtx 0 (fun c => { c with parcels := [(2, ⟨0x30000, 16, 5, true⟩)] })
  s.updCore 0 (fun c => { c with
    loads := [2], parcels := [(2, { Parcel.absent with state := 1, shared := true }), (65538, { Parcel.absent with state := 2 })] })
theorem test_meets_ParcelCopies : copied.loadReady 0 = some 2 ∧ (copied.copyOf 0 2).isSome = true ∧ (Map.getD (copied.core 0).parcels 2 .absent).shared = true := by
  decide +kernel

/-- A walk that has ended, one cancelled at a fault. -/
theorem test_meets_WalkEnds : (run { aWalk 1 with status := 5 }).roundReady 0 = true ∧ (aWalk 1).over = false ∧ ({ aWalk 1 with status := 5 } : Walk).over = true ∧
    (run { aWalk 1 with cancel := 5, fault := some (8, 0) }).roundReady 0 = true ∧
    (let s : State := { run (aWalk 1) with blocks := [] }; s.walkAlive (aWalk 1) = false ∧ s.roundReady 0 = true) := by decide +kernel

/-- Block 2 saved with its matrix commands, walk and engine; what waits for the firmware in it. -/
def savedFault : State := { faulted.saveBlock 2 false with cur := none }
theorem test_meets_SavedReplies : (mulHead [] (faulted.core 0).mq).isSome = true ∧ ((faulted.core 0).loads.find? (fun q => (Map.getD (faulted.core 0).parcels q .absent).fault.isSome)) = some 2 ∧
    (Map.get? savedFault.saved 2).isSome = true ∧ ((Map.get? savedFault.saved 2).map (fun g => g.mq.length)) = some 1 ∧
    (let s := (served 0x08).saveBlock 2 false; Map.get? s.warps 4 = none ∧ (s.awayWarp 4).isSome = true ∧ (s.awayWarp 4).map (·.kind) = some .warp ∧
      (s.awayWarp 4).map (·.block) = some 2 ∧ (s.awayWarp 4).map (fun w => s.replied w 0xF (.finish 7 0)) = some [0, 1, 2, 3]) ∧
    (served 0x08).mayReply ((served 0x08).warp 4) ((((served 0x08).warp 4).lane 0)) (.finish 5 0) = false := by decide +kernel

theorem test_meets_DebugMore : (broken.warp 4).held = false ∧ (broken.warp 4).check = none ∧
    ((base.updWarp 4 (fun w => { w with lanes := Map.mapV w.lanes (fun _ k => { k with place := .debug }) })).warp 4).parked = true ∧ (base.warp 4).parked = false ∧
    (∀ l ∈ [0, 1].filter (fun l => ((broken.warp 4).lane l).breaks), ((broken.warp 4).lane l).helper = false) ∧
    [0, 1].filter (fun l => ((broken.warp 4).lane l).breaks) = [0, 1] ∧
    (let s := broken.updWarp 4 (fun w => { w with lanes := Map.mapV w.lanes (fun _ k => { k with helper := true }) })
     ∀ l ∈ [0, 1].filter (fun l => ((s.warp 4).lane l).breaks), ((s.warp 4).lane l).helper = true) := by
  decide +kernel

/-- Spares of die 0 taken: none, all four. -/
theorem test_meets_Spares : Map.getD base.fw.spares 0 0 < 4 ∧ 4 ≤ Map.getD ({ base.fw with spares := [(0, 4)] } : Firmware).spares 0 0 ∧
    ({ base with blocks := [] } : State).coreBlocks 0 = [] := by decide +kernel

/-- The checks of a store whose pages were found: none fails; the same misaligned in each lane; a page that failed. -/
theorem test_meets_ChecksPass : (let w := (checking []).warp 4; (∀ c ∈ w.check, (∀ a ∈ c.acc, (checking []).accessTrap w c a = none)) ∧
    ¬ ∃ p ∈ (checking []).passing w (w.check.getD ⟨.st, [], [], 0, [], [], [], none, [], []⟩), (checking []).buffers w .st p.1 p.2 = true ∧
      (checking []).bufferFull w p.1 p.2 = true) := by
  decide +kernel
def misaligned : State := (checking []).updWarp 4 (fun w => { w with
  check := w.check.map (fun c => { c with acc := c.acc.map (fun a => { a with va := a.va + 1 }) })
  lanes := Map.mapV w.lanes (fun _ k => { k with prio := 0 }) })
theorem test_meets_ChecksFail : misaligned.checkReady 4 = true ∧ (let w := misaligned.warp 4; w.isAe = false ∧ w.kind = .warp ∧
    ∀ c ∈ w.check, c.acc ≠ [] ∧ (c.acc.map (·.lane)).Nodup ∧ c.lanes = c.acc.map (·.lane) ∧
      (∀ a ∈ c.acc, (misaligned.accessTrap w c a).map (·.cause) = some 0x0A) ∧
      ∀ l ∈ c.lanes, (w.lane l).helper = false ∧ Map.has w.lanes l = true ∧ (w.lane l).prio = 0) := by decide +kernel

/-- A guard that is true in no lane; in helper lanes only, for BAR. -/
def guardedBy (p : BitVec 7) : State := base.updWarp 4 (fun w => { w with
  pfx := some ⟨0x10004, 5, 1, some (false, 2), none⟩
  lanes := Map.mapV w.lanes (fun l k => { k with p := p, helper := l == 0 }) })
theorem test_meets_IssueMore : (let w := (guardedBy 0).warp 4; (w.iss 4 (headAt (guardedBy 0) 4) 1).act = [] ∧ w.head = some (headAt (guardedBy 0) 4) ∧ w.busy = false) ∧
    (let s := (guardedBy 0).updWarp 4 (fun w => { w with lanes := Map.upd w.lanes 0 (fun k => { k with p := 0x7F }) }); let w := s.warp 4
     (w.iss 4 (headAt s 4) 1).n = [] ∧ (w.iss 4 (headAt s 4) 1).act = [0] ∧ (s.core w.core).trace = none) ∧
    (∀ (l : Nat) (y : Lane), ({ lpb := 0 } : Need).also l y = []) := ⟨by decide +kernel, by decide +kernel, fun _ _ => rfl⟩

/-- Stores and loads at each stage: a store performed alone, acknowledged, and one that its load must wait for. -/
def atomicDone : State := flying (.atom { anAtom with performed := 2 })
theorem test_meets_StoreStages : (flying (.store (aStore 0 .performed [(0x50000, 7)]))).homeAckReady 9 = true ∧
    (flying (.load { aLoad .done none with got := [(0, 1), (1, 0), (2, 0), (3, 0)] })).arrivalReady 9 = true ∧
    (flying (.load { aLoad .done (some false) with got := [] })).arrivalReady 9 = true ∧ atomicDone.arrivalReady 9 = true ∧
    (ae.updWarp 4 (fun w => w)).awayWarp 4 = none ∧
    (let s : State := { ae with reqs := [(9, .load { aLoad .done none with push := some 9 })] }; s.arrivalReady 9 = true ∧ (s.warp 4).pushes 9 = true) ∧
    (flying (.atom { anAtom with pass := 0 })).dieAckReady 9 = true ∧ (flying (.xaddm { anXaddm false with pass := 0 })).dieAckReady 9 = true ∧
    (flying (.xaddm (anXaddm false))).xaddmReady 9 (anXaddm false) = true := by decide +kernel
/-- A fill that finds its line, with a load that waits for it. -/
def filled (stale : Bool) : State :=
  let f : Fill := { aFill (some []) (some (List.replicate 64 3)) with stale := stale, bank := some 0 }
  let s : State := { paged base with reqs := [(9, .fill f), (10, .load (aLoad (.fill [9]) none))] }
  s.updCore 0 (fun c => { c with l1 := [(0x500, ⟨0, 0, 0, [], 1⟩)] })
theorem test_meets_Fills : (filled false).fillReady 9 = true ∧ (filled true).fillReady 9 = true ∧ (Map.get? ((filled false).core 0).l1 (0x1400 / 4)).isSome = true ∧
    (((filled false).core 0).bankOf 0).stopping = false ∧ Map.keysWhere ((filled false).delReq 9).reqs (fun _ r => r.onFill 9) = [10] ∧
    (flying (.fill { aFill (some []) none with pass := 7 })).servedReady 9 = true := by decide +kernel
theorem nodup_shift (a n : Nat) : ((List.range n).map (a + ·)).Nodup := by
  unfold List.Nodup; rw [List.pairwise_map]; exact List.nodup_range.imp (fun h => by omega)
theorem test_meets_XaddmLines : (anXaddm true).pas.Nodup ∧ (anXaddm true).pas.length = 552 ∧ (anXaddm true).src.length = 552 ∧
    (∀ pa ∈ (anXaddm true).pas, isSp pa = false) := by
  refine ⟨?_, by decide +kernel, by decide +kernel, by decide +kernel⟩
  simp only [anXaddm]; apply nodup_shift

/-- SHAKE256 of the empty message (FIPS 202's example). -/
theorem test_shake256 : (leBytes 8 (shake256 []).toNat).map (·.toNat) = [0x46, 0xB9, 0xDD, 0x2B, 0x0B, 0xA8, 0x8D, 0x13] := by decide +kernel

/-! #### Checks and traps in more forms (O6 to O32) -/

/-- O6, O7, O28: a state whose grids stand under names given out, and a step of it. -/
theorem test_meets_Kept : State.reset.driven ∧ (∃ t, step State.reset = .next t) ∧
    (let s : State := { State.reset with grids := [(1, Grid.absent)], nextId := 2 }; s.namesOk ∧ ∃ t, step s = .next t) :=
  ⟨by unfold State.driven; decide +kernel, ⟨_, rfl⟩, by unfold State.namesOk; decide +kernel, ⟨_, rfl⟩⟩

/-- What an instruction of needs n has met when its sources are looked at. -/
def atSources (s : State) (n : Need) : Bool := let i := issAt s 4 n
  s.cur == some 4 && Map.has s.warps 4 && !(s.warp 4).busy && (s.warp 4).head.isSome && !i.n.isEmpty && !s.illegal (s.warp 4) i n &&
  (!n.handler || i.handler) && (!n.atHead || (s.waitingTasks (s.warp 4) i.act).isEmpty) && (s.warp 4).qmaps.isEmpty &&
  (List.range 8).all (fun j => !i.wait.getLsbD j || !(s.warp 4).tokBusy j)
def three (e : Bool) : Need := { srcs := [.scope 9, one 5, .regs [4] e], dsts := [6] }
theorem test_meets_SeveralSources : atSources (marked .orphan) (three false) = true ∧ 1 ∈ (issAt (marked .orphan) 4 (three false)).n ∧
    (∀ l ∈ (issAt (marked .orphan) 4 (three false)).n, (((marked .orphan).warp 4).lane l).cell 5 = ⟨7, .full⟩) ∧
    atSources (marked (.empty true)) (three true) = true ∧ ((((marked (.empty true)).warp 4).lane 1).cell 4).fe = .empty true ∧
    (∀ l ∈ (issAt (marked (.empty true)) 4 (three true)).n, (((marked (.empty true)).warp 4).lane l).cell 5 = ⟨7, .full⟩) ∧
    atSources (marked (.empty true)) (three false) = true ∧ ((marked (.empty true)).warp 4).acquiring = false ∧
    atSources (marked (.empty false)) { srcs := [one 5], dsts := [4] } = true ∧
    (∀ l ∈ (issAt (marked (.empty false)) 4 {}).act, ∀ r ∈ [5, 4], ((((marked (.empty false)).warp 4).lane l).cell r).fe ≠ .empty true) := by decide +kernel
/-- An instruction that reads x4 as well, by what it finds in the lane (LDL, STL). -/
theorem test_meets_AlsoOrphan : (let n : Need := { srcs := [one 5], also := fun _ _ => [4] }; atSources (marked .orphan) n = true ∧ 1 ∈ (issAt (marked .orphan) 4 n).n ∧
    4 ∈ n.also 1 (((marked .orphan).warp 4).lane 1)) := by decide +kernel

/-- O21: XRND of 1 + 2^-63 with the trap of the inexact flag enabled in lane 0. -/
def rounding : State := base.updWarp 4 (fun w => { w.updLane 0 (fun k => { k with fpctl := 0x2000 }) with
  xa0 := (Acc.zero.add (accTerm 0x3FF0000000000000)).add (accTerm 0x3C00000000000000) })
theorem test_meets_XrndTrap : readyAt rounding 4 { dsts := [62, 63], scc := false, ae := false, exact := true } = true ∧ (rounding.warp 4).xaWait.contains false = false ∧
    (issAt rounding 4 {}).handler = false ∧
    (issAt rounding 4 {}).raising (rounding.warp 4) (fun _ k => (k, (rounding.warp 4).xa0.round.flags)) = [0] := by decide +kernel

/-- O18, the rounding law in F32: 1 + 2^-24 is halfway between 1 and the next number; 2^128; 2^-150, half the least subnormal. -/
theorem test_meets_RoundingLaw : (let k := f32; let ml := 2 ^ 23; (0x3F800000 < (2 ^ k.e - 1) * 2 ^ k.f) ∧
    (2 - (2 ^ (k.e - 1) : Nat) - (k.f : Int) + (0x3F800000 / 2 ^ k.f - 1 : Nat) = -23) ∧ ml * 2 ≤ 2 ^ 24 + 1 ∧ 2 ^ 24 + 1 < (ml + 1) * 2 ∧
    f32.round .rne false false (2 ^ 24 + 1) (-24) false = ⟨0x3F800000, 16⟩ ∧ f32.round .rup false false (2 ^ 24 + 1) (-24) false = ⟨0x3F800001, 16⟩ ∧
    f32.round .rne false false 1 128 false = ⟨0x7F800000, 20⟩ ∧ f32.round .rtz false true 1 128 false = ⟨0xFF7FFFFF, 20⟩ ∧
    f32.round .rne false false 1 (-150) false = ⟨0, 24⟩ ∧ f32.round .rup false false 1 (-150) false = ⟨1, 24⟩ ∧
    f32.round .rup true false 1 (-150) false = ⟨0, 24⟩ ∧ (2 : Nat) ^ (k.f + 3) ≤ 2 ^ 26 ∧ 0 < 1) := by decide +kernel

/-- O22, O24: the scalar control core and an address engine. -/
theorem test_meets_OtherAgents : Meets scc { dsts := [63], lpb := 0, ae := false } (fun _ w _ => w.kind = .scc 0) ∧
    (ae.cur = some 4 ∧ Map.get? ae.warps 4 = some (ae.warp 4) ∧ (ae.warp 4).busy = false ∧ (ae.warp 4).head.isSome = true ∧ (issAt ae 4 {}).n ≠ [] ∧
      (ae.warp 4).kind = .ae [none, none, some 9, none] 0 none 1) ∧
    (∀ s ∈ [scc, ae], readyAt s 4 { lpb := 0, wlen := 2 } = true ∧ readyAt s 4 { lpb := 0, wlen := 1 } = true ∧
      (∀ l ∈ (issAt s 4 {}).n, ((s.warp 4).lane l).task = none) ∧ ∀ l ∈ (issAt s 4 {}).n, ∀ c ∈ ((s.warp 4).lane l).x, ∀ b, c.2.fe ≠ .empty b) :=
  ⟨meets (u := 4) (by decide +kernel) (by decide +kernel), by decide +kernel, by decide +kernel⟩

/-- O23: a branch past the last halfword, and before the first. -/
theorem test_meets_OutsideBranches : (∀ n ∈ ([{ dsts := [5] }, { lpb := 0, prio := 5, jump := 1, branch := true, sent := fun _ => some 0 },
      { dsts := [63], lpb := 0, prio := 5, jump := 1, branch := true, sent := fun _ => some 0 },
      { lpb := 0, prio := 5, jump := 2, branch := true, sent := fun k => if k.pred 1 != true then some 0 else none }] : List Need), readyAt base 4 n = true) ∧
    (let i := issAt base 4 {}; ∀ off ∈ [(60 : Int), -5], ¬ (0 ≤ ((i.pc.toNat % 65536 + (i.len - 2) : Nat) : Int) + off ∧
      ((i.pc.toNat % 65536 + (i.len - 2) : Nat) : Int) + off < (base.parcel 0 0 1).length)) ∧ (base.warp 4).isAe = false ∧
    (∃ l ∈ (issAt base 4 {}).n, ((base.warp 4).lane l).pred 1 ^^ true) := by decide +kernel
/-- Lane 0 goes to its own parcel, lanes 1 to 3 to parcel 2, of 16 halfwords in a state, mapped or not; or past the end of their own. -/
def sending (st : Nat) (mapped : Bool) (tgt : Nat) : State :=
  let s := place (fun l => [(8, if l = 0 then 0x10008 else tgt), (63, if l = 0 then 0x10008 else tgt)]) []
  (s.updCtx 0 (fun c => { c with parcels := [(1, ⟨0, 64, 0, false⟩)] ++ if mapped then [(2, ⟨0, 16, 0, false⟩)] else [] })).updCore 0 (fun c => { c with
    parcels := c.parcels ++ [(2, { Parcel.absent with state := st, gen := 1, code := List.replicate 16 2 })] })
theorem test_meets_TransferTraps : (∀ s ∈ [sending 2 true 0x2000F, sending 2 true 0x20010, sending 2 false 0x20003, sending 0 true 0x20003, sending 1 true 0x20003,
      sending 2 true 0x10040], readyAt s 4 { srcs := [one 8], dsts := [63], lpb := 0, jump := 8, branch := true, sent := fun k => some (k.val 8) } = true ∧
      readyAt s 4 { srcs := [one 63], lpb := 0, wlen := 1, jump := 8, branch := true, sent := fun k => some (k.val 63) } = true ∧
      (issAt s 4 {}).n = [0] ++ 1 :: [2, 3] ∧ (s.warp 4).isAe = false ∧ 0x10008 % 65536 < (s.parcel 0 0 1).length) ∧
    ((sending 2 true 0x20010).parcel 0 0 2).length ≤ 0x20010 % 65536 ∧ (sending 2 false 0x20003).mapped 0 2 = false ∧
    ((sending 0 true 0x20003).mapped 0 2 = true ∧ ((sending 0 true 0x20003).parcel 0 0 2).state = 0) ∧
    ((sending 1 true 0x20003).mapped 0 2 = true ∧ ((sending 1 true 0x20003).parcel 0 0 2).state = 1) ∧
    ((sending 2 true 0x10040).parcel 0 0 1).length ≤ 0x10040 % 65536 ∧
    (base.entrySlot 0 0 1 3 = none ∧ readyAt base 4 { dsts := [63], lpb := 0, ae := false, jump := 1, branch := true, sent := fun _ => some 0 } = true) := by
  decide +kernel

/-- O26: in a DET block, a warp that migrated. -/
def movedDet : State := det.updWarp 4 (fun w => { w with privB := some [(3, 9)], privC := some [] })
theorem test_meets_MovedDet : Meets movedDet scopeNeed (fun s w _ => w.walked = false ∧ (s.block w.block).det = true ∧ w.privB.isSome = true ∧ Map.get? w.det 3 = none) :=
  meets (u := 4) (by decide +kernel) (by decide +kernel)

/-- O28: the records of all lanes can be read; a SPAWN that begins. -/
theorem test_meets_Launches : (∀ l < 4, (match launching.agentPlaces (launching.warp 4) (((launching.warp 4).lane l).pairVal 2) 64 true false with
      | .inl ks => !launching.recordWaits 4 l ks | .inr _ => false) = true) ∧ (base.warp 4).spawning = 0 ∧ (base.warp 4).spawned = 0 ∧
    (2 ^ 32 ≤ ({ launching with nextId := 2 ^ 32 } : State).nextId) ∧ launching.nextId ≠ 0 ∧
    (let x := { gridRecOf (desc launching 64) with counters := true }; x.counters = true ∧
      512 ≤ ({ launching with grids := (List.range 512).map (fun k => (k, { Grid.absent with ended := false, counters := some ⟨[], []⟩ })) } : State).setsUsed) := by
  decide +kernel

/-- O31: what LDL and STL meet: lanes 0 and 1 as in `labelled`, whose labels have the element size and the trap bit given. -/
def labels (esize : Nat) (trapOut : Bool) (dead : Nat) : State :=
  (place (fun l => [(2, 0x400), (3, 0xFE000000), (10, 64 + l), (12, 3), (13, 4 * (l % 2))]) []).updCore 0 (fun c => { c with
    labels := (List.range 4).map (fun k => (k, ⟨1, if k = dead then none else some { aLabel with esize := esize, trapOut := trapOut, tileRows := 1, tileCols := 1, pitch := 4 * esize }⟩)) })
theorem test_meets_LabelTraps : (∀ s ∈ [labels 4 false 1, labels 8 false 9, labels 4 true 9], readyAt s 4 { srcs := [one 10, two 12], dsts := [4], mem := true } = true ∧
      readyAt s 4 { srcs := [one 10, two 12, one 4], mem := true, ae := false } = true ∧ (s.warp 4).mapOf 5 = none ∧
      (∀ l ∈ (issAt s 4 {}).act, ((((s.warp 4).lane l).cell 5).fe = .full)) ∧ (issAt s 4 {}).n = [0] ++ 1 :: [2, 3]) ∧
    ((labels 4 false 1).core 0).label 2 (64 + 1) = none ∧ (((labels 4 false 1).core 0).label 2 64).isSome = true ∧
    (∀ l < 4, (((labels 8 false 9).core 0).label 2 (BitVec.ofNat 32 (64 + l))).map (·.esize) = some 8) ∧ nameable ((labels 8 false 9).nregs ((labels 8 false 9).warp 4)) 5 = true ∧
    (((labels 4 true 9).core 0).label 2 65).map (fun x => (x.trapOut, x.d1)) = some (true, 4) ∧ ((((labels 4 true 9).warp 4).lane 1).val 13).toInt = 4 ∧
    ((((labels 4 true 9).warp 4).lane 0).val 13).toInt = 0 := by decide +kernel
theorem test_meets_LabelHelpers : (let s := (labels 4 true 9).updWarp 4 (fun w => { w with lanes := Map.mapV w.lanes (fun l k => { k with helper := l == 1 || l == 3 }) })
    readyAt s 4 { srcs := [one 10, two 12], dsts := [4], mem := true } = true ∧ (issAt s 4 {}).n = [0, 2] ∧ (issAt s 4 {}).act = [0, 1, 2, 3] ∧
    s.waitingTasks (s.warp 4) [0, 1, 2, 3] = []) := by decide +kernel

/-- O32: x5 is mapped to bank 36, which holds groups and has producers; its reader is a task or not, a group is held or not. -/
def reads5 (e : Bool) : Need := { srcs := [.regs [5] e], dsts := [6] }
def mappedTo (gs : List (List Word)) (producers : Nat) (held : Option (List Word)) : State :=
  (base.updCore 0 (fun c => { c with bank := [(36, ⟨2, none, false, gs, producers, some 2, false, false⟩)] })).updWarp 4 (fun w => { w with qmaps := [⟨5, 36, [], held⟩] })
def mappedAt (s : State) (n : Need) : Bool := let i := issAt s 4 n
  s.cur == some 4 && Map.has s.warps 4 && !(s.warp 4).busy && (s.warp 4).head.isSome && !i.n.isEmpty && !s.illegal (s.warp 4) i n &&
  (!n.handler || i.handler) && (List.range 8).all (fun j => !i.wait.getLsbD j || !(s.warp 4).tokBusy j)
theorem test_meets_MappedReads : (∀ s ∈ [mappedTo [] 0 none, mappedTo [] 1 none, mappedTo [List.replicate 32 7] 1 none, mappedTo [] 0 (some (List.replicate 32 8))],
      mappedAt s (reads5 false) = true ∧ mappedAt s (reads5 true) = true ∧ (s.warp 4).qmaps = [⟨5, 36, [], ((s.warp 4).qmaps.headD ⟨0, 0, [], none⟩).held⟩] ∧
      s.waitingTasks (s.warp 4) (issAt s 4 {}).act = [] ∧ (s.warp 4).acquiring = false ∧ (s.warp 4).kind = .warp ∧ (s.core 0).trace = none ∧
      nameable (s.nregs (s.warp 4)) 6 = true ∧ nameable (s.nregs (s.warp 4)) 5 = true ∧ (∀ l ∈ (issAt s 4 {}).act, (((s.warp 4).lane l).cell 6).fe = .full)) ∧
    ((mappedTo [] 0 none).core 0).bankOf 36 = ⟨2, none, false, [], 0, some 2, false, false⟩ ∧ (((mappedTo [] 1 none).core 0).bankOf 36).producers ≠ 0 ∧
    (((mappedTo [List.replicate 32 7] 1 none).core 0).bankOf 36).fifo = [List.replicate 32 7] ∧
    5 ∈ ({ srcs := [one 4], dsts := [5] } : Need).dsts ∧
    (let s := (mappedTo [] 0 none).updWarp 4 (fun w => { w with lanes := Map.mapV w.lanes (fun l k => { k with task := some l }) })
     mappedAt s (reads5 false) = true ∧ s.waitingTasks (s.warp 4) (issAt s 4 {}).act ≠ []) := by decide +kernel

/-! #### Engines, checks and events in more forms (O36 to O60) -/

/-- O36: tile 7 as given, the operand block of an MMA with a tile and flags, registers as given from x20 on. -/
def mmaWith (tile flags : Nat) (t : Tile) (f : Fe) (nregs : Nat) : State :=
  let s := (place plain (le 8 0x30000 ++ le 8 0x50000 ++ le 4 64 ++ le 4 64 ++ le 2 8 ++ le 2 8 ++ le 4 64 ++ [tile, flags] ++ List.replicate 30 0)).updCore 0
    (fun c => { c with tiles := [(7, t)] })
  { s.updWarp 4 (fun w => w.updLane 1 (fun k => { k with x := Map.put k.x 21 ⟨0, f⟩ })) with blocks := Map.upd s.blocks 2 (fun b => { b with nregs := nregs }) }
def mmaNeed (b : List Nat) : Need := { matrixNeed0 [two 2] with named := b }
theorem test_meets_MmaTraps : (∀ s ∈ [mmaWith 8 1 .free .full 64, mmaWith 7 1 ⟨some 9, 0, 0, 0, [], 0, 0⟩ .full 64, mmaWith 7 0 ⟨some 2, 3, 8, 8, [], 0, 0⟩ .full 64,
      mmaWith 7 1 .free .orphan 64, mmaWith 7 1 .free (.empty false) 64],
      readyAt s 4 (mmaNeed [20]) = true ∧ readyAt s 4 (mmaNeed []) = true ∧ readable s 64 = true) ∧
    badMma 3 (desc (mmaWith 8 1 .free .full 64) 64) = some 32 ∧ badMma 0 (desc (mmaWith 7 1 .free .full 64) 64) = none ∧
    ((mmaWith 7 1 ⟨some 9, 0, 0, 0, [], 0, 0⟩ .full 64).core 0).tile 7 = ⟨some 9, 0, 0, 0, [], 0, 0⟩ ∧
    ((mmaWith 7 0 ⟨some 2, 3, 8, 8, [], 0, 0⟩ .full 64).core 0).projected 7 = (3, 8, 8) ∧ (3, 8, 8) ≠ (mKind 0, 8, 8) ∧
    (let s := mmaWith 7 1 .free .full 24; readyAt s 4 (mmaNeed [22]) = true ∧ readable s 64 = true ∧ nameable (s.nregs (s.warp 4)) 23 = false) ∧
    ((((mmaWith 7 1 .free .orphan 64).warp 4).lane 1).cell 21).fe = .orphan ∧
    ((((mmaWith 7 1 .free (.empty false) 64).warp 4).lane 1).cell 21).fe = .empty false := by decide +kernel
/-- MMV with vectors in tile 0 and results in tile 7; DRAIN of tile 0; each tile as given. -/
def mmvWith (flags fmt : Nat) (a b : Tile) : State := (place plain (le 8 0x30000 ++ le 8 0x50000 ++ le 8 0 ++ le 4 64 ++ le 2 8 ++ le 2 32 ++ [0, 7, 8, fmt, flags] ++
  List.replicate 27 0)).updCore 0 (fun c => { c with tiles := [(0, a), (7, b)] })
def owned (o kind rows cols : Nat) : Tile := ⟨some o, kind, rows, cols, [], 0, 0⟩
theorem test_meets_MmvTraps : (∀ s ∈ [mmvWith 3 9 .free .free, mmvWith 3 5 (owned 9 0 0 0) .free, mmvWith 3 5 .free (owned 9 0 0 0), mmvWith 2 5 (owned 2 4 8 16) .free,
      mmvWith 1 5 .free (owned 2 1 8 16)], readyAt s 4 (matrixNeed0 [two 2]) = true ∧ readable s 64 = true) ∧
    (badMmv (desc (mmvWith 3 9 .free .free) 64)).isSome = true ∧ badMmv (desc (mmvWith 3 5 .free .free) 64) = none ∧
    ((mmvWith 2 5 (owned 2 4 8 16) .free).core 0).projected 0 ≠ (4, 8, 32) ∧ ((mmvWith 1 5 .free (owned 2 1 8 16)).core 0).projected 7 ≠ (1, 8, 8) := by decide +kernel
def drainWith (fmt : Nat) (t : Tile) : State := (place plain (le 8 0x30000 ++ le 4 64 ++ [0, fmt, 0, 0] ++ List.replicate 16 0)).updCore 0 (fun c => { c with tiles := [(0, t)] })
theorem test_meets_DrainTraps : (∀ s ∈ [drainWith 9 (owned 2 2 8 8), drainWith 6 (owned 9 2 8 8)], readyAt s 4 (matrixNeed0 [two 2]) = true ∧ readable s 32 = true ∧
      readyAt s 4 (matrixNeed0 []) = true ∧ readyAt s 4 { srcs := [], dsts := [63], lpb := 0, scc := false, ae := false, atHead := true } = true) ∧
    (badDrain (desc (drainWith 9 (owned 2 2 8 8)) 32) 2 8).isSome = true ∧ badDrain (desc (drainWith 6 (owned 9 2 8 8)) 32) 2 8 = none ∧
    ((drainWith 6 (owned 9 2 8 8)).core 0).projected 0 = (2, 8, 8) := by decide +kernel

/-- O35: a pigeonhole full with a record held back. -/
theorem test_meets_PigeonHeld : (let s : State := { scc with pigeon := [(0, List.replicate 256 [1, 2, 3, 4])], pigeonHeld := [(0, [9, 9, 9])] }
    readyAt s 4 { srcs := [], dsts := [60, 61, 62, 63], lpb := 0, lanes := false, ae := false, atHead := true, perWarp := true } = true ∧
    (Map.getD s.pigeon (clusterOf (s.warp 4).core) []).length = 256 ∧ s.pigeonHeld.find? (fun p => clusterOf p.1 == 0) = some (0, [9, 9, 9])) := by decide +kernel

/-- O43: lanes 0 to 2 store to the page; lane 1's address is misaligned, lane 2's page has failed. -/
def mixed : State := (paged copying).updWarp 4 (fun w => { w with check := some ⟨.st, [0, 1, 2], [⟨0, 0x30000, 4, false, true, 7⟩, ⟨1, 0x30001, 4, false, true, 7⟩,
  ⟨2, 0x40000, 4, false, true, 7⟩], 2, [], [⟨0, 0x30000, 65536, 0x50000, true, true, false, 4⟩], [(4, 3)], none, [0, 1, 2], []⟩ })
theorem test_meets_ChecksMixed : mixed.checkReady 4 = true ∧ (mixed.warp 4).kind = .warp ∧ ∀ c ∈ (mixed.warp 4).check,
    (c.acc.map (·.lane)).Nodup ∧ (c.acc.map (fun a => (mixed.accessTrap (mixed.warp 4) c a).map (fun t => (t.cause, causeRank t))) = [none, some (0x0A, 1), some (0x08, 5)]) ∧
    (∀ l ∈ c.lanes, Map.has (mixed.warp 4).lanes l = true ∧ ((mixed.warp 4).lane l).prio ≠ 63 ∧ ((mixed.warp 4).lane l).helper = false) ∧
    (∀ p ∈ mixed.passing (mixed.warp 4) c, mixed.buffers (mixed.warp 4) c.what p.1 p.2 = false) := by decide +kernel

/-- Watchpoint 3 of the core: on stores, to the line at an address. -/
def watchedAt (lo : Dword) (ctl : Word) (va : Dword) : State := ((paged copying).updCore 0 (fun c => { c with watches := [(3, ⟨lo, lo + 64, ctl⟩)] })).updWarp 4 (fun w =>
  { w with check := some ⟨.st, [1], [⟨1, va, 4, false, true, 7⟩], 2, [], [⟨0, 0x30000, 65536, 0x50000, true, true, false, 4⟩], [], none, [1], []⟩ })
theorem test_meets_Watchpoints : (∀ s ∈ [watchedAt 0x30000 0xA0000000 0x3003C, watchedAt 0x30000 0xA000FFFF 0x30000, watchedAt 0xFE00000000000000 0xA0000000 0xFE00000000000020],
      s.checkReady 4 = true ∧ (s.warp 4).kind = .warp ∧ ((s.core 0).watches.map (·.1)).Nodup ∧ Map.has (s.warp 4).lanes 1 = true ∧ ((s.warp 4).lane 1).helper = false ∧
      ((s.warp 4).lane 1).noWatch = false ∧ ((s.warp 4).lane 1).prio ≠ 63 ∧ ∀ c ∈ (s.warp 4).check, ∀ a ∈ c.acc, s.watchHits (s.warp 4) c.what a = [3] ∧
        s.accessTrap (s.warp 4) c a = some ⟨0x14, a.va, 0⟩ ∧ a.va.toNat % a.align = 0) ∧
    (∀ s ∈ [watchedAt 0x30000 0xA0000000 0x30040, watchedAt 0x30000 0x40000000 0x30000, watchedAt 0x30000 0xC0000000 0x30000],
      ∀ c ∈ (s.warp 4).check, ∀ a ∈ c.acc, s.watchHits (s.warp 4) c.what a = []) ∧
    ((watchedAt 0xFE00000000000000 0xA0000000 0xFE00000000000020).window 0 0 ((watchedAt 0 0 0).view ((watchedAt 0 0 0).warp 4)) 0xFE00000000000020 4).isLeft = true := by
  decide +kernel

/-- O48: lane 1 runs a task, whose buffer is empty or full, at the head or not; it stores, or loads, 4 bytes at 0x30008. -/
def aTask (words : Nat) (stamp : Nat) : Task := ⟨1, stamp, 4, 1, ⟨0x10004, 5, 0, 0, [], 0x10004, 5⟩, (List.range words).map (fun j => (0x60000 + 8 * j, [(0x60000 + 8 * j, 1)])), 0, 0, false,
  false, 0, [], []⟩
def buffering (what : Pending) (wr : Bool) (T : Task) : State :=
  let s : State := { paged copying with grids := Map.upd (paged copying).grids 1 (fun g => { g with range := some ⟨10, 4, 10, [10, 11], false⟩ }) }
  (s.updCore 0 (fun c => { c with tasks := [(1, T)] })).updWarp 4 (fun w => { w.updLane 1 (fun k => { k with task := some 1 }) with
    check := some ⟨what, [1], [⟨1, 0x30008, 4, !wr, wr, 7⟩], 2, [], [⟨0, 0x30000, 65536, 0x50000, true, true, false, 4⟩], [], none, [1], []⟩ })
theorem test_meets_BufferedAccesses : (∀ s ∈ [buffering .st true (aTask 0 11), buffering .st true (aTask 16 11), buffering .st true (aTask 16 10), buffering (.ld 5 2) false (aTask 1 11)],
      s.checkReady 4 = true ∧ (s.warp 4).kind = .warp ∧ Map.has (s.warp 4).lanes 1 = true ∧ ((s.warp 4).lane 1).helper = false ∧ ((s.warp 4).lane 1).task = some 1 ∧
      ∀ c ∈ (s.warp 4).check, ∀ a ∈ c.acc, s.accessTrap (s.warp 4) c a = none ∧ s.accessPas (s.warp 4) c a = [0x50008, 0x50009, 0x5000A, 0x5000B]) ∧
    (∀ pa ∈ [0x50008, 0x5000B], pa / 8 * 8 = 0x50008 ∧ isSp pa = false) ∧
    (let cells : Map Byte := [(0x50008, 7), (0x50009, 0), (0x5000A, 0), (0x5000B, 0)]; ¬ 16 < ((aTask 0 11).merge cells).buf.length ∧ 16 < ((aTask 16 11).merge cells).buf.length) ∧
    (buffering .st true (aTask 16 11)).taskHead ((buffering .st true (aTask 16 11)).warp 4) 1 = false ∧
    (buffering .st true (aTask 16 10)).taskHead ((buffering .st true (aTask 16 10)).warp 4) 1 = true := by decide +kernel
theorem test_meets_TaskForms : (let s := (tasked.updCore 0 (fun c => { c with tasks := [(0, aTask 0 11)] })); (∃ l ∈ (issAt s 4 {}).n, ((s.warp 4).lane l).task.isSome = true) ∧
    readyAt s 4 { srcs := [two 2, .regs [4, 5, 6, 7] false], mem := true, ae := false } = true ∧ s.waitingTasks (s.warp 4) (issAt s 4 {}).act ≠ [] ∧
    s.illegal (s.warp 4) (issAt s 4 {}) { atHead := true } = false) := by decide +kernel

/-- O44: an older store to the byte that has been performed and not become visible; a store that is shown. -/
def twoStores (shown : Bool) : State := { paged base with reqs := [(8, .store { aStore 0 .acked [(0x50000, 1)] with done := 3 }),
  (9, .store { aStore 0 .acked [(0x50000, 7)] with done := 5, shown := shown })] }
theorem test_meets_HostOrder : (∃ p ∈ (twoStores false).stores, p.2.done ≠ 0 ∧ p.2.shown = false ∧ p.2.done < 5 ∧ ∃ c ∈ p.2.cells, Map.has [(0x50000, (7 : Byte))] c.1 = true) ∧
    (Map.get? (twoStores true).reqs 9).isSome = true ∧
    (∀ p ∈ (flying (.store { aStore 0 .acked [(0x50000, 7)] with done := 5 })).stores, ¬ (p.2.done ≠ 0 ∧ p.2.shown = false ∧ p.2.done < 5)) := by decide +kernel

/-- O50: two blocks of a cluster group that wait for their entry parcels: one of the parcels loads, or both are resident. -/
def grouping (st : Nat) : State :=
  let b : Block := { Block.absent with grid := 1, group := 3, loading := some true }
  let s : State := { base with
    grids := Map.upd base.grids 1 (fun g => { g with info := { g.info with cluster := 4, parcel := 1 } })
    blocks := [(2, b), (6, { b with core := 1, bix := 1 })], warps := [(4, { base.warp 4 with block := 6, core := 1 })] }
  let p : Parcel := { Parcel.absent with state := 2, gen := 1, code := List.replicate 64 2, entries := [(0, (5, 9))] }
  (s.updCore 0 (fun c => { c with parcels := [(1, p)] })).updCore 1 (fun c => { c with online := true, parcels := [(1, { p with state := st })] })
theorem test_meets_GroupStarts : (∀ st ∈ [1, 2], let s := grouping st
      (s.block 2).loading = some true ∧ Map.has s.blocks 2 = true ∧ (s.groupBlocks 3).filter (fun x => (s.block x).loading == some true) = [2, 6] ∧
      (∀ x ∈ [2, 6], (s.block x).grid = 1) ∧ (s.grid 1).info.parcel ≠ 0 ∧ (s.parcel 1 0 1).state = st ∧ ∀ q ∈ (s.grid 1).info.preload, q ≠ 0) ∧
    (∀ x ∈ [2, 6], (grouping 2).entrySlot ((grouping 2).block x).core ((grouping 2).ctxOfBlock x) 1 ((grouping 2).grid 1).info.entry = some (5, 9)) ∧
    (grouping 2).inputs = [] := by decide +kernel

/-- O51: a request under way, one more behind it; a die without blocks, online and offline; a restante slot. -/
theorem test_meets_Vacates : (let v : Vacate := ⟨0, 0, some 0, true, false, false, some [0], false, false⟩
      let s : State := { base with fw := { base.fw with vacates := [v] } }; s.fw.vacates = v :: [] ∧ v.cores.isSome = true) ∧
    (State.reset.core (32 * 7)).online = false ∧ (∀ p ∈ State.reset.blocks, p.2.core / 32 ≠ 7) ∧ State.reset.fw.vacates = [] ∧
    ((idle.updCore 32 (fun c => { c with online := true })).core 32).online = true ∧ (∀ p ∈ idle.blocks, p.2.core / 32 ≠ 1) ∧ idle.fw.vacates = [] ∧
    (base.core 0).online = true ∧ ((base.updCore 64 (fun c => { c with online := true })).restanteSlot 1).isSome = true := by decide +kernel

/-- O52: a copy of a scalar control core that is away, and one that waits for an atomic on its source. -/
theorem test_meets_CopyRests : (let c := { aCopy 8 none none [] with block := 0, warp := 7 }
      let s : State := { copies c with sccSaved := [(0, (7, scc.warp 4))] }; s.copyRests c = true ∧ s.awayWarp 7 ≠ none ∧ s.resting 0 = false) ∧
    (let c := aCopy 8 none none []; let s : State := { copies c with reqs := [(8, .atom anAtom)] }
      let d := { c with shape := .linear 0x30000 }; s.atomsDue d.eng [0x30000] = true ∧ s.copyRests d = false) ∧
    (copies (aCopy 8 none none [])).queued 0 1 (aCopy 8 none none []) = true := by decide +kernel

/-- O53: a DRAIN that has ended its rows, one line of which is still on its way; an MMV whose tiles differ. -/
theorem test_meets_DrainHolds : (let d := { before with status := some 1, writes := [8], seq := 5 }
      let s : State := { commands [run0 false none] [(7, d)] with reqs := [(8, .store { aStore 3 .issued [(0x50000, 1)] with core := 0 })] }
      d.seq < (run0 false none).seq ∧ 0x500 ∈ s.linesAt (run0 false none) (run0 false none).reads ∧ 0x500 ∈ linesOf [(0x50000, (1 : Byte))] ∧
      s.heldByDrain (run0 false none) (run0 false none).reads = true) ∧ (1 : Nat) ≠ 0 ∧
    (let s : State := { commands [run0 false none] [] with reqs := [(8, .atom anAtom)] }; s.atomsDue (run0 false none).eng (run0 false none).reads = true) := by
  decide +kernel

/-- O54: a load that another context shares; a closing parcel whose copy a load shares; a walk whose refill a fault stopped. -/
def sharing (st : Nat) : State :=
  let i : ParcelInfo := ⟨0x30000, 16, 5, true⟩
  let s := (base.updCtx 0 (fun c => { c with parcels := [(2, i)] })).updCtx 1 (fun c => { c with parcels := [(2, i)] })
  s.updCore 0 (fun c => { c with loads := [2, 65538], parcels := [(2, { Parcel.absent with state := st, code := [5] }), (65538, { Parcel.absent with state := 1, shared := true })] })
theorem test_meets_SharedLoads : ((sharing 1).core 0).loads.contains 65538 = true ∧ (65538 : Nat) / 65536 ≠ 2 / 65536 ∧
    (Map.getD ((sharing 1).core 0).parcels 65538 .absent).shared = true ∧ ((sharing 1).parcelInfo 65538).map (·.digest) = ((sharing 1).parcelInfo 2).map (·.digest) ∧
    (sharing 3).occupancy 0 0 2 = 0 ∧ (((sharing 3).core 0).parcels.map (·.1)).Nodup ∧ (Map.getD ((sharing 3).core 0).parcels 2 .absent).state = 3 ∧
    (sharing 3).parcelInfo 2 = some ⟨0x30000, 16, 5, true⟩ ∧ (sharing 3).parcelInfo 65538 = some ⟨0x30000, 16, 5, true⟩ := by decide +kernel
def fullWin (w : Walk) : Walk := { w with win := (List.range 4).map (fun j => (j, j, 0, 0)), nextPos := 4 }
theorem test_meets_WalkRefills : (run (aWalk 1)).roundReady 0 = true ∧ (aWalk 1).win.length < (aWalk 1).window ∧ (aWalk 1).nextPos < (aWalk 1).n ∧
    (fullWin (aWalk 1)).window ≤ (fullWin (aWalk 1)).win.length ∧ (run (fullWin (aWalk 1))).roundReady 0 = true ∧ (run (fullWin (aWalk 1))).walkAlive (fullWin (aWalk 1)) = true ∧
    ({ aWalk 1 with set := 0x40000 } : Walk).set ≠ 0 ∧
    ((paged (run (aWalk 1))).pointOf 0 { aWalk 1 with set := 0x30000 } 0).isLeft = true ∧
    (match (paged (run (aWalk 1))).pointOf 0 { aWalk 1 with set := 0x40000 } 0 with | .inr t => (engineStatus t).isNone | .inl _ => false) = true ∧
    (match (paged (run (aWalk 1))).pointOf 0 { aWalk 1 with set := 0x0200000000000000 } 0 with | .inr t => (engineStatus t).isSome | .inl _ => false) = true ∧
    (run { aWalk 1 with fault := some (8, 0) }).roundReady 0 = false ∧ ({ aWalk 1 with cancel := 5 } : Walk).ends = 5 ∧
    (Map.get? ((run (aWalk 1)).core 0).walks 3).isSome = true := by decide +kernel

/-- O55: handlers of PARCEL_ABSENT: one that asked for nothing, for quota pages, for a load that ended with status 2. -/
def asked (r : Option Word) : State := (parcel2 0).updWarp 4 (fun w => { w with lanes := Map.mapV w.lanes (fun _ k => { k with
  place := .tsvc, prio := 63, tcause := 0x06, tinfo := 0x00020000, asked := r }) })
theorem test_meets_Quota : (((asked none).warp 4).lane 0).asked = none ∧ (0x00020000 : Word).toNat % 65536 = 0 ∧ (asked (some 0x00020000)).fitsSoon 0 2 = true := by
  decide +kernel
theorem test_meets_NoQuota : (let s := (asked (some 0x00020000)).updCtx 0 (fun c => { c with quota := 0 }); s.fitsSoon 0 2 = false ∧ s.idleParcels 0 0 = []) := by
  decide +kernel
theorem test_meets_Receipt : ([(2, (0 * 2 ^ 24 + parcelKey 0 2) * 65536 + 1, 2)] : List (Nat × Nat × Nat)).filter (fun y => y.1 == 2 &&
    y.2.1 == (0 * 2 ^ 24 + parcelKey 0 2) * 65536 + (0x00020001 : Word).toNat % 65536) = [(2, 131073, 2)] := by decide +kernel

/-- O56: a traced core; a lane that a breakpoint takes, or not. -/
def tracing (seq : Option (Word × BitVec 6)) : State := ((place (fun l => if l = 3 then [(8, 0x10008)] else plain l) []).updCore 0 (fun c => { c with
  trace := some ⟨0x20000, 4096, 0, 0⟩ })).updWarp 4 (fun w => { w with lastSync := some (2 ^ 64), seq := seq })
/-- `readyAt` but for the trace. -/
def readyTraced (s : State) (n : Need) : Bool := readyAt (s.updCore 0 (fun c => { c with trace := none })) 4 n
theorem test_meets_TracedIssues : (∀ s ∈ [tracing none, tracing (some (0x10004, 5))], readyTraced s { lpb := 0, wlen := 1 } = true ∧
      readyTraced s { lpb := 0, prio := 5, jump := 2, branch := true, sent := fun k => if k.pred 1 != true then some 0 else none } = true ∧
      readyTraced s { srcs := [one 8], lpb := 0, prio := 5, jump := 8, branch := true, sent := fun k => some (k.val 8) } = true ∧
      (s.core 0).trace = some ⟨0x20000, 4096, 0, 0⟩ ∧ (s.warp 4).lastSync = some (2 ^ 64) ∧ (issAt s 4 {}).pc = 0x10004 ∧ (issAt s 4 {}).prio = 5 ∧
      (∀ l ∈ (issAt s 4 {}).n, ((s.warp 4).lane l).val 8 = 0x10008) ∧ 0x10008 % 65536 < (s.parcel 0 0 1).length) ∧ 0x20000 + 0 + 16 ≤ 2 ^ 48 := by decide +kernel
theorem test_meets_TracedTick (s : State) : (s.observeTick.tickOn 0).toNat < 2 ^ 64 + 4096 := by have := (s.observeTick.tickOn 0).isLt; omega
theorem test_meets_TraceRecords : (∀ t, (tracing none).updWarp 4 (fun w => { w with lastSync := none }) = t → (t.warp 4).lastSync = none) ∧ (base.core 0).trace = none ∧
    (let s := (tracing none).updCore 0 (fun c => { c with trace := some ⟨0x20000, 4096, 4080, 3⟩ }); (s.core 0).trace = some ⟨0x20000, 4096, 4080, 3⟩) ∧
    ((base.warp 4).lane 1).ready = true ∧ (let s := parked (.join 1); ((s.warp 4).lane 1).alive = true ∧ ((s.warp 4).lane 1).ready = false ∧ (s.warp 4).joinParked 1 ≠ 0) ∧
    (∃ p ∈ (base.core 0).parcels, p.1 / 65536 = 0 ∧ p.2.state ≠ 0) := ⟨fun t h => by rw [← h]; decide +kernel, by decide +kernel⟩
theorem test_meets_Breaks : ({ Lane.start 0 5 with place := .head } : Lane).breaks = false ∧ ({ Lane.start 0 5 with place := .join 1 } : Lane).breaks = true ∧
    ({ Lane.start 0 5 with place := .ended } : Lane).breaks = false := by decide

/-- O57: a live block on the core that fails, in a grid of no status; a scalar control core of the context that ends; what a failed peer loses. -/
theorem test_meets_Failures : ((base.grid 1).ended = false ∧ (base.grid 1).status = none ∧ base.liveWarps 2 ≠ [] ∧ (base.block 2).core = 0 ∧ Map.get? base.blocks 2 = some (base.block 2)) ∧
    (scc.warp 4).live = true ∧ (scc.warp 4).ctx = 0 ∧
    (let y : Req := .store (aStore 0 .passed [(2 ^ 47 + 3 * 2 ^ 39 + 5, 7)]); (∃ p ∈ y.pas, isRelay p = true ∧ peerOf p = 3) ∧ y.lostWith 3 = true ∧ y.lostWith 4 = false) := by
  decide +kernel

/-- O59: a boot whose firmware no key has signed: its signature is empty. What the fuses hold is free (log 6), so that no firmware can be shown to verify here. -/
theorem test_meets_Boot : State.reset.fw.booted = false ∧ (∀ c, firmwareOk c ⟨0, []⟩ = false) ∧
    (let s : State := { State.reset with fw := { State.reset.fw with booted := true } }; s.fw.booted = true) := by
  refine ⟨by decide +kernel, fun c => ?_, by decide +kernel⟩
  simp [firmwareOk, slhVerifies]

/-- O60: a collective of one rank, and of two. -/
theorem test_meets_CollResults : (let c := aColl none none; let g : PeerGroup := ⟨0, 1, 0⟩; c.op < 2 ∧ g.ranks = 1 ∧ 0 < g.ranks) ∧ (let c := { aColl none none with op := 2 }; c.op = 2 ∧
      (0 * (c.count / 2) ≤ 1 ∧ 1 < (0 + 1) * (c.count / 2))) ∧ (let c := { aColl none none with op := 3 }; c.op = 3 ∧ c.root = 0) ∧
    (({ base with colls := [(9, aColl none (some [3]))] } : State).collBytes (aColl none (some [3]))) = 32 := by decide +kernel

end Sys2Proof.Tests
end

section
/-! PROOFS. What a byte reads after writes of bytes (R6, R15, O8). -/

/-! ### Bytes of memory and of scratchpads (R6, R15) -/

namespace Sys2Proof.Machine

/-- The block and the offset of a scratchpad place name it. -/
theorem spBlock_spOff_inj {k j : Nat} (hk : isSp k = true) (hj : isSp j = true) (hb : spBlock k = spBlock j) (ho : spOff k = spOff j) : k = j := by
  simp only [isSp, decide_eq_true_eq] at hk hj
  simp only [spBlock, spOff] at hb ho
  omega

theorem State.byte_setByte_sp_same {s : State} {k : Nat} (v : Byte) (hk : isSp k = true) (hb : Map.has s.blocks (spBlock k) = true) :
    (s.setByte k v).byte k = v := by
  obtain ⟨b, hb⟩ := Option.isSome_iff_exists.mp hb
  simp [State.setByte, State.byte, hk, Map.get?_upd, hb, Map.getD_setD]

theorem State.byte_setByte_sp_ne (s : State) {k j : Nat} (v : Byte) (hk : isSp k = true) (hj : isSp j = true) (h : k ≠ j) :
    (s.setByte k v).byte j = s.byte j := by
  simp only [State.setByte, State.byte, hk, hj, if_true, Map.get?_upd]
  by_cases hb : spBlock k = spBlock j
  · have ho : spOff k ≠ spOff j := fun ho => h (spBlock_spOff_inj hk hj hb ho)
    rw [if_pos hb, hb]
    cases Map.get? s.blocks (spBlock j) with
    | none => rfl
    | some b => simp [Map.getD_setD, ho]
  · rw [if_neg hb]

theorem State.byte_setByte_ne (s : State) {k j : Nat} (v : Byte) (h : k ≠ j) : (s.setByte k v).byte j = s.byte j := by
  cases hk : isSp k <;> cases hj : isSp j
  case false.false => rw [s.byte_setByte v hk hj, if_neg h]
  case true.true => exact s.byte_setByte_sp_ne v hk hj h
  all_goals exact s.byte_setByte_apart v (by simp [hk, hj])

theorem State.byte_setBytes_of_notMem {s : State} {cs : Map Byte} {j : Nat} (h : ∀ c ∈ cs, c.1 ≠ j) : (s.setBytes cs).byte j = s.byte j := by
  unfold State.setBytes
  induction cs generalizing s with
  | nil => rfl
  | cons c cs ih =>
    obtain ⟨hc, hcs⟩ := List.forall_mem_cons.mp h
    exact (ih hcs).trans (s.byte_setByte_ne c.2 hc)

theorem cellsAt_cons (k : Nat) (b : Byte) (bs : List Byte) : cellsAt k (b :: bs) = (k, b) :: cellsAt (k + 1) bs := by
  simp [cellsAt, List.zipIdx_cons, List.zipIdx_succ, Nat.add_assoc, Nat.add_comm 1]

theorem mem_cellsAt {k : Nat} {bs : List Byte} {c : Nat × Byte} (h : c ∈ cellsAt k bs) : k ≤ c.1 ∧ c.1 < k + bs.length := by
  obtain ⟨p, hp, rfl⟩ := List.mem_map.mp h
  have := List.snd_lt_of_mem_zipIdx hp
  simp only
  omega

theorem State.byte_setBytes_cellsAt_outside (s : State) {k j : Nat} {bs : List Byte} (h : j < k ∨ k + bs.length ≤ j) :
    (s.setBytes (cellsAt k bs)).byte j = s.byte j := by
  refine State.byte_setBytes_of_notMem fun c hc => ?_
  have := mem_cellsAt hc
  omega

theorem State.byte_setBytes_cellsAt {s : State} {k n : Nat} {bs : List Byte} {y : Byte} (hy : bs[n]? = some y) (hk : k + bs.length ≤ 2 ^ 48) :
    (s.setBytes (cellsAt k bs)).byte (k + n) = y := by
  induction bs generalizing s k n with
  | nil => simp at hy
  | cons b bs ih =>
    rw [List.length_cons] at hk
    rw [cellsAt_cons]
    change ((s.setByte k b).setBytes (cellsAt (k + 1) bs)).byte (k + n) = y
    cases n with
    | zero =>
      have hsp : isSp k = false := by simp only [isSp, decide_eq_false_iff_not]; omega
      rw [Nat.add_zero k, State.byte_setBytes_cellsAt_outside _ (.inl (Nat.lt_add_one k)), s.byte_setByte b hsp hsp, if_pos rfl]
      simpa using hy
    | succ n =>
      have := ih (s := s.setByte k b) (k := k + 1) (n := n) (by simpa using hy) (by omega)
      rwa [Nat.add_assoc, Nat.add_comm 1] at this

/-! ### Byte order (R6) -/

theorem getElem?_leBytes {j n : Nat} (x : Nat) (h : j < n) : (leBytes n x)[j]? = some (BitVec.ofNat 8 (x / 256 ^ j)) := by
  induction n generalizing j x with
  | zero => omega
  | succ n ih =>
    cases j with
    | zero => simp [leBytes]
    | succ j =>
      rw [leBytes, List.getElem?_cons_succ, ih _ (Nat.lt_of_succ_lt_succ h), Nat.div_div_eq_div_mul, Nat.pow_succ']

theorem leNat_leBytes (n x : Nat) : leNat (leBytes n x) = x % 256 ^ n := by
  induction n generalizing x with
  | zero => simp [leBytes, leNat, Nat.mod_one]
  | succ n ih =>
    rw [leBytes, leNat, ih, BitVec.toNat_ofNat, Nat.pow_succ' (m := 256)]
    exact Nat.mod_mul.symm

/-! ### The form of memory -/

theorem State.memOk.setByte {s : State} (h : s.memOk) (k : Nat) (v : Byte) : (s.setByte k v).memOk := by
  obtain ⟨hm, ha⟩ := State.wf_setByte h.1 k v
  exact ⟨hm, ha ▸ h.2⟩

theorem State.memOk.setBytes {s : State} (h : s.memOk) (cs : Map Byte) : (s.setBytes cs).memOk := by
  obtain ⟨hm, ha⟩ := State.wf_setBytes h.1 cs
  exact ⟨hm, ha ▸ h.2⟩

theorem State.memOk.setHost {s : State} (h : s.memOk) (cs : Map Byte) : (s.setHost cs).memOk := ⟨h.1, (State.wf_setHost h.2 cs).1⟩

theorem State.memOk.toArray {s : State} (h : s.memOk) (cs : Map Byte) : (s.toArray cs).memOk := by
  obtain ⟨ha, hm⟩ := State.wf_toArray h.2 cs
  exact ⟨hm ▸ h.1, ha⟩

theorem State.memOk.copyPage {s : State} (h : s.memOk) (src dst : Nat) : (s.copyPage src dst).memOk := State.wf_copyPage h src dst

/-- Settles O8: a read after a write splits on memory and scratchpad, a run of bytes is written from its first cell on, and the form of
memory is that of the map's updates. -/
theorem memoryCells : Obligations.MemoryCells := by
  unfold Obligations.MemoryCells
  intro s k j n v bs x cells
  refine ⟨fun hk => ?_, s.byte_setByte_sp_same v, s.byte_setByte_ne v, fun y => State.byte_setBytes_cellsAt, s.byte_setBytes_cellsAt_outside,
    getElem?_leBytes x, leNat_leBytes n x, fun h => ⟨h.setByte k v, h.setBytes cells, h.setHost cells, h.toArray cells, h.copyPage k j⟩⟩
  rw [s.byte_setByte v hk hk, if_pos rfl]

end Sys2Proof.Machine
end

section
/-! PROOFS. Both invariants of O7 as one relation: `Kept s t` says that from s to t the form of memory and the rising names of the grids
are kept. Each operation of the state has one lemma, `Kept s t → Kept s (t.op …)`, so that the lemma of a chain of operations is the same
chain of lemmas (`h.updWarp.count.sweep`); `Kept.frame` and its like serve the records that a definition writes out. This part: the
operations that write memory, grids, single fields and counts, and those that end lanes and warps. -/

namespace Sys2Proof.Machine

/-- What the two invariants speak of: memory, the host-visible array, the grids, the counter of names. -/
def State.vital (s : State) : Map Byte × Map Byte × Map Grid × Nat := (s.mem, s.arr, s.grids, s.nextId)

/-- From s to t both invariants are kept: the canonical form of memory, and the rising names of the grids. -/
structure Kept (s t : State) : Prop where
  mem : s.memOk → t.memOk
  names : s.namesOk → t.namesOk

variable {s t u : State}

namespace Kept

theorem refl : Kept s s := ⟨id, id⟩

theorem ite {c : Prop} [Decidable c] {a b : State} (ha : Kept s a) (hb : Kept s b) : Kept s (if c then a else b) := by
  split
  · exact ha
  · exact hb

theorem foldl {α : Type} {f : State → α → State} {l : List α} (h : Kept s t) (hf : ∀ {t x}, Kept s t → Kept s (f t x)) :
    Kept s (l.foldl f t) := by
  induction l generalizing t with
  | nil => exact h
  | cons x l ih => exact ih (hf h)

/-! A fold that carries something beside the state. -/
theorem foldl_snd {α β : Type} {f : β × State → α → β × State} {l : List α} {p : β × State} (h : Kept s p.2)
    (hf : ∀ {p x}, Kept s p.2 → Kept s (f p x).2) : Kept s (l.foldl f p).2 := by
  induction l generalizing p with
  | nil => exact h
  | cons x l ih => exact ih (hf h)

theorem foldl_fst {α β : Type} {f : State × β → α → State × β} {l : List α} {p : State × β} (h : Kept s p.1)
    (hf : ∀ {p x}, Kept s p.1 → Kept s (f p x).1) : Kept s (l.foldl f p).1 := by
  induction l generalizing p with
  | nil => exact h
  | cons x l ih => exact ih (hf h)

/-- A change elsewhere in the state. -/
theorem same (h : Kept s t) (e : u.vital = t.vital) : Kept s u := by
  simp only [State.vital, Prod.mk.injEq] at e
  obtain ⟨hm, ha, hg, hn⟩ := e
  exact ⟨by simpa [State.memOk, hm, ha] using h.mem, by simpa [State.namesOk, hg, hn] using h.names⟩

end Kept

/-! ### Records written out

From a record whose four vital fields are another state's, the unifier reads that other state, the one before the change. -/

section Record

variable {cur inputs plan choice free tick warps blocks groups cores relAt llc reqs scopeWrites copies drains colls pwaits pigeon
  pigeonHeld sccGrid sccHalted sccSaved tlbs wcache saved queues turns ctxs fw}

/-- A change elsewhere. -/
theorem Kept.frame (h : Kept s t) :
    Kept s ⟨cur, inputs, plan, choice, free, t.nextId, tick, warps, blocks, groups, t.grids, cores, t.mem, t.arr, relAt, llc, reqs, scopeWrites,
      copies, drains, colls, pwaits, pigeon, pigeonHeld, sccGrid, sccHalted, sccSaved, tlbs, wcache, saved, queues, turns, ctxs, fw⟩ :=
  h.same rfl

/-- A change elsewhere that gives names out. -/
theorem Kept.named {n : Nat} (h : Kept s t) (hn : t.nextId ≤ n := by exact Nat.le_succ _) :
    Kept s ⟨cur, inputs, plan, choice, free, n, tick, warps, blocks, groups, t.grids, cores, t.mem, t.arr, relAt, llc, reqs, scopeWrites,
      copies, drains, colls, pwaits, pigeon, pigeonHeld, sccGrid, sccHalted, sccSaved, tlbs, wcache, saved, queues, turns, ctxs, fw⟩ := by
  refine ⟨h.mem, fun hs => ?_⟩
  obtain ⟨hr, hb⟩ := h.names hs
  exact ⟨hr, fun p hp => Nat.lt_of_lt_of_le (hb p hp) hn⟩

/-- A change elsewhere that also takes grids away, or changes them under their names. -/
theorem Kept.regrid {grids : Map Grid} (h : Kept s t) (hg : (grids.map (·.1)).Sublist (t.grids.map (·.1))) :
    Kept s ⟨cur, inputs, plan, choice, free, t.nextId, tick, warps, blocks, groups, grids, cores, t.mem, t.arr, relAt, llc, reqs, scopeWrites,
      copies, drains, colls, pwaits, pigeon, pigeonHeld, sccGrid, sccHalted, sccSaved, tlbs, wcache, saved, queues, turns, ctxs, fw⟩ := by
  refine ⟨h.mem, fun hs => ?_⟩
  obtain ⟨hr, hb⟩ := h.names hs
  refine ⟨hr.sublist hg, fun p hp => ?_⟩
  obtain ⟨q, hq, e⟩ := List.mem_map.mp (hg.subset (List.mem_map_of_mem hp))
  exact e ▸ hb q hq

end Record

namespace Kept

/-! ### Memory (R6, R226, R235) -/

/-- A change of memory that keeps its form. -/
theorem written (h : Kept s t) (hm : t.memOk → u.memOk) (e : (u.grids, u.nextId) = (t.grids, t.nextId)) : Kept s u := by
  obtain ⟨hg, hn⟩ := Prod.mk.inj e
  exact ⟨hm ∘ h.mem, by simpa [State.namesOk, hg, hn] using h.names⟩

theorem setByte {k v} (h : Kept s t) : Kept s (t.setByte k v) :=
  h.written (fun hm => hm.setByte k v) (by unfold State.setByte; split <;> rfl)

theorem setBytes {cs} (h : Kept s t) : Kept s (t.setBytes cs) := h.foldl fun h => h.setByte

theorem setHost {cs} (h : Kept s t) : Kept s (t.setHost cs) :=
  h.written (fun hm => hm.setHost cs) rfl

theorem setReq {k r} (h : Kept s t) : Kept s (t.setReq k r) := h.same rfl

theorem showStore {k} (h : Kept s t) : Kept s (t.showStore k) := by
  unfold State.showStore
  split
  · exact h.setHost.setReq
  · exact h

theorem showOver {p} (h : Kept s t) : Kept s (t.showOver p) := h.foldl fun h => h.showStore

theorem llcUse {l w} (h : Kept s t) : Kept s (t.llcUse l w) := .ite h (h.same rfl)
theorem llcUses {pas w} (h : Kept s t) : Kept s (t.llcUses pas w) := h.foldl fun h => h.llcUse
theorem toArray {cs} (h : Kept s t) : Kept s (t.toArray cs) := h.showOver.setHost.llcUses

theorem copyPage {a b} (h : Kept s t) : Kept s (t.copyPage a b) :=
  h.showOver.written (fun hm => ⟨Memory.wf_copyPageIn _ hm.1 _ _, Memory.wf_copyPageIn _ hm.2 _ _⟩) rfl

end Kept

/-! ### Grids (R188) -/

theorem State.namesOk.setGrid {g : Nat} {k : Grid} (hs : t.namesOk) (hg : g < t.nextId) : (t.setGrid g k).namesOk := by
  obtain ⟨hr, hb⟩ := hs
  refine ⟨List.pairwise_map.mpr (Map.rising_put g k (List.pairwise_map.mp hr)), fun p hp => ?_⟩
  rcases Map.mem_put hp with rfl | hp
  · exact hg
  · exact hb p hp

theorem Map.mem_of_get? {α : Type} {m : Map α} {k : Nat} {v : α} (h : Map.get? m k = some v) : (k, v) ∈ m := by
  induction m with
  | nil => simp [Map.get?] at h
  | cons p r ih =>
    obtain ⟨j, w⟩ := p
    simp only [Map.get?] at h
    split at h
    · simp_all
    · exact List.mem_cons_of_mem _ (ih h)

theorem State.namesOk.lt_of_has {g : Nat} (hs : t.namesOk) (hg : Map.has t.grids g = true) : g < t.nextId := by
  obtain ⟨k, hk⟩ := Option.isSome_iff_exists.mp hg
  exact hs.2 _ (Map.mem_of_get? hk)

/-- A write to a grid that stands in the table. -/
theorem Kept.setGrid {g k} (h : Kept s t) (hg : Map.has t.grids g = true) : Kept s (t.setGrid g k) :=
  ⟨h.mem, fun hs => (h.names hs).setGrid ((h.names hs).lt_of_has hg)⟩

namespace Kept

theorem updGrid {g f} (h : Kept s t) : Kept s (t.updGrid g f) := by
  unfold State.updGrid Map.upd
  split
  · next hk => exact h.setGrid (by simp [Map.has, hk])
  · exact h.same rfl

/-! ### Updates of one field -/

theorem setWarp {k x} (h : Kept s t) : Kept s (t.setWarp k x) := h.same rfl
theorem setCore {k x} (h : Kept s t) : Kept s (t.setCore k x) := h.same rfl
theorem setCtx {k x} (h : Kept s t) : Kept s (t.setCtx k x) := h.same rfl
theorem updWarp {k f} (h : Kept s t) : Kept s (t.updWarp k f) := h.same rfl
theorem updBlock {k f} (h : Kept s t) : Kept s (t.updBlock k f) := h.same rfl
theorem updCore {k f} (h : Kept s t) : Kept s (t.updCore k f) := h.same rfl
theorem updCtx {k f} (h : Kept s t) : Kept s (t.updCtx k f) := h.same rfl
theorem updLanes {k ls f} (h : Kept s t) : Kept s (t.updLanes k ls f) := h.same rfl
theorem addReq {r} (h : Kept s t) : Kept s (t.addReq r) := h.named
theorem delReq {k} (h : Kept s t) : Kept s (t.delReq k) := h.same rfl
theorem useFree (h : Kept s t) : Kept s t.useFree := h.same rfl
theorem passTo {n} (h : Kept s t) : Kept s (t.passTo n) := .ite (h.same rfl) h
theorem observeTick (h : Kept s t) : Kept s t.observeTick := h.same rfl
theorem fillTlb {c x} (h : Kept s t) : Kept s (t.fillTlb c x) := h.same rfl
theorem keepEntry {c e} (h : Kept s t) : Kept s (t.keepEntry c e) := h.same rfl
theorem staleFills {c x} (h : Kept s t) : Kept s (t.staleFills c x) := h.same rfl
theorem invalidateL1 {c} (h : Kept s t) : Kept s (t.invalidateL1 c) := h.same rfl
theorem wakeSlots (h : Kept s t) : Kept s t.wakeSlots := h.same rfl
theorem noteRelease {c r ks} (h : Kept s t) : Kept s (t.noteRelease c r ks) := h.same rfl
theorem charge {c g l n} (h : Kept s t) : Kept s (t.charge c g l n) := h.updCore.updGrid
theorem report {k a b} (h : Kept s t) : Kept s (t.report k a b) := h.same rfl

theorem touchEntry {c x v} (h : Kept s t) : Kept s (t.touchEntry c x v) := by
  unfold State.touchEntry
  split
  · exact h
  · exact h.same rfl

theorem setScope {l o r v} (h : Kept s t) : Kept s (t.setScope l o r v) := .ite h.updBlock (.ite (h.same rfl) h.updGrid)

/-! ### Counts (R393) -/

theorem count {g c n} (h : Kept s t) : Kept s (t.count g c n) := by
  unfold State.count
  split
  · exact h
  · exact h.updGrid

theorem flushCache {w} (h : Kept s t) : Kept s (t.flushCache w) := .ite h h.updWarp.count

theorem countEngine {g cs} (h : Kept s t) : Kept s (t.countEngine g cs) := by
  unfold State.countEngine
  split
  · exact h
  · exact h.foldl fun h => h.count.useFree

/-! ### Writes performed at home (R226, R398), and completion signals -/

theorem captureStatus {x k} (h : Kept s t) : Kept s (t.captureStatus x k) := by
  unfold State.captureStatus
  split
  · exact h
  · split
    · exact h.setBytes.toArray
    · exact h

theorem savePage {x p} (h : Kept s t) : Kept s (t.savePage x p) := by
  refine h.foldl fun h => .ite h ?_
  split
  · exact h.copyPage.updCtx.captureStatus
  · exact h.updCtx.captureStatus

theorem perform {x cs} (h : Kept s t) : Kept s (t.perform x cs) := (h.foldl fun h => .ite h.savePage h).setBytes
theorem performSys {x cs} (h : Kept s t) : Kept s (t.performSys x cs) := h.perform.toArray

theorem writeVa {x v bs} (h : Kept s t) : Kept s (t.writeVa x v bs) := by
  unfold State.writeVa
  split
  · exact h.performSys
  · exact h

theorem signal {x v a b} (h : Kept s t) : Kept s (t.signal x v a b) := by
  refine .ite h (.ite h.report ?_)
  split
  · exact h.report
  · exact h.performSys

/-! ### Ends of lanes, warps, blocks (R191) -/

theorem setBarrier {w c i b} (h : Kept s t) : Kept s (t.setBarrier w c i b) := .ite (h.same rfl) h.updBlock
theorem arrive {w c i} (h : Kept s t) : Kept s (t.arrive w c i) := .ite h.setBarrier.updWarp h
theorem arriveAll {w} (h : Kept s t) : Kept s (t.arriveAll w) := h.foldl fun h => h.arrive
theorem voidTasks {w ls} (h : Kept s t) : Kept s (t.voidTasks w ls) := h.same rfl
theorem flushDet {w} (h : Kept s t) : Kept s (t.flushDet w) := .ite h.updCore h
theorem afterLanes {w} (h : Kept s t) : Kept s (t.afterLanes w) := by
  unfold State.afterLanes
  exact .ite h.arriveAll h.arriveAll.flushDet.flushCache.updCore
theorem endLanes {w ls} (h : Kept s t) : Kept s (t.endLanes w ls) := h.voidTasks.updWarp.afterLanes
theorem post {c r} (h : Kept s t) : Kept s (t.post c r) := h.observeTick.same rfl
theorem postLate {c r} (h : Kept s t) : Kept s (t.postLate c r) := .ite h.post (h.same rfl)
theorem postHeld {c} (h : Kept s t) : Kept s (t.postHeld c) := h.foldl fun h => .ite (post (h.same rfl)) h
theorem tokenDone {w k} (h : Kept s t) : Kept s (t.tokenDone w k) := .ite h.updWarp (h.same rfl)
theorem addStore {a b c d e f cs n ls} (h : Kept s t) : Kept s (t.addStore a b c d e f cs n ls) := .ite h h.addReq
theorem freeTiles {c} (h : Kept s t) : Kept s (t.freeTiles c) := h.same rfl
theorem cancelWalks {b a n} (h : Kept s t) : Kept s (t.cancelWalks b a n) := h.updCore
theorem dropBanks {w b} (h : Kept s t) : Kept s (t.dropBanks w b) := h.updWarp
theorem endGroup {g} (h : Kept s t) : Kept s (t.endGroup g) := by
  unfold State.endGroup
  exact .ite (h.same rfl) h

theorem aeFinish {w} (h : Kept s t) : Kept s (t.aeFinish w) := by
  unfold State.aeFinish
  dsimp only
  split
  · refine .ite h (frame ?_)
    split
    · exact .ite h.updCore h.updCore.addStore
    · exact h.updCore
  · exact h

theorem aeEnd {w c} (h : Kept s t) : Kept s (t.aeEnd w c) := by
  unfold State.aeEnd
  split
  · exact h.updWarp.aeFinish
  · exact h
end Kept

end Sys2Proof.Machine
end

section
/-! PROOFS. `Kept` for the ends of blocks and grids (R191) and for the trace (R388, R389). -/

namespace Sys2Proof.Machine
variable {s t u : State}
namespace Kept

theorem endBlock {b} (h : Kept s t) : Kept s (t.endBlock b) := by
  unfold State.endBlock
  refine endGroup (freeTiles (frame (updCore (cancelWalks ?_))))
  split
  · exact .ite h.aeEnd.dropBanks h
  · exact h

theorem countsOf {k} (h : Kept s t) : Kept s (t.countsOf k).2 := h.same rfl
theorem updPacket {p f} (h : Kept s t) : Kept s (t.updPacket p f) := h.same rfl
theorem dropPacket {p} (h : Kept s t) : Kept s (t.dropPacket p) := h.same rfl

theorem packetDone {p} (h : Kept s t) : Kept s (t.packetDone p) := by
  unfold State.packetDone
  split
  · exact h
  · exact .ite h.dropPacket.signal h

end Kept

/-- A grid that is over stands in the table: what `grid` answers for any other name has ended. -/
theorem State.has_of_gridOver {g : Nat} (h : t.gridOver g = true) : Map.has t.grids g = true := by
  cases hg : Map.get? t.grids g with
  | some k => simp only [Map.has, hg, Option.isSome_some]
  | none =>
    have ha : t.grid g = .absent := by simp only [State.grid, Map.getD, hg, Option.getD_none]
    simp only [State.gridOver, ha, Grid.absent, Bool.not_true, Bool.false_and] at h
    cases h

namespace Kept

theorem endGrid {g} (h : Kept s t) (hg : Map.has t.grids g = true) : Kept s (t.endGrid g) := by
  unfold State.endGrid
  extract_lets k status begun ended seed told counted orphanOf parted woken
  have h1 : Kept s ended := (h.setGrid hg).frame
  have h2 : Kept s told := .ite h1 h1.signal
  have h3 : Kept s counted := by
    unfold counted
    split
    · exact h2
    · have h3 {p f} : Kept s (if status.1 != 0 && (seed || k.info.signal == 0) then told.updPacket p f else told) := .ite h2.updPacket h2
      refine packetDone (updPacket ?_)
      split
      · exact writeVa h3.frame
      · exact h3
  have h4 : Kept s woken := by
    refine wakeSlots (h3.regrid ?_)
    rw [List.map_map, List.map_congr_left (g := (·.1)) fun p _ => by simp only [Function.comp_apply]; split <;> rfl]
    exact List.filter_sublist.map _
  exact .ite (h4.regrid (List.filter_sublist.map _)) h4

theorem sweep (h : Kept s t) : Kept s t.sweep := by
  refine foldl (foldl h fun h => .ite h.endBlock (.ite h.cancelWalks h)) fun {t g} h => ?_
  split
  · next hg => exact h.endGrid (State.has_of_gridOver hg)
  · exact h

theorem dropAe {k w} (h : Kept s t) : Kept s (t.dropAe k w) := by
  unfold State.dropAe
  split
  · dsimp only
    split
    · exact addStore h.frame
    · exact h.frame
  · exact h

theorem walksEnd {c n ws} (h : Kept s t) : Kept s (t.walksEnd c n ws) := by
  refine h.foldl fun h => ?_
  split
  · exact .ite h.postLate h
  · exact h

theorem commandsEnd {n ms} (h : Kept s t) : Kept s (t.commandsEnd n ms) := h.foldl fun h => h.named

theorem dropImage {c b m} (h : Kept s t) : Kept s (t.dropImage c b m) :=
  (foldl (walksEnd (commandsEnd h.frame)) fun h => h.dropAe).endGroup

theorem kill {g a b} (h : Kept s t) : Kept s (t.kill g a b) := by
  unfold State.kill
  dsimp only
  split
  · exact h
  · next hg =>
    have hh : Map.has t.grids g = true := by simp_all
    refine sweep (frame (foldl (foldl (h.setGrid hh) fun h => h.dropImage) fun h => ?_))
    refine foldl ?_ fun h => h.updWarp.endLanes
    split
    · exact .ite h.updCore.cancelWalks.aeEnd h.updCore.cancelWalks
    · exact h.updCore.cancelWalks

/-! ### Trace -/
theorem traceAt {c x n r} (h : Kept s t) : Kept s (t.traceAt c x n r) := by
  unfold State.traceAt
  exact h.setBytes.toArray.updCore

theorem traceOut {c n r} (h : Kept s t) : Kept s (t.traceOut c n r) := by
  unfold State.traceOut
  split
  · exact h
  · refine .ite h.useFree.updCore (.ite h.useFree.traceAt ?_)
    dsimp only
    split
    · exact h.useFree.traceAt.traceAt
    · exact h.useFree.traceAt

theorem traceSync {k w b} (h : Kept s t) : Kept s (t.traceSync k w b) := by
  unfold State.traceSync
  exact .ite h (h.traceOut.foldl fun h => h.traceOut).updWarp

theorem traceIssue {k w b pc pr fr n ds} (h : Kept s t) : Kept s (t.traceIssue k w b pc pr fr n ds) := by
  have hs : Kept s (t.observeTick.traceSync k w b) := h.observeTick.traceSync
  unfold State.traceIssue
  exact .ite h (.ite (.ite hs hs.traceOut) (.ite (.traceOut (.ite hs hs.traceOut)) (.foldl (.ite hs hs.traceOut) fun h => h.traceOut)))

end Kept
end Sys2Proof.Machine
end

section
/-! PROOFS. `Kept` for traps and for the issue of an instruction; the same for the outcomes `Gate`, `Eff` and `Out`, and the frame
`issue`: an instruction keeps both invariants where its own part does. -/

namespace Sys2Proof.Machine
variable {s t u : State}
namespace Kept

/-! ### Traps (R24, R359 to R362) -/

theorem haltScc {k c} (h : Kept s t) : Kept s (t.haltScc k c) := h.same rfl

theorem takeTrap {k b ls c f pc r} (h : Kept s t) : Kept s (t.takeTrap k b ls c f pc r) := by
  unfold State.takeTrap
  dsimp only
  split
  · exact h.aeEnd.sweep
  · exact h.haltScc
  · exact h.kill
  · exact .ite h.updWarp.updLanes.count.count h.updWarp.updLanes.count

theorem stall {k r} (h : Kept s t) : Kept s (t.stall k r) := by
  unfold State.stall
  split
  · exact h
  · exact h.updWarp.flushCache.updCore

theorem rest {k} (h : Kept s t) : Kept s (t.rest k) := .ite h.stall h
theorem parkHead {i ls} (h : Kept s t) : Kept s (t.parkHead i ls) := h.updLanes.rest

theorem fragTrap {i c f} (h : Kept s t) : Kept s (t.fragTrap i c f) := by
  unfold State.fragTrap
  exact .ite h.updLanes.updWarp h.updLanes.takeTrap

/-! ### The issue (R86) -/

theorem popGroup {i q} (h : Kept s t) : Kept s (t.popGroup i q) := by
  unfold State.popGroup
  dsimp only
  split <;> refine updWarp ?_
  · exact h
  · exact h.updCore.count
  · exact h

theorem countIssue {i n l} (h : Kept s t) : Kept s (t.countIssue i n l) := by
  unfold State.countIssue
  exact .ite h h.count.count.count.count.charge.updCore

theorem compare {c i} (h : Kept s t) : Kept s (t.compare c i) := .ite h.updWarp h
theorem traced {s₀ w i n} (h : Kept s t) : Kept s (t.traced s₀ w i n) := .ite h h.traceIssue
theorem noteSeq {w i n} (h : Kept s t) : Kept s (t.noteSeq w i n) := h.same rfl
theorem noteLate {k pc pr l ls} (h : Kept s t) : Kept s (t.noteLate k pc pr l ls) := .ite h.updWarp h

theorem skip {w i n} (h : Kept s t) : Kept s (t.skip w i n) := by
  unfold State.skip
  extract_lets s1 s2 s3
  have h3 : Kept s s3 := h.updLanes.traced.updWarp.noteSeq.countIssue
  exact compare (.ite h3.count h3)

theorem delay {i w ls ds} (h : Kept s t) : Kept s (t.delay i w ls ds) :=
  h.foldl fun h => h.foldl fun h => .ite h h.updWarp.addReq

theorem cached {w i n} (h : Kept s t) : Kept s (t.cached w i n) := .ite h h.updWarp.count.count

theorem issued {w i n b} (h : Kept s t) : Kept s (t.issued w i n b) := by
  unfold State.issued
  refine .ite h ?_
  extract_lets off pops s1 s2 s3 s4 done s5 s6 s7 s8 s9
  have h4 : Kept s s4 := h.updLanes.updWarp.noteSeq.countIssue
  have h5 : Kept s s5 := .ite h4 h4.delay
  have h7 : Kept s s7 := .ite h5.cached.stall h5.cached
  have h8 : Kept s s8 := .ite h7.updWarp h7
  split
  · exact h8.updWarp
  · have h9 : Kept s s9 := .ite h8 h8.updWarp
    exact .ite h9.compare h9

end Kept

/-! ### Outcomes -/

/-- What the checks of an instruction leave keeps both invariants. -/
def Gate.Kept (s : State) : Gate → Prop
  | .go t | .stop t => Machine.Kept s t

/-- What an instruction's own part leaves keeps both invariants. -/
def Eff.Kept (s : State) : Eff → Prop
  | .ok t | .part t | .fin t | .blocked t => Machine.Kept s t
  | .trap _ _ | .wait _ => True

/-- The next state, where an outcome is one, keeps both invariants. -/
def Out.Kept (s : State) : Out → Prop
  | .next t => Machine.Kept s t
  | .fault _ | .refused _ => True

theorem Kept.next (h : Kept s t) : Out.Kept s (.next t) := h

theorem Gate.Kept.ite {c : Prop} [Decidable c] {a b : Gate} (ha : a.Kept s) (hb : b.Kept s) : (if c then a else b).Kept s := by
  split
  · exact ha
  · exact hb

theorem Eff.Kept.ite {c : Prop} [Decidable c] {a b : Eff} (ha : a.Kept s) (hb : b.Kept s) : (if c then a else b).Kept s := by
  split
  · exact ha
  · exact hb

theorem Out.Kept.ite {c : Prop} [Decidable c] {a b : Out} (ha : a.Kept s) (hb : b.Kept s) : (if c then a else b).Kept s := by
  split
  · exact ha
  · exact hb

theorem Kept.gate {w i n} (h : Kept s t) : (t.gate w i n).Kept s := by
  refine .ite h.stall (.ite h.skip (.ite h.fragTrap (.ite h.fragTrap (.ite h.parkHead ?_))))
  split
  · exact h.fragTrap
  · exact .ite h (.ite (h.foldl fun h => h.popGroup) (.ite h.stall h))

theorem Kept.outcome {t' w i n e} (h : Kept s t) (h' : Kept s t') (he : e.Kept s) : Kept s (t.outcome t' w i n e) := by
  cases e with
  | ok x => exact Kept.issued (Kept.traced he)
  | part x => exact Kept.issued (Kept.traced he)
  | fin x => exact (Kept.issued (Kept.traced he)).sweep
  | trap c f => exact Kept.fragTrap (.ite h'.traced.countIssue h')
  | wait r => exact h.stall
  | blocked x => exact he

theorem Kept.issueBy {k w n f} (h : Kept s t) (hf : ∀ {i t}, Kept s t → (f i t).Kept s) : Kept s (t.issueBy k w n f) := by
  refine .ite h ?_
  split
  · exact h
  · next hd hh =>
    have hg : (t.gate w (w.iss k hd n.wlen) n).Kept s := h.gate
    dsimp only
    split
    · next e => rw [e] at hg; exact hg
    · next e => rw [e] at hg; exact h.outcome hg (hf hg)

theorem Kept.issue {n f} (h : Kept s t) (hf : ∀ {i t}, Kept s t → (f i t).Kept s) : (issue t n f).Kept s := by
  unfold Machine.issue
  split
  · trivial
  · split
    · trivial
    · exact h.issueBy hf

theorem Kept.adv {i} (h : Kept s t) : Kept s (t.adv i) := h.updLanes

end Sys2Proof.Machine
end

section
/-! PROOFS. Lane instructions and transfers of control keep both invariants. -/

namespace Sys2Proof.Machine
variable {s t u : State}

/-! ### Frames of lane instructions -/

theorem lanewise_kept {n f} : (lanewise s n f).Kept s := Kept.issue .refl fun h => h.updLanes.adv

theorem agree_kept {α : Type} [DecidableEq α] {i} {f : Nat → α} {k} (hk : ∀ x, (k x).Kept s) : (agree i f k).Kept s := by
  unfold agree
  split
  · trivial
  · exact .ite (hk _) trivial

theorem fpwise_kept {n f} : (fpwise s n f).Kept s := Kept.issue .refl fun h => .ite h.updLanes h.updLanes.takeTrap

namespace Kept

/-! ### Releases and acquires (R223 to R226) -/

theorem acquire {k n} (h : Kept s t) : Kept s (t.acquire k n) := .ite h h.invalidateL1.count
theorem acquired {k b} (h : Kept s t) : Kept s (t.acquired k b) := by
  have hn : Kept s { t.updWarp k (fun w => { w with acqSeq := t.nextId }) with nextId := t.nextId + 1 } := h.named
  exact .ite hn.acquire hn

theorem settleAcquire {k} (h : Kept s t) : Kept s (t.settleAcquire k) := by
  unfold State.settleAcquire
  split
  · exact .ite h h.updWarp.acquired
  · exact h

theorem noteRel {k} (h : Kept s t) : Kept s (t.noteRel k) := h.same rfl
theorem deliver {k l d v b n} (h : Kept s t) : Kept s (t.deliver k l d v b n) := by
  unfold State.deliver
  exact h.updWarp.addReq
theorem deliverAll {i d v b n} (h : Kept s t) : Kept s (t.deliverAll i d v b n) := h.foldl fun h => h.deliver
theorem reopen {c x q} (h : Kept s t) : Kept s (t.reopen c x q) := h.updCore

theorem enterAll {i b ts f k} (h : Kept s t) (hk : ∀ {t}, Kept s t → (k t).Kept s) : (enterAll t i b ts f k).Kept s := by
  unfold Machine.enterAll
  dsimp only
  split
  · trivial
  · trivial
  · exact hk (.ite (h.foldl fun h => .ite h h.reopen) h)

/-! ### Tasks that abort (R269 to R279) -/

theorem cancelLoads {k l} (h : Kept s t) : Kept s (t.cancelLoads k l) := by
  unfold State.cancelLoads
  exact updWarp (settleAcquire (updWarp h.frame))

theorem unbegin {g n} (h : Kept s t) : Kept s (t.unbegin g n) := h.updGrid
theorem dropLane {k l} (h : Kept s t) : Kept s (t.dropLane k l) := h.same rfl

theorem abortTask {c n b} (h : Kept s t) : Kept s (t.abortTask c n b) := by
  unfold State.abortTask
  split
  · exact h
  · refine .ite (.ite h.updCore h) ?_
    extract_lets s1
    have h1 : Kept s s1 := .ite h.unbegin h
    exact .ite (.ite h1.updCore.updWarp h1.updCore) h1.cancelLoads.dropLane.updWarp.updCore.updGrid.count

theorem leaveHandler {k l} (h : Kept s t) : Kept s (t.leaveHandler k l) := by
  unfold State.leaveHandler
  dsimp only
  split
  · exact h
  · split
    · exact .ite h.abortTask h
    · exact h

/-! ### Transfers of control (R13, R106 to R109) -/

theorem countLanes {k c} (h : Kept s t) : Kept s (t.countLanes k c) := .ite h.count h

theorem transfer {i f} (h : Kept s t) : Kept s (t.transfer i f) := by
  unfold State.transfer
  dsimp only
  split
  · exact .ite h.updLanes.countLanes.countLanes h.updLanes.countLanes
  · exact h.updLanes.countLanes

theorem linkAll {i} (h : Kept s t) : Kept s (t.linkAll i) := .ite h.updLanes (h.same rfl)
theorem endHandler {k ls} (h : Kept s t) : Kept s (t.endHandler k ls) := .ite h.endLanes.kill h.endLanes

theorem prefixBy {k w f} (h : Kept s t) : Kept s (t.prefixBy k w f) := by
  refine .ite h ?_
  split
  · exact h
  · dsimp only
    split
    · exact h.updWarp
    · exact h.fragTrap
end Kept

theorem prefixed_kept {f} : (prefixed s f).Kept s := by
  unfold prefixed
  split
  · trivial
  · split
    · trivial
    · exact Kept.prefixBy .refl

theorem execBra_kept {o p} : (execBra o p s).Kept s := by
  refine Kept.issue .refl fun h => ?_
  split
  · trivial
  · exact .ite h.transfer trivial

theorem execBrc_kept {o p n c} : (execBrc o p n c s).Kept s := by
  refine Kept.issue .refl fun h => .ite trivial ?_
  split
  · exact .ite trivial h.transfer
  · exact h.transfer

theorem execCall_kept {o p} : (execCall o p s).Kept s := by
  refine Kept.issue .refl fun h => ?_
  split
  · trivial
  · exact .ite h.linkAll.transfer trivial

theorem execCallp_kept {q e} : (execCallp q e s).Kept s := by
  refine Kept.issue .refl fun h => h.enterAll fun h => ?_
  dsimp only
  split
  · trivial
  · exact h.linkAll.transfer

theorem toRegister_kept {n b r p} : (toRegister s n b r p).Kept s :=
  Kept.issue .refl fun h => .ite trivial (h.enterAll fun h => Kept.transfer (.ite h.linkAll h))

theorem execJenrol_kept {j} : (execJenrol j s).Kept s := Kept.issue .refl fun h => h.updWarp.adv
theorem execJleave_kept {j} : (execJleave j s).Kept s := Kept.issue .refl fun h => h.updWarp.adv
theorem jwait_kept {l j p} : (jwait s l j p).Kept s := Kept.issue .refl fun h => h.adv.updLanes

theorem exitBy_kept {l} : (exitBy s l).Kept s := by
  refine Kept.issue .refl fun h => .ite trivial (.ite trivial ?_)
  split
  · exact h.aeEnd
  · exact h.haltScc
  · exact .ite h.endHandler h.updWarp.afterLanes

theorem execTrap_kept {c} : (execTrap c s).Kept s := Kept.issue .refl fun _ => trivial
theorem execBrk_kept : (execBrk s).Kept s := Kept.issue .refl fun _ => trivial
theorem execNop_kept : (execNop s).Kept s := Kept.issue .refl fun h => h.adv
theorem execYield_kept : (execYield s).Kept s := Kept.issue .refl fun h => h.adv
theorem execRett_kept : (execRett s).Kept s := Kept.issue .refl fun h => h.updLanes.foldl fun h => h.leaveHandler
theorem execSetrpc_kept {a b} : (execSetrpc a b s).Kept s := Kept.issue .refl fun h => agree_kept fun _ => h.updLanes.adv

theorem execTexit_kept {a} : (execTexit a s).Kept s := by
  refine Kept.issue .refl fun h => agree_kept fun _ => ?_
  dsimp only
  split
  · exact .ite h.adv h.adv.haltScc
  · exact h.adv.endHandler

theorem execTsvc_kept : (execTsvc s).Kept s := Kept.issue .refl fun h => .ite h.updWarp h.updLanes

end Sys2Proof.Machine
end

section
/-! PROOFS. Scope registers, crosswise instructions, spawns, launches and barriers keep both invariants. -/

namespace Sys2Proof.Machine
variable {s t u : State}

/-! ### Scope registers (R161 to R173) -/

theorem Kept.scopeWrite {i d o v} (h : Kept s t) : (t.scopeWrite i d o v).Kept s := by
  have hw {f} : Kept s ((t.updWarp i.u f).adv i) := h.updWarp.adv
  unfold State.scopeWrite
  extract_lets w det
  split
  extract_lets send
  have hs : send.Kept s := by
    unfold send
    split
    · exact h.adv
    · exact (h.named).adv
  refine .ite hw (.ite (.ite ?_ ?_) (.ite trivial (.ite ?_ hs)))
  · split
    · exact hw
    · trivial
  · split
    · exact hw
    · exact hs
  · split
    · exact hw
    · exact hs

theorem movu_kept {d a b} : (movu s d a b).Kept s :=
  Kept.issue .refl fun h => .ite trivial (.ite (.ite trivial h.updWarp.adv) (.ite trivial h.scopeWrite))

theorem redu_kept {o d a} : (redu s o d a).Kept s := by
  refine Kept.issue .refl fun h => .ite trivial (.ite h.updWarp.adv ?_)
  split
  · exact h.scopeWrite
  · exact h.adv

/-! ### Lanes that read one another (R174 to R176) -/

theorem crosswise_kept {n f} : (crosswise s n f).Kept s := Kept.issue .refl fun h => .ite trivial h.updLanes.adv

/-! ### Spawns and launches (R185 to R190) -/

theorem Kept.spawnAll {s₀ k ls} (h : Kept s t) : Kept s (State.spawnAll s₀ t k ls).2 := by
  induction ls generalizing t with
  | nil => exact h
  | cons x ls ih =>
    unfold State.spawnAll
    dsimp only
    split
    · exact h
    · split
      · exact h
      · exact ih h.updCore.count

theorem execSpawn_kept {a b} : (execSpawn a b s).Kept s := by
  refine Kept.issue .refl fun {i t} h => ?_
  extract_lets w v mine begun left todo go
  have hg {t} (h : Kept s t) : (go t).Kept s := .ite trivial (.ite h.spawnAll.updWarp.adv h.spawnAll.updWarp)
  exact .ite trivial (.ite (hg h) (h.enterAll hg))

theorem execBinfl_kept : (execBinfl s).Kept s := Kept.issue .refl fun h => h.updCore.adv

theorem Kept.trapLanes {i fs} (h : Kept s t) : Kept s (t.trapLanes i fs) := by
  unfold State.trapLanes
  dsimp only
  split
  · exact h
  · exact h.takeTrap

/-- A new handle is no larger than the next name: among the names from 1 on, the next name at the latest is free. -/
theorem State.namesOk.newHandle_le (hs : t.namesOk) : t.newHandle ≤ t.nextId := by
  unfold State.newHandle
  split
  · exact Nat.le_refl _
  · next hn =>
    cases hk : (List.range (t.grids.length + 1)).find? (fun k => !(Map.has t.grids (k + 1))) with
    | none => simp only [Option.getD_none]; omega
    | some k =>
      simp only [Option.getD_some]
      refine Nat.le_of_not_lt fun hlt => ?_
      have hh : Map.has t.grids (t.nextId - 1 + 1) = true := by
        simpa using (List.find?_range_eq_some.mp hk).2.2 (t.nextId - 1) (by omega)
      have := hs.lt_of_has hh
      omega

/-- A grid that takes a new handle, as the counter moves on. -/
theorem Kept.newGrid {k} (h : Kept s t) : Kept s (State.setGrid { t with nextId := t.nextId + 1 } t.newHandle k) := by
  refine ⟨h.mem, fun hs => ?_⟩
  obtain ⟨hr, hb⟩ := h.names hs
  exact State.namesOk.setGrid ⟨hr, fun p hp => Nat.lt_succ_of_lt (hb p hp)⟩ (Nat.lt_succ_of_le (h.names hs).newHandle_le)

theorem Kept.launch {k r} (h : Kept s t) : Kept s (t.launch k r).2 := by
  unfold State.launch
  split
  · exact h
  · dsimp only
    split
    · exact h.newGrid.updWarp.updPacket
    · exact h.newGrid.updWarp

theorem execJoin_kept {a} : (execJoin a s).Kept s := by
  refine Kept.issue .refl fun h => ?_
  dsimp only
  split
  · exact .ite h.adv.updLanes trivial
  · exact h.adv.updLanes

/-! ### Barriers (R179 to R184) -/

theorem arriveAt_kept {a l c n b p} : (arriveAt s a l c n b p).Kept s := by
  refine Kept.issue .refl fun {i t} h => .ite trivial (.ite trivial (.ite trivial (.ite trivial (.ite trivial (.ite trivial ?_)))))
  extract_lets s1 s2 s3 s4 s5
  have h3 : Kept s s3 := h.setBarrier.updWarp.adv
  have h5 : Kept s s5 := Kept.arrive (.ite h3.updLanes h3)
  exact Kept.ite h5.flushDet h5

theorem execBarw_kept {a b} : (execBarw a b s).Kept s := Kept.issue .refl fun h => .ite h.adv.updLanes.flushDet h.adv

/-! ### Translation (R206 to R212) -/

theorem Kept.startWalks {k} (h : Kept s t) : Kept s (t.startWalks k) := by
  unfold State.startWalks
  dsimp only
  split
  · exact h
  · refine h.foldl fun h => .ite h ?_
    split
    · exact h.fillTlb.updWarp
    · split
      · exact h.touchEntry.addReq
      · exact h.updWarp

theorem Kept.startCheck {i w ls a m b} (h : Kept s t) : Kept s (t.startCheck i w ls a m b) := by
  unfold State.startCheck
  exact h.updLanes.updWarp.startWalks

end Sys2Proof.Machine
end

section
/-! PROOFS. Accesses that begin, and what a may-fault instruction does when its checks end, keep both invariants. -/

namespace Sys2Proof.Machine
variable {s t u : State}

/-! ### Counts give no name out -/

@[simp] theorem State.count_nextId (g c n : Nat) : (t.count g c n).nextId = t.nextId := by
  unfold State.count
  split <;> rfl

@[simp] theorem State.llcUses_nextId (pas : List Nat) (w : Bool) : (t.llcUses pas w).nextId = t.nextId := by
  unfold State.llcUses
  induction (((pas.filter (fun k => !isSp k)).map (· / 256)).eraseDups) generalizing t with
  | nil => rfl
  | cons x l ih =>
    rw [List.foldl_cons, ih]
    unfold State.llcUse
    split <;> rfl

@[simp] theorem State.countServed_nextId (g : Nat) (pas : List Nat) (w : Bool) (n : Nat) : (t.countServed g pas w n).nextId = t.nextId := by
  unfold State.countServed
  split <;> simp

namespace Kept

/-! ### Accesses that begin (R198 to R248) -/

theorem updTask {c n f} (h : Kept s t) : Kept s (t.updTask c n f) := h.same rfl
theorem countServed {g pas w n} (h : Kept s t) : Kept s (t.countServed g pas w n) := .ite h h.llcUses.count.count

theorem readTables {c g x v n l k} (h : Kept s t) : Kept s (t.readTables c g x v n l k) := by
  induction n generalizing t l k with
  | zero => exact h
  | succ n ih =>
    unfold State.readTables
    dsimp only
    split
    · exact ih h.countServed.keepEntry
    · exact h.countServed

theorem touchXlat {c g x v b} (h : Kept s t) : Kept s (t.touchXlat c g x v b) := by
  unfold State.touchXlat
  extract_lets fill walked
  have hf {t y} (h : Kept s t) : Kept s (fill t y) := .ite h.fillTlb (h.same rfl)
  have hw : Kept s walked := by
    unfold walked
    split
    · exact h.touchEntry.readTables
    · exact h
  split
  · exact hf h
  · split
    · exact hf hw
    · exact hw

theorem fillFor {k c g w x b} (h : Kept s t) : Kept s (t.fillFor k c g w x b).2 := by
  unfold State.fillFor
  dsimp only
  split
  · exact h
  · refine addReq ?_
    split
    · exact h.setCore
    · exact h

theorem shieldLoads {k w l c ps} (h : Kept s t) : Kept s (t.shieldLoads k w l c ps) := h.same rfl

theorem l1Load {k ms l} (h : Kept s t) : Kept s (t.l1Load k ms l) := by
  unfold State.l1Load
  refine addReq (foldl_snd (foldl h.shieldLoads fun h => ?_) fun h => h.fillFor)
  split
  · exact .ite (h.named) h
  · exact h

theorem startLoad {k ms l o b} (h : Kept s t) : Kept s (t.startLoad k ms l o b) := by
  refine .ite (.ite h.addReq h.addReq) ?_
  split
  · exact h.updTask.addReq
  · split
    · exact .ite h.addReq (.ite h.l1Load h.addReq)
    · exact .ite h.addReq h.l1Load

theorem enterL1 {c cs} (h : Kept s t) : Kept s (t.enterL1 c cs) := by
  refine h.foldl fun h => ?_
  dsimp only
  split
  · exact h.named
  · exact h.foldl fun h => h.staleFills

theorem flushTask {k l} (h : Kept s t) : Kept s (t.flushTask k l) := by
  unfold State.flushTask
  dsimp only
  split
  · exact h
  · exact .ite h (foldl h fun h => h.addStore).updTask

theorem noteWrote {k l xs} (h : Kept s t) : Kept s (t.noteWrote k l xs) := by
  unfold State.noteWrote
  dsimp only
  split
  · exact h
  · exact h.updTask

theorem storeEnters {k l cs} (h : Kept s t) : Kept s (t.storeEnters k l cs) := .ite h h.shieldLoads.enterL1

theorem startStores {k ls} (h : Kept s t) : Kept s (t.startStores k ls) :=
  foldl (h.foldl fun h => h.flushTask.noteWrote.storeEnters) fun h => h.setBytes.foldl fun h => h.addStore.count

theorem l1Atom {k a b} (h : Kept s t) : Kept s (t.l1Atom k a b) := by
  unfold State.l1Atom
  split
  extract_lets n s1 s2 s3 s4
  have h4 : Kept s s4 := (foldl (frame (enterL1 (h.foldl fun h => h.shieldLoads))) fun h => h.addStore.count).count
  split
  · exact h4
  · exact h4.foldl fun h => h.addReq

theorem dropForAtom {c pas} (h : Kept s t) : Kept s (t.dropForAtom c pas) := h.foldl fun h => h.updCore.staleFills

theorem startL1Atom {a} (h : Kept s t) : Kept s (t.startL1Atom a) := by
  unfold State.startL1Atom
  suffices hf : Kept s (Prod.snd _) from .ite hf.l1Atom hf.addReq
  refine foldl_snd ?_ fun h => ?_
  · split
    · exact h.named
    · exact h
  · split
    · exact h
    · exact h.fillFor

theorem startAtoms {k a n b r ps} (h : Kept s t) : Kept s (t.startAtoms k a n b r ps) :=
  foldl (h.foldl fun h => h.flushTask.noteWrote) fun h => .ite h.startL1Atom (Kept.addReq (.ite h h.dropForAtom))

theorem markSeen {c pas} (h : Kept s t) : Kept s (t.markSeen c pas) := h.same rfl

/-! ### Instructions that complete at their checks (R22, R358) -/

theorem countSectors {k w ls ps} (h : Kept s t) : Kept s (t.countSectors k w ls ps) := h.count.count

theorem remark {k n} (h : Kept s t) : Kept s (t.remark k n) := by
  refine h.foldl fun h => ?_
  split
  · exact .ite h.updWarp h
  · exact h

theorem loadsGo {k c ps d b o a} (h : Kept s t) : Kept s (t.loadsGo k c ps d b o a) :=
  remark (foldl (.ite h.countSectors h) fun h => h.foldl fun h => h.startLoad)

theorem beginAcquire {k n b} (h : Kept s t) : Kept s (t.beginAcquire k n b) := .ite h.acquired h.updWarp

theorem storesGo {k c ps} (h : Kept s t) : Kept s (t.storesGo k c ps) := by
  refine startStores (h.foldl fun h => ?_)
  split
  · exact h.updTask
  · exact h

theorem pushLoad {k b ps} (h : Kept s t) : Kept s (t.pushLoad k b ps) := h.named

theorem effect {k c ps} (h : Kept s t) : Kept s (t.effect k c ps) := by
  unfold State.effect
  dsimp only
  generalize c.what = what
  cases what with
  | ld d z => exact h.loadsGo
  | ldo d z acq scope => exact .ite h.loadsGo.beginAcquire h.loadsGo
  | ldl d pads => exact h.loadsGo.foldl fun h => h.addReq
  | st => exact h.storesGo
  | stl => exact h.storesGo
  | sto scope => exact h.noteRel.storesGo
  | atom d aop ret ar scope =>
    have ha {c : Prop} [Decidable c] := Kept.ite (c := c) (h.noteRel (k := k)) h
    exact .ite ha.startAtoms.beginAcquire ha.startAtoms
  | img op acc =>
    dsimp only
    split
    · exact h.foldl fun h => h.loadsGo.updWarp
    · exact h.foldl fun h => h.startStores
    · exact h.foldl fun h => h.flushTask.noteWrote.dropForAtom.addReq
  | signal => exact h.noteRel.startAtoms
  | aeLd reg z =>
    dsimp only
    split
    · split
      · exact h.pushLoad
      · exact h.loadsGo
    · exact h

theorem countHits {c ns} (h : Kept s t) : Kept s (t.countHits c ns) := h.updCore
theorem discardSlot {w} (h : Kept s t) : Kept s (t.discardSlot w) := .ite h h.updCore.updGrid
theorem aeCheckFails {k x} (h : Kept s t) : Kept s (t.aeCheckFails k x) := .ite h.updWarp h.aeEnd.sweep

theorem checkDone {k} (h : Kept s t) : Kept s (t.checkDone k) := by
  unfold State.checkDone
  extract_lets w s1
  split
  · extract_lets lead fails mine failed traps ps parks ps' stay act i s2 s3 s4 s5
    split
    · exact h.aeCheckFails
    · have hn : Kept s s5 := h.updWarp.updLanes.countHits.effect.rest.noteLate
      exact .ite hn.updWarp.compare hn.trapLanes.discardSlot
  · exact h
end Kept

/-- An effect that may be absent keeps both invariants where it is there. -/
def Eff.OptKept (s : State) (o : Option Eff) : Prop := ∀ e, o = some e → e.Kept s

theorem Eff.OptKept.none : Eff.OptKept s none := nofun
theorem Eff.OptKept.some {e : Eff} (h : e.Kept s) : Eff.OptKept s (some e) := by rintro _ ⟨⟩; exact h

theorem Eff.OptKept.ite {c : Prop} [Decidable c] {a b : Option Eff} (ha : OptKept s a) (hb : OptKept s b) : OptKept s (if c then a else b) := by
  split
  · exact ha
  · exact hb

theorem mayFault_kept {n b own w m l a} (ho : ∀ {i t}, Eff.OptKept s (own i t)) : (mayFault s n b own w m l a).Kept s := by
  refine Kept.issue .refl fun h => ?_
  split
  · next he => exact ho _ he
  · exact .ite h.parkHead h.startCheck

namespace Kept
theorem prefetchPages {w ls a} (h : Kept s t) : Kept s (t.prefetchPages w ls a) := h.foldl fun h => .ite h h.touchXlat
theorem prefetchLine {c g w l} (h : Kept s t) : Kept s (t.prefetchLine c g w l) := h.foldl fun h => .ite h.count h.fillFor.count

theorem recordSector {c g ks x} (h : Kept s t) : Kept s (t.recordSector c g ks x) := by
  refine .ite ?_ ?_
  · split
    · exact h.setCore.count.named (by simp)
    · exact h.count
  · dsimp only
    split
    · exact h.markSeen.staleFills.count.countServed.setCore.named (by simp)
    · exact h.markSeen.staleFills.count.countServed

theorem readRecord {k l v ks} (h : Kept s t) : Kept s (t.readRecord k l v ks).2 := by
  unfold State.readRecord
  extract_lets w nc s1
  have h1 : Kept s s1 := .ite h (h.foldl fun h => h.touchXlat)
  split
  · exact h1
  · split
    · exact h1.updTask
    · split
      · exact h1.markSeen
      · exact h1.shieldLoads.foldl fun h => h.recordSector
end Kept

end Sys2Proof.Machine
end

section
/-! PROOFS. Memory instructions, records, labels, queues, transaction barriers and copies keep both invariants. -/

namespace Sys2Proof.Machine
variable {s t u : State}

/-! ### Loads, stores, atomics and images (R87, R113 to R116, R239 to R248) -/

theorem execLd_kept {d a z o} : (execLd d a z o s).Kept s := by
  unfold execLd
  exact mayFault_kept (.ite (.some trivial) (.ite (.some trivial) .none))

theorem execSt_kept {d a z o} : (execSt d a z o s).Kept s := by
  unfold execSt
  exact mayFault_kept (.ite (.some trivial) .none)

theorem execLdo_kept {d a z o c} : (execLdo d a z o c s).Kept s := by
  unfold execLdo
  exact mayFault_kept .none

theorem execSto_kept {d a z c} : (execSto d a z c s).Kept s := by
  unfold execSto
  exact mayFault_kept (.ite .none (.some trivial))

theorem atomic_kept {b d a c r p} : (atomic s b d a c r p).Kept s := by
  unfold atomic
  exact mayFault_kept (.ite (.some trivial) (.ite (.some trivial) .none))

theorem image_kept {o c a rd wr} : (image s o c a rd wr).Kept s := by
  unfold image
  exact mayFault_kept (.ite (.some trivial) (.ite (.some trivial) .none))

theorem execPrf_kept {a} : (execPrf a s).Kept s :=
  Kept.issue .refl fun h => Kept.adv (.ite h.prefetchPages (h.prefetchPages.foldl fun h => h.prefetchLine))

theorem execPrfl_kept {a} : (execPrfl a s).Kept s := Kept.issue .refl fun h => (h.prefetchPages.foldl fun h => h.countServed).adv
theorem execInv_kept : (execInv s).Kept s := Kept.issue .refl fun h => Kept.adv (.ite h h.acquire)

theorem accumulate_kept {c l f} : (accumulate s c l f).Kept s := Kept.issue .refl fun h => .ite trivial h.updWarp.adv
theorem execXclr_kept {c} : (execXclr c s).Kept s := Kept.issue .refl fun h => .ite trivial h.updWarp.adv

theorem execXrnd_kept {d c} : (execXrnd d c s).Kept s := by
  unfold execXrnd
  exact .ite (Kept.issue .refl fun _ => trivial) fpwise_kept

/-! ### Records and descriptors (R188, R285) -/

theorem Trap.all_kept {x : Trap} : x.all.Kept s := trivial

theorem withDescriptor_kept {i a n l f} (h : Kept s t) (hf : ∀ {t v r}, Kept s t → (f t v r).Kept s) : (withDescriptor i t a n l f).Kept s := by
  unfold withDescriptor
  refine agree_kept fun va => ?_
  unfold State.descriptor
  split
  · next e => trivial
  · trivial
  · next e =>
    split at e
    · cases e
    · split at e
      · cases e
      · split at e
        · cases e
        · cases e
          exact hf h.readRecord

theorem Kept.launchCheck {k w l v r u} (h : Kept s t) (e : t.launchCheck k w l v = .inr (r, u)) : Kept s u := by
  unfold State.launchCheck at e
  split at e
  · cases e
  · split at e
    · cases e
    · dsimp only at e
      split at e
      · cases e
      · split at e
        · cases e
        · cases e
          exact h.readRecord

theorem execLaunch_kept {d a} : (execLaunch d a s).Kept s := by
  refine Kept.issue .refl fun h => .ite h.trapLanes (.ite trivial ?_)
  refine Kept.adv (Kept.foldl (Kept.foldl_snd h fun h => ?_) fun h => h.launch.deliver)
  split
  · exact h
  · next e => exact h.launchCheck e

/-! ### Labels (R213, R214, R256 to R258) -/

theorem execLbdef_kept {d a} : (execLbdef d a s).Kept s := by
  refine Kept.issue .refl fun h => withDescriptor_kept h fun h => ?_
  split
  · trivial
  · dsimp only
    split
    · exact h.deliverAll.adv
    · exact h.updCore.deliverAll.adv

theorem labelTrap_kept {xs d b} : Eff.OptKept s (labelTrap xs d b) := by
  unfold labelTrap
  dsimp only
  split
  · exact .some trivial
  · refine .ite (.some trivial) ?_
    split
    · exact .some trivial
    · exact .none

theorem execLdl_kept {d a b} : (execLdl d a b s).Kept s := by
  refine Kept.issue .refl fun h => ?_
  dsimp only
  split
  · next he => exact labelTrap_kept _ he
  · exact .ite trivial (.ite h.parkHead h.startCheck)

theorem execStl_kept {d a b} : (execStl d a b s).Kept s := by
  refine Kept.issue .refl fun h => ?_
  dsimp only
  split
  · next he => exact labelTrap_kept _ he
  · exact .ite h.parkHead h.startCheck

theorem execLbfree_kept {a} : (execLbfree a s).Kept s := by
  refine Kept.issue .refl fun h => ?_
  dsimp only
  split
  · trivial
  · exact h.updCore.adv

/-! ### Queues and banks (R204, R205, R252 to R254) -/

theorem onFifo_kept {i b f} (hf : ∀ {x}, (f x).Kept s) : (onFifo i t b f).Kept s := .ite hf trivial

theorem execQmap_kept {d b} : (execQmap d b s).Kept s :=
  Kept.issue .refl fun h => onFifo_kept (.ite trivial (.ite trivial h.updWarp.adv))

theorem execQunmap_kept {d} : (execQunmap d s).Kept s := by
  refine Kept.issue .refl fun h => .ite trivial ?_
  split
  · exact h.adv
  · exact h.updWarp.adv

theorem execQtst_kept {p b} : (execQtst p b s).Kept s := Kept.issue .refl fun h => onFifo_kept h.updLanes.adv

theorem Kept.setBankOf {w k x} (h : Kept s t) : Kept s (t.setBankOf w k x) := h.updCore
theorem execQpush_kept {a b} : (execQpush a b s).Kept s := Kept.issue .refl fun h => onFifo_kept (.ite trivial (.ite trivial h.setBankOf.adv))
theorem execQclose_kept {b} : (execQclose b s).Kept s := Kept.issue .refl fun h => onFifo_kept (.ite trivial h.setBankOf.adv)
theorem execQopen_kept {b} : (execQopen b s).Kept s := Kept.issue .refl fun h => onFifo_kept (.ite trivial h.setBankOf.adv)

theorem execBankcfg_kept {p a b} : (execBankcfg p a b s).Kept s :=
  Kept.issue .refl fun h => agree_kept fun _ => (.ite trivial (.ite trivial (.ite trivial h.updCore.updWarp.stall)))

/-! ### Transaction barriers (R283, R292 to R295) -/

namespace Kept

theorem setTBar {c k b} (h : Kept s t) : Kept s (t.setTBar c k b) := h.updCore

theorem wakeNear {c o} (h : Kept s t) : Kept s (t.wakeNear c o) := by
  cases o with
  | none => exact h
  | some x => exact h.frame

theorem tbCount {c k a b} (h : Kept s t) : Kept s (t.tbCount c k a b) := h.updCore.wakeNear
theorem tbRefs {c k f} (h : Kept s t) : Kept s (t.tbRefs c k f) := h.updCore

theorem creditBar {r b} (h : Kept s t) : Kept s (t.creditBar r b) := by
  unfold State.creditBar
  split
  · refine tbRefs ?_
    split
    · exact h.tbCount
    · exact h
  · split
    · exact .ite h (wakeNear h.frame)
    · exact h
end Kept

theorem onTBar_kept {a f} (hf : ∀ {i t c k b}, Kept s t → (f i t c k b).Kept s) : (onTBar s a f).Kept s := by
  refine Kept.issue .refl fun h => agree_kept fun _ => ?_
  split
  · trivial
  · exact hf h

theorem execTballoc_kept {d q} : (execTballoc d q s).Kept s := by
  refine Kept.issue .refl fun h => ?_
  dsimp only
  split
  · exact h.updLanes.adv
  · exact h.updCore.updLanes.adv

theorem execTbinit_kept {d a b} : (execTbinit d a b s).Kept s := by
  refine Kept.issue .refl fun h => agree_kept fun _ => ?_
  split
  · trivial
  · exact .ite trivial (.ite trivial h.setTBar.adv)

theorem execTbarr_kept {a} : (execTbarr a s).Kept s := onTBar_kept fun h => h.tbCount.adv
theorem execTbwait_kept {a q} : (execTbwait a q s).Kept s := onTBar_kept fun h => .ite h.adv.setTBar.updLanes h.adv
theorem execTbref_kept {a} : (execTbref a s).Kept s := onTBar_kept fun h => h.tbRefs.adv
theorem execTbfree_kept {a} : (execTbfree a s).Kept s := onTBar_kept fun h => h.tbRefs.adv

/-! ### Copies (R281 to R289) -/

theorem Kept.addCopy {c} (h : Kept s t) : Kept s (t.addCopy c) := by
  unfold State.addCopy
  dsimp only
  split
  · split
    · exact (updWarp h.named).tbRefs
    · exact updWarp h.named
  · exact updWarp h.named

theorem enterCopies_kept {i n cs} (h : Kept s t) : (enterCopies i t n cs).Kept s := .ite (h.foldl fun h => h.addCopy).adv trivial

theorem laneTraps_kept {ts} : Eff.OptKept s (laneTraps ts) := fun e he => by
  obtain ⟨p, -, rfl⟩ := Option.map_eq_some_iff.mp he
  trivial

theorem startCopy_kept {i n ts c} (h : Kept s t) : (startCopy i t n ts c).Kept s := by
  unfold startCopy
  split
  · trivial
  · exact enterCopies_kept h

theorem execCpy_kept {d a b k r} : (execCpy d a b k r s).Kept s := by
  refine Kept.issue .refl fun h => .ite trivial ?_
  split
  · next he => exact laneTraps_kept _ he
  · exact enterCopies_kept h

theorem execCpyd_kept {a k r} : (execCpyd a k r s).Kept s := by
  refine Kept.issue .refl fun h => .ite trivial (withDescriptor_kept h fun h => ?_)
  dsimp only
  split
  · trivial
  · exact startCopy_kept h

theorem execCpyt_kept {d a b k r} : (execCpyt d a b k r s).Kept s := by
  refine Kept.issue .refl fun {i t} h => .ite trivial ?_
  dsimp only
  split
  · next he => exact laneTraps_kept _ he
  · split
    · next he =>
      have hc : (Eff.ok _).Kept s := he ▸ enterCopies_kept h
      exact Kept.updCore hc
    · exact enterCopies_kept h

theorem execGathd_kept {a k r} : (execGathd a k r s).Kept s := by
  refine Kept.issue .refl fun h => .ite trivial (withDescriptor_kept h fun h => ?_)
  dsimp only
  split
  · trivial
  · exact startCopy_kept h

namespace Kept

theorem engineTouch {e b vs rd} (h : Kept s t) : Kept s (t.engineTouch e b vs rd) :=
  .ite (h.foldl fun h => h.touchXlat) (h.foldl fun h => h.touchXlat).llcUses

theorem engineWrite {a b c d e cs w} (h : Kept s t) : Kept s (t.engineWrite a b c d e cs w).2 :=
  foldl_snd h.setBytes fun h => h.addStore

theorem noteEngine {c w ps} (h : Kept s t) : Kept s (t.noteEngine c w ps) := h.same rfl
end Kept

end Sys2Proof.Machine
end

section
/-! PROOFS. Copies in flight, the pigeonhole, the address engine, system registers and matrix commands keep both invariants. -/

namespace Sys2Proof.Machine
variable {s t u : State}

/-! ### Events of copies (R284, R288 to R291) -/

namespace Kept
theorem touchChunk {c} (h : Kept s t) : Kept s (t.touchChunk c) := h.engineTouch.engineTouch
theorem setCopy {k c} (h : Kept s t) : Kept s (t.setCopy k c) := h.same rfl
theorem setDrain {k c} (h : Kept s t) : Kept s (t.setDrain k c) := h.same rfl
theorem postIf {c b k n x w l} (h : Kept s t) : Kept s (t.postIf c b k n x w l) := .ite h h.post
end Kept

theorem execCopyChunkAcked_kept {k} : (execCopyChunkAcked k s).Kept s := by
  refine Kept.next ?_
  split
  · refine .ite Kept.refl.setCopy ?_
    split
    · exact .ite Kept.refl.touchChunk.noteEngine.engineWrite.setCopy Kept.refl.touchChunk.noteEngine.engineWrite.setCopy
    · refine .ite .refl ?_
      split
      · exact Kept.refl.setCopy
      · exact Kept.refl.setCopy
  · exact .refl

theorem execCopyComplete_kept {k} : (execCopyComplete k s).Kept s := by
  refine Kept.next ?_
  split
  · extract_lets st s1 s2 s3 s4 s5
    have h2 : Kept s s2 := Kept.frame (Kept.refl.postIf)
    have h3 : Kept s s3 := Kept.countEngine (.ite h2.count h2)
    have h4 : Kept s s4 := by
      unfold s4
      split
      · exact h3.creditBar
      · exact h3
    have h5 : Kept s s5 := by
      unfold s5
      split
      · exact h4.updCore
      · exact h4
    exact h5.tokenDone.sweep
  · exact .refl

/-! ### The pigeonhole and the address engine (R297 to R303) -/

theorem execPgpop_kept {d} : (execPgpop d s).Kept s := by
  refine Kept.issue .refl fun h => ?_
  dsimp only
  split
  · trivial
  · exact (Kept.postHeld h.frame).deliverAll.adv

theorem execPgpost_kept {a} : (execPgpost a s).Kept s := Kept.issue .refl fun h => .ite trivial h.post.adv
theorem execPgcnt_kept {d} : (execPgcnt d s).Kept s := Kept.issue .refl fun h => h.updLanes.adv

theorem Kept.descriptor {k l v n a r u} (h : Kept s t) (e : t.descriptor k l v n a = .bytes r u) : Kept s u := by
  unfold State.descriptor at e
  split at e
  · cases e
  · split at e
    · cases e
    · split at e <;> cases e
      exact h.readRecord

theorem execAestart_kept {a b} : (execAestart a b s).Kept s := by
  refine Kept.issue .refl fun h => agree_kept fun _ => h.enterAll fun h => .ite trivial ?_
  split
  · trivial
  · trivial
  · next e =>
    have h' := h.descriptor e
    dsimp only
    split
    · trivial
    · exact Kept.adv h'.updCore.named

theorem execAestop_kept : (execAestop s).Kept s := by
  refine Kept.issue .refl fun h => ?_
  dsimp only
  split
  · exact Kept.adv (.ite h.aeEnd h)
  · exact h.adv

/-! ### System registers (R104, R105) -/

theorem execLdca_kept {d o} : (execLdca d o s).Kept s := by
  refine Kept.issue .refl fun h => ?_
  split
  · trivial
  · exact h.updLanes.adv

theorem execSrd_kept {d r} : (execSrd d r s).Kept s := Kept.issue .refl fun h => h.updLanes.adv

theorem Kept.setSys {k r v} (h : Kept s t) : Kept s (t.setSys k r v) := by
  unfold State.setSys
  exact .ite (.ite h.updWarp (.ite h h.updBlock)) (.ite h.updCore h.updCore)

theorem execSrw_kept {a r} : (execSrw a r s).Kept s :=
  Kept.issue .refl fun h => .ite (.ite h.adv (agree_kept fun _ => h.setSys.adv)) (.ite trivial h.updLanes.adv)

/-! ### Matrix commands (R304 to R322) -/

theorem enqueue_kept {i o c k r p} (h : Kept s t) : (enqueue i t o c k r p).Kept s := by
  refine .ite trivial (Kept.adv ?_)
  have hm {f n} : Kept s (State.updCore { t with nextId := t.nextId + 1 } n f) := Kept.updCore h.named
  split
  · exact hm.updWarp
  · exact hm

theorem mma_kept {f a b k r} : (mma s f a b k r).Kept s := by
  refine Kept.issue .refl fun h => withDescriptor_kept h fun h => ?_
  dsimp only
  split
  · trivial
  · split
    · trivial
    · refine .ite trivial ?_
      split
      · trivial
      · exact enqueue_kept h

theorem execMmv_kept {a k r} : (execMmv a k r s).Kept s := by
  refine Kept.issue .refl fun h => withDescriptor_kept h fun h => ?_
  dsimp only
  split
  · trivial
  · split
    · trivial
    · exact enqueue_kept h

theorem execDrain_kept {a k r} : (execDrain a k r s).Kept s := by
  refine Kept.issue .refl fun h => withDescriptor_kept h fun h => ?_
  dsimp only
  split
  · trivial
  · split
    · trivial
    · exact enqueue_kept h

theorem execMaclr_kept {x} : (execMaclr x s).Kept s := by
  refine Kept.issue .refl fun h => ?_
  dsimp only
  split
  · trivial
  · exact enqueue_kept h

theorem execMstat_kept {d x} : (execMstat d x s).Kept s := by
  refine Kept.issue .refl fun h => ?_
  dsimp only
  split
  · trivial
  · exact h.deliverAll.adv

theorem Kept.matrixFailed {m} (h : Kept s t) : Kept s (t.matrixFailed m) := by
  unfold State.matrixFailed
  dsimp only
  split
  · exact Kept.frame h.updCore.updCore
  · exact h.updCore

theorem Kept.matrixDone {m} (h : Kept s t) : Kept s (t.matrixDone m) := by
  unfold State.matrixDone
  exact h.postIf.updCore.countEngine.tokenDone.freeTiles.sweep

theorem execMmaKstepEnd_kept {c} : (execMmaKstepEnd c s).Kept s := by
  refine Kept.next ?_
  split
  · refine .ite (Kept.matrixDone (Kept.updCore (.ite .refl Kept.refl.matrixFailed))) ?_
    dsimp only
    split
    · exact Kept.refl.setCore
    · split
      · exact Kept.refl.setCore
      · exact Kept.refl.setCore.engineTouch.count
  · exact .refl

theorem execMaclrAtHead_kept {c} : (execMaclrAtHead c s).Kept s := by
  refine Kept.next ?_
  split
  · split
    · exact .ite .refl Kept.refl.updCore.freeTiles.sweep
    · exact .refl
  · exact .refl

theorem execDrainStart_kept {c} : (execDrainStart c s).Kept s := by
  refine Kept.next ?_
  split
  · exact Kept.refl.updCore.named
  · exact .refl

theorem execDrainComplete_kept {k} : (execDrainComplete k s).Kept s := by
  refine Kept.next ?_
  split
  · split
    · exact Kept.matrixDone (Kept.frame .refl)
    · split
      · exact Kept.refl.setDrain
      · exact Kept.refl.engineTouch.noteEngine.engineWrite.setDrain
    · split
      · exact Kept.refl.setDrain
      · exact Kept.refl.engineTouch.noteEngine.addReq.setDrain
    · exact .refl
  · exact .refl

end Sys2Proof.Machine
end

section
/-! PROOFS. Parcels, walks and fences keep both invariants. -/

namespace Sys2Proof.Machine
variable {s t u : State}

/-! ### Parcels (R324 to R335) -/

namespace Kept

theorem setParcel {c k p} (h : Kept s t) : Kept s (t.setParcel c k p) := h.updCore
theorem startParcel {c k} (h : Kept s t) : Kept s (t.startParcel c k) := by
  unfold State.startParcel
  exact h.setParcel.updCore
theorem reportLoad {c k g n} (h : Kept s t) : Kept s (t.reportLoad c k g n) := h.report
theorem refuseLoad {c k} (h : Kept s t) : Kept s (t.refuseLoad c k) := h.setParcel.reportLoad

theorem preload {c k} (h : Kept s t) : Kept s (t.preload c k) := by
  refine .ite h ?_
  split
  · exact .ite h (.ite h.startParcel h.refuseLoad)
  · exact h.reopen
  · exact h

theorem endParcel {c k n p} (h : Kept s t) : Kept s (t.endParcel c k n p) := by
  unfold State.endParcel
  exact reportLoad (frame h.setParcel.updCore)

theorem endLoad {c k n p} (h : Kept s t) : Kept s (t.endLoad c k n p) := by
  unfold State.endLoad
  exact h.endParcel.foldl fun h => h.endParcel

theorem loadParcel {c k} (h : Kept s t) : Kept s (t.loadParcel c k) := by
  unfold State.loadParcel
  dsimp only
  split
  · exact h.endLoad
  · exact h.endLoad
  · refine .ite ?_ (.ite h.endLoad h.endLoad)
    split
    · exact h.llcUses.setParcel
    · split
      · exact h.setParcel
      · exact h.endLoad

theorem startNew {b} (h : Kept s t) : Kept s (t.startNew b) := by
  unfold State.startNew
  dsimp only
  split
  · exact frame h.updBlock
  · exact .ite h.kill h.kill

theorem startBlock {b} (h : Kept s t) : Kept s (t.startBlock b) := by
  unfold State.startBlock
  split
  · exact h
  · exact .ite h.updBlock h
  · exact .ite (h.foldl fun h => .ite h.startNew h) h

theorem startBlocks {c} (h : Kept s t) : Kept s (t.startBlocks c) := h.foldl fun h => .ite h.startBlock h
theorem keepCopy {c k} (h : Kept s t) : Kept s (t.keepCopy c k) := h.foldl fun h => .ite h.setParcel h
end Kept

theorem onParcel_kept {i r f} (hf : ∀ {v q p}, (f v q p).Kept s) : (onParcel i t r f).Kept s := by
  unfold onParcel
  exact agree_kept fun _ => .ite trivial hf

theorem execPload_kept {d a k r} : (execPload d a k r s).Kept s := by
  refine Kept.issue .refl fun {i t} h => onParcel_kept ?_
  intro _ q p
  extract_lets w key fail s1 receipt wait marked s2 s3
  have h1 : Kept s s1 := .ite h.refuseLoad (.ite h.startParcel (.ite h.reopen h))
  have h2 : Kept s s2 := Kept.frame h1.updWarp
  have h3 : Kept s s3 := .ite h2.updLanes h2
  exact h3.deliverAll.adv

theorem execPevict_kept {a} : (execPevict a s).Kept s :=
  Kept.issue .refl fun h => onParcel_kept (.ite trivial (Kept.adv (.ite h.setParcel (.ite h.setParcel h))))

theorem execPres_kept {q a} : (execPres q a s).Kept s := Kept.issue .refl fun h => onParcel_kept h.updLanes.adv
theorem execPstat_kept {d a} : (execPstat d a s).Kept s := Kept.issue .refl fun h => onParcel_kept h.updLanes.adv

theorem execParcelLoadComplete_kept {c} : (execParcelLoadComplete c s).Kept s := by
  refine Kept.next ?_
  split
  · exact (Kept.frame Kept.refl.postIf).countEngine.tokenDone
  · split
    · exact Kept.refl.loadParcel.startBlocks
    · exact .refl

theorem execParcelBecomesAbsent_kept {c q} : (execParcelBecomesAbsent c q s).Kept s :=
  Kept.next (.ite Kept.refl.keepCopy.setParcel .refl)

/-! ### Walks (R337 to R354) -/

theorem Kept.formWarp {b e as w} (h : Kept s t) : Kept s (t.formWarp b e as w) := by
  unfold State.formWarp
  exact Kept.count h.named

theorem execWalk_kept {d a k} : (execWalk d a k s).Kept s := by
  refine Kept.issue .refl fun {i t} h => withDescriptor_kept h fun {t va r} h => ?_
  extract_lets w c f spawn entry hs set more go
  have hg {t} (h : Kept s t) : (go t).Kept s := by
    refine .ite trivial (.ite trivial ?_)
    split
    · trivial
    · exact (Kept.updCore h.named).updWarp.deliverAll.adv
  clear_value more
  cases badWalk r with
  | some off => trivial
  | none =>
    cases more with
    | some x => trivial
    | none => exact .ite (h.enterAll hg) (hg h)

theorem onWalk_kept {i a f} (hf : ∀ x, (f x).Kept s) : (onWalk i t a f).Kept s := by
  unfold onWalk
  exact agree_kept fun _ => .ite trivial (hf _)

theorem execWstat_kept {d a} : (execWstat d a s).Kept s := Kept.issue .refl fun h => onWalk_kept fun _ => h.updLanes.adv

namespace Kept

theorem setWalk {c k w} (h : Kept s t) : Kept s (t.setWalk c k w) := h.updCore

theorem walkDone {c k n w} (h : Kept s t) : Kept s (t.walkDone c k n w) := by
  unfold State.walkDone
  extract_lets gen s1 s2 s3 x s4
  have h3 : Kept s s3 := updCore (named h.postIf.setWalk)
  have h4 : Kept s s4 := .ite h3.updCore h3
  exact h4.countEngine.tokenDone.sweep

theorem cancelQueued {c k w} (h : Kept s t) : Kept s (t.cancelQueued c k w) := .ite h.walkDone h.setWalk
end Kept

theorem execWcancel_kept {a} : (execWcancel a s).Kept s := by
  refine Kept.issue .refl fun h => onWalk_kept fun x => ?_
  dsimp only
  split
  · exact h.adv
  · exact .ite h.cancelQueued.adv (.ite h.setWalk.adv h.adv)

theorem execWqry_kept {q a b} : (execWqry q a b s).Kept s := Kept.issue .refl fun h => onWalk_kept fun _ => h.updLanes.adv

namespace Kept

theorem touchSet {c w w'} (h : Kept s t) : Kept s (t.touchSet c w w') := .ite h h.engineTouch
theorem refill {c k w} (h : Kept s t) : Kept s (t.refill c k w) := h.touchSet.setWalk
theorem mapBit {w i v} (h : Kept s t) : Kept s (t.mapBit w i v) := h.setByte

theorem walkDeliver {c k w} (h : Kept s t) : Kept s (t.walkDeliver c k w) := by
  unfold State.walkDeliver
  exact .ite h.setWalk.setWalk (.ite h.setWalk.formWarp (.ite h.setWalk.updCore h.setWalk))

theorem walkPrefetch {c w v} (h : Kept s t) : Kept s (t.walkPrefetch c w v) := by
  refine .ite h ?_
  dsimp only
  split
  · exact h.touchXlat
  · exact .ite h.touchXlat h.touchXlat.fillFor

theorem walkRound {c k w} (h : Kept s t) : Kept s (t.walkRound c k w) := by
  unfold State.walkRound
  extract_lets s1 goes out stay grid s2 w' s3
  have h3 : Kept s s3 := (h.observeTick.foldl fun h => h.mapBit).count.foldl fun h => h.foldl fun h => h.walkPrefetch
  exact .ite h3.refill h3.setWalk
end Kept

theorem execWalkStart_kept {c k} : (execWalkStart c k s).Kept s := by
  refine Kept.next ?_
  split
  · refine .ite Kept.refl.walkDone (Kept.refill (.ite ?_ (Kept.updCore ?_))) <;> exact Kept.observeTick (Kept.foldl .refl fun h => h.mapBit)
  · exact .refl

theorem execWalkRoundEnd_kept {c} : (execWalkRoundEnd c s).Kept s := by
  refine Kept.next ?_
  split
  · exact .ite Kept.refl.walkDeliver (.ite Kept.refl.walkDone (.ite Kept.refl.setWalk (.ite Kept.refl.refill Kept.refl.walkRound)))
  · exact .refl

theorem Kept.fence {i k c n} (h : Kept s t) : (t.fence i k c n).Kept s := by
  unfold State.fence
  extract_lets w s1
  split
  have h1 : Kept s s1 := .ite h h.noteRel
  exact .ite (Kept.adv (.ite h1 h1.acquired)) h.updWarp

end Sys2Proof.Machine
end

section
/-! PROOFS. Ticks, counters, tasks, migration, replay and requests on their way to the home slice keep both invariants. -/

namespace Sys2Proof.Machine
variable {s t u : State}

/-! ### Fences, ticks and counters (R223 to R234) -/

theorem execFence_kept {k c n} : (execFence k c n s).Kept s := Kept.issue .refl fun h => h.fence

theorem execFencex_kept {x y n} : (execFencex x y n s).Kept s := by
  refine Kept.issue .refl fun h => .ite h.fence ?_
  dsimp only
  exact .ite (Kept.adv (.ite h.acquired h)) h.updWarp

theorem execTick_kept {d} : (execTick d s).Kept s := Kept.issue .refl fun h => h.observeTick.useFree.deliverAll.adv
theorem execTicko_kept {d} : (execTicko d s).Kept s := Kept.issue .refl fun h => h.observeTick.deliverAll.adv

theorem execPmcfg_kept {c a} : (execPmcfg c a s).Kept s := Kept.issue .refl fun h => agree_kept fun _ => .ite trivial h.updWarp.adv
theorem execPmrd_kept {d c} : (execPmrd d c s).Kept s := Kept.issue .refl fun h => h.updLanes.adv

theorem Kept.growSlots {w} (h : Kept s t) : Kept s (t.growSlots w) := by
  unfold State.growSlots
  exact frame h.updCore.updGrid

theorem execTdrd_kept {d a} : (execTdrd d a s).Kept s := by
  refine Kept.issue .refl fun h => ?_
  dsimp only
  split
  · trivial
  · exact h.growSlots.updLanes.adv

/-! ### Tasks (R269 to R280) -/

theorem execTaskrng_kept {a b} : (execTaskrng a b s).Kept s := Kept.issue .refl fun h => agree_kept fun _ => h.updWarp

theorem execTaskbeg_kept {a b} : (execTaskbeg a b s).Kept s := by
  refine Kept.issue .refl fun h => ?_
  dsimp only
  split
  · trivial
  · exact .ite trivial (.ite trivial h.updWarp)

theorem execTaskend_kept : (execTaskend s).Kept s := by
  refine Kept.issue .refl fun h => .ite trivial (Kept.updLanes (Kept.adv (h.foldl fun h => ?_)))
  split
  · exact h.updTask
  · exact h

theorem execTaskq_kept {d} : (execTaskq d s).Kept s := Kept.issue .refl fun h => h.updLanes.adv

namespace Kept

theorem beginTask {k l n x m b u} (h : Kept s t) (e : t.beginTask k l n x m b = some u) : Kept s u := by
  unfold State.beginTask at e
  dsimp only at e
  split at e
  · cases e
    exact h.updCore.updGrid.updWarp
  · obtain ⟨_, -, rfl⟩ := Option.map_eq_some_iff.mp e
    exact h.abortTask.updCore.updGrid.updWarp

theorem beginTasks {k n ts} (h : Kept s t) : Kept s (t.beginTasks k n ts) := by
  refine foldl h.named fun h => ?_
  split
  · next e => exact h.beginTask e
  · exact h.updLanes

theorem officeReply {k} (h : Kept s t) : Kept s (t.officeReply k) := by
  unfold State.officeReply
  dsimp only
  split
  · refine rest (noteLate ?_)
    split
    · exact .ite h.updWarp.fragTrap h.updWarp.updGrid.adv
    · split
      · exact h.updWarp.fragTrap
      · exact h.updWarp.beginTasks
  · exact h

/-! ### Migration and replay (R394 to R398) -/

theorem moveWarp {k c n} (h : Kept s t) : Kept s (t.moveWarp k c n) := by
  unfold State.moveWarp
  refine startBlock (foldl (updBlock (invalidateL1 (updCore (updWarp ?_)))) fun h => h.preload)
  exact named h.flushDet.flushCache.updCore (Nat.le_add_right _ _)

theorem issuedLate {s₀ i} (h : Kept s t) : Kept s (t.issuedLate s₀ i) := by
  unfold State.issuedLate
  exact h.traceIssue.noteLate.countIssue.compare

theorem dropLines {x} (h : Kept s t) : Kept s (t.dropLines x) := h.same rfl
theorem armCapture {x k c} (h : Kept s t) : Kept s (t.armCapture x k c) := h.updCtx.captureStatus
end Kept

theorem execMigrate_kept {p a} : (execMigrate p a s).Kept s := by
  refine Kept.issue .refl fun h => agree_kept fun _ => .ite trivial (.ite trivial (.ite trivial ?_))
  split
  · trivial
  · refine .ite trivial (.ite h.touchXlat.updLanes.adv ?_)
    split
    · exact h.touchXlat.updWarp
    · exact h.touchXlat.updLanes.adv.moveWarp

theorem execRestanteWaitTimeout_kept {k} : (execRestanteWaitTimeout k s).Kept s := by
  refine Kept.next ?_
  split
  · exact Kept.refl.updWarp.issuedLate
  · exact .refl

theorem execRpbeg_kept {a} : (execRpbeg a s).Kept s := by
  refine Kept.issue .refl fun h => withDescriptor_kept h fun {t v r} h => ?_
  extract_lets w f x log s1 s2
  split
  · trivial
  · refine .ite trivial (.ite trivial ?_)
    split
    · trivial
    · have h1 : Kept s s1 := .ite (h.foldl fun h => h.invalidateL1.count) h
      have h2 : Kept s s2 := .ite h1.dropLines h1
      exact h2.updCtx.updWarp.stall

theorem execReplayArmed_kept {k} : (execReplayArmed k s).Kept s := by
  refine Kept.next ?_
  split
  · exact Kept.refl.updCtx.updWarp.noteLate
  · exact .refl

theorem execRpend_kept {p} : (execRpend p s).Kept s := by
  refine Kept.issue .refl fun h => ?_
  dsimp only
  split
  · trivial
  · refine .ite trivial (Kept.adv (Kept.updLanes (Kept.foldl (Kept.updCtx (Kept.writeVa (.ite h.writeVa h))) fun h => h.updGrid)))

theorem execWscap_kept {a} : (execWscap a s).Kept s := by
  refine Kept.issue .refl fun h => withDescriptor_kept h fun h => ?_
  dsimp only
  split
  · trivial
  · refine .ite trivial ?_
    split
    · trivial
    · exact h.armCapture.adv

theorem execWsrst_kept {a} : (execWsrst a s).Kept s := by
  refine Kept.issue .refl fun h => withDescriptor_kept h fun h => ?_
  dsimp only
  split
  · trivial
  · trivial
  · refine .ite trivial ?_
    split
    · trivial
    · exact (h.foldl fun h => h.copyPage).acquire.armCapture.adv

theorem execColl_kept {a k} : (execColl a k s).Kept s := by
  refine Kept.issue .refl fun h => withDescriptor_kept h fun h => ?_
  dsimp only
  split
  · trivial
  · trivial
  · exact .ite trivial (Kept.updWarp h.updCtx.named).adv

theorem execSignal_kept {a b} : (execSignal a b s).Kept s := by
  unfold execSignal
  exact mayFault_kept .none

/-! ### Requests in flight (R198 to R235) -/

theorem execTranslationCheckDone_kept {k} : (execTranslationCheckDone k s).Kept s := Kept.next (.ite Kept.refl.checkDone.sweep .refl)

theorem execPageWalkReadArrives_kept {k} : (execPageWalkReadArrives k s).Kept s := by
  refine Kept.next ?_
  split
  · dsimp only
    split
    · exact Kept.refl.countServed.keepEntry.setReq
    · exact Kept.refl.countServed.delReq.fillTlb.updWarp
    · exact Kept.refl.countServed.delReq.updWarp
  · exact .refl

theorem Kept.tock (h : Kept s t) : Kept s t.tock := h.named

theorem execStoreAckDiePoint_kept {k} : (execStoreAckDiePoint k s).Kept s := by
  refine Kept.next ?_
  split
  · exact .ite Kept.refl.delReq.setBytes.sweep Kept.refl.setReq.tock
  · exact Kept.refl.setReq.tock
  · exact Kept.refl.setReq.tock
  · exact .refl

namespace Kept

theorem performed {a b c d e f cs} (h : Kept s t) : Kept s (t.performed a b c d e f cs) := .ite h.setBytes h.setBytes.addReq

theorem performAtom {k a b} (h : Kept s t) : Kept s (t.performAtom k a b) := by
  unfold State.performAtom
  extract_lets go s1
  split
  have h1 : Kept s s1 := by
    refine h.foldl fun h => ?_
    split
    · exact h.updCtx
    · exact h
  exact h1.performed.setReq.noteRelease.count.countServed.llcUses
end Kept

end Sys2Proof.Machine
end

section
/-! PROOFS. Requests performed and answered, joins, barriers, bins and commits of tasks keep both invariants. -/

namespace Sys2Proof.Machine
variable {s t u : State}

namespace Kept

theorem xaddmLine {k x b} (h : Kept s t) : Kept s (t.xaddmLine k x b) := by
  unfold State.xaddmLine
  split
  · exact h
  · extract_lets s1
    split
    have h1 : Kept s s1 := by
      unfold s1
      split
      · exact h.updCtx
      · exact h
    exact h1.performed.setReq.countServed.llcUses.count

theorem unmask {k x} (h : Kept s t) : Kept s (t.unmask k x) := h.same rfl

theorem fillAtom {k a b} (h : Kept s t) : Kept s (t.fillAtom k a b) := by
  unfold State.fillAtom
  exact h.delReq.l1Atom.updWarp.settleAcquire

theorem atomFill {j a k x b} (h : Kept s t) : Kept s (t.atomFill j a k x b).1 := by
  unfold State.atomFill
  dsimp only
  split
  · exact h.fillAtom
  · exact h.setReq
end Kept

theorem execRequestServedHomeSlice_kept {k} : (execRequestServedHomeSlice k s).Kept s := by
  refine Kept.next ?_
  split
  · exact .ite Kept.refl.markSeen.setReq.tock Kept.refl.setReq.countServed
  · dsimp only
    split
    · exact Kept.refl.markSeen.setReq.tock
    · exact Kept.refl.setReq.countServed
  · exact Kept.refl.setBytes.setReq.tock.noteRelease.countServed
  · exact Kept.refl.performAtom
  · exact Kept.refl.xaddmLine
  · exact .refl

theorem execXaddmLinePerformed_kept {k} : (execXaddmLinePerformed k s).Kept s := by
  refine Kept.next ?_
  split
  · exact .ite Kept.refl.xaddmLine .refl
  · exact .refl

theorem execReplayEnforceTimeout_kept {x l} : (execReplayEnforceTimeout x l s).Kept s := by
  refine Kept.next ?_
  split
  · exact Kept.refl.performAtom
  · exact Kept.refl.xaddmLine
  · exact .refl

theorem execCapturePageSaved_kept {x p} : (execCapturePageSaved x p s).Kept s := Kept.next (.ite Kept.refl.savePage .refl)

theorem execStoreAckHome_kept {k} : (execStoreAckHome k s).Kept s := by
  refine Kept.next ?_
  split
  · exact Kept.setReq (.ite Kept.refl.unmask .refl)
  · exact Kept.refl.passTo.delReq.settleAcquire.sweep
  · exact Kept.refl.delReq.sweep
  · exact .refl

theorem execHostVisible_kept {k} : (execHostVisible k s).Kept s := by
  refine Kept.next ?_
  split
  · exact .ite (Kept.sweep (Kept.delReq (.ite .refl Kept.refl.setHost))) .refl
  · exact .refl

theorem execL1Fill_kept {k} : (execL1Fill k s).Kept s := by
  refine Kept.next ?_
  split
  · refine Kept.sweep (Kept.foldl_fst (.ite Kept.refl.delReq.updCore Kept.refl.delReq) fun h => ?_)
    dsimp only
    split
    · exact h.setReq
    · exact h.atomFill
    · exact h
  · exact .refl

theorem Kept.passTick {n} (h : Kept s t) : Kept s (t.passTick n) := h.same rfl

theorem execLoadValueArrives_kept {k} : (execLoadValueArrives k s).Kept s := by
  refine Kept.next ?_
  have h : Kept s ((s.delReq k).passTick 1) := Kept.refl.delReq.passTick
  split
  · refine Kept.sweep (Kept.aeFinish (Kept.settleAcquire ?_))
    split
    · exact h.passTo.updWarp
    · exact .ite h.passTo.updCore h.passTo
    · exact h.passTo.updWarp
  · exact (Kept.refl.passTick.passTo.foldl fun h => h.updWarp).delReq.settleAcquire.sweep
  · exact .refl

/-! ### Scope writes, joins and barriers (R152, R163 to R184, R190) -/

theorem execScopeWriteTakesEffect_kept {k} : (execScopeWriteTakesEffect k s).Kept s := by
  refine Kept.next ?_
  split
  · exact (Kept.setScope (Kept.frame .refl)).sweep
  · exact .refl

theorem execJoinRelease_kept {w j} : (execJoinRelease w j s).Kept s := Kept.next (.ite Kept.refl.updWarp.countLanes .refl)

theorem Kept.takeCounts {k hs} (h : Kept s t) : Kept s (t.takeCounts k hs) := by
  refine h.foldl fun h => ?_
  split
  · exact .ite (updGrid (updWarp h.frame)) h
  · exact h

theorem execJoinSatisfied_kept {w} : (execJoinSatisfied w s).Kept s := by
  refine Kept.next ?_
  split
  · exact Kept.refl.updWarp.passTick.acquired.takeCounts
  · exact .refl

theorem Kept.mergeDet {b us} (h : Kept s t) : Kept s (t.mergeDet b us) := h.foldl fun h => (h.foldl fun h => h.setScope).updWarp

theorem execBarrierComplete_kept {c o i} : (execBarrierComplete c o i s).Kept s := by
  refine Kept.next (.ite ?_ .refl)
  extract_lets b bs det nb last s1 s2 s3
  have h1 : Kept s s1 := Kept.passTick (.ite Kept.refl.mergeDet .refl)
  have h2 : Kept s s2 := .ite h1.frame h1.updBlock
  have h3 : Kept s s3 := h2.frame
  exact .ite (h3.foldl fun h => h.invalidateL1.count) h3

/-! ### Events of a core (R149, R157, R185, R195, R196) -/

theorem execWarpEntersActiveSet_kept {w} : (execWarpEntersActiveSet w s).Kept s := Kept.next (.ite Kept.refl.updWarp.updCore .refl)
theorem execBinTimerExpire_kept {c i} : (execBinTimerExpire c i s).Kept s := Kept.next Kept.refl.updCore

theorem execBinFormWarp_kept {c i} : (execBinFormWarp c i s).Kept s := by
  refine Kept.next ?_
  split
  · exact Kept.refl.updCore.formWarp
  · exact .refl

theorem execGridTimeLimit_kept {g} : (execGridTimeLimit g s).Kept s := Kept.next (.ite Kept.refl.kill .refl)

theorem execBankModeChangeDone_kept {c} : (execBankModeChangeDone c s).Kept s := by
  refine Kept.next ?_
  split
  · exact Kept.refl.setCore.updWarp.noteLate
  · exact .refl

/-! ### Commits of tasks (R269 to R278) -/

theorem execTaskCommitStart_kept {g} : (execTaskCommitStart g s).Kept s := Kept.next (.ite Kept.refl.updGrid .refl)

namespace Kept

theorem wakeHeads {g} (h : Kept s t) : Kept s (t.wakeHeads g) := h.same rfl

theorem performBuffer {c g x} (h : Kept s t) : Kept s (t.performBuffer c g x) := by
  unfold State.performBuffer
  extract_lets ctx rel s1
  have h1 : Kept s s1 := (h.foldl fun h => h.perform).noteRelease
  exact .ite h1 h1.llcUses.addReq
end Kept

theorem execTaskCommitComplete_kept {g} : (execTaskCommitComplete g s).Kept s := by
  refine Kept.next ?_
  split
  · exact (Kept.foldl Kept.refl.performBuffer.updCore.updWarp fun h => h.abortTask).updGrid.count.wakeHeads.wakeSlots.sweep
  · exact .refl

end Sys2Proof.Machine
end

section
/-! PROOFS. Placement, swaps, vacated cores and failures keep both invariants. -/

namespace Sys2Proof.Machine
variable {s t u : State}

/-! ### Placement (R144 to R147), saved blocks and vacated cores -/

namespace Kept

theorem sccReturns {c x} (h : Kept s t) : Kept s (t.sccReturns c x) := by
  unfold State.sccReturns
  dsimp only
  split
  · exact .ite h.frame h
  · exact h

theorem placeNew {g k p} (h : Kept s t) : Kept s (t.placeNew g k p) := by
  unfold State.placeNew
  extract_lets k i b core slots lane
  split
  extract_lets blk cores placed started invalidated noted
  have hs : Kept s started :=
    (named (n := b + 1 + i.warps) h.setCore (by simp only [State.setCore, b]; omega)).foldl fun h => h.setWarp
  have hi : Kept s invalidated := .ite hs.invalidateL1 hs
  have hn : Kept s noted := by
    unfold noted
    split
    · refine .ite ?_ hi
      split
      · exact hi.updCtx
      · exact hi
    · exact hi
  exact sccReturns (hn.foldl fun h => h.preload)

theorem loadArgs {g} (h : Kept s t) (e : t.loadArgs g = some u) : Kept s u := by
  unfold State.loadArgs at e
  dsimp only at e
  split at e
  · exact Option.some.inj e ▸ h
  · split at e
    · cases e
    · exact Option.some.inj e ▸ h.llcUses.updGrid

theorem placeGroup {g cs r} (h : Kept s t) : Kept s (t.placeGroup g cs r) := by
  unfold State.placeGroup
  extract_lets first
  split
  · exact h.kill
  · next t' e =>
    have h' : Kept s t' := by
      split at e
      · exact h.loadArgs e
      · exact Option.some.inj e ▸ h
    exact foldl (foldl h'.named.updGrid fun h => h.placeNew) fun h => h.startBlocks

theorem moveEngines {b c m} (h : Kept s t) : Kept s (t.moveEngines b c m) := h.same rfl

theorem lateEnds {m} (h : Kept s t) : Kept s (t.lateEnds m) :=
  h.foldl fun h => (h.foldl fun h => h.leaveHandler).aeFinish

theorem restoreBlock {b c m} (h : Kept s t) : Kept s (t.restoreBlock b c m) := by
  unfold State.restoreBlock
  extract_lets ids group ns slots live slotOf
  split
  extract_lets cores placed counted invalidated
  have hi : Kept s invalidated := h.setCore.frame.updGrid.invalidateL1
  exact (hi.foldl fun h => h.preload).moveEngines.lateEnds.sccReturns

theorem restoreRestante {b c n m} (h : Kept s t) : Kept s (t.restoreRestante b c n m) :=
  frame h.restoreBlock.updCore.startBlocks

theorem restoreGroup {bs cs} (h : Kept s t) : Kept s (t.restoreGroup bs cs) := by
  refine wakeSlots (foldl (foldl h fun h => ?_) fun h => h.startBlocks)
  split
  · split
    · exact h.restoreBlock
    · exact h
  · exact h

theorem fenceDie {d} (h : Kept s t) : Kept s (t.fenceDie d) := by
  refine report (h.regrid ?_)
  simp [Map.mapV, Function.comp_def]

theorem dieUp {d} (h : Kept s t) : Kept s (t.dieUp d) := (h.foldl fun h => h.updCore).report

theorem vacateEnds {v} (h : Kept s t) : Kept s (t.vacateEnds v) :=
  .ite (.ite h h.dieUp) (.ite (.ite h.fenceDie h) h.report)

theorem beginVacates {n} (h : Kept s t) : Kept s (t.beginVacates n) := by
  induction n generalizing t with
  | zero => exact h
  | succ n ih =>
    unfold State.beginVacates
    split
    · exact h
    · exact .ite h (.ite (ih h.frame.vacateEnds) (foldl h.frame fun h => h.updCore))

theorem askVacate {v} (h : Kept s t) : Kept s (t.askVacate v) := h.frame.beginVacates

theorem coreLeft {c a b} (h : Kept s t) : Kept s (t.coreLeft c a b) := by
  unfold State.coreLeft
  split
  · split
    · exact .ite (.ite h.frame.vacateEnds.beginVacates h.frame) h
    · exact h
  · exact h

theorem saveBlock {b w} (h : Kept s t) : Kept s (t.saveBlock b w) := by
  unfold State.saveBlock
  extract_lets core s1 s2
  have h2 : Kept s s2 := foldl (foldl h fun h => h.abortTask) fun h => h.flushCache
  exact h2.frame.updCore.updGrid.wakeSlots

theorem saveScc {c x} (h : Kept s t) : Kept s (t.saveScc c x) := by
  unfold State.saveScc
  split
  · exact .ite h h.frame
  · exact h

theorem dropReqs {f} (h : Kept s t) : Kept s (t.dropReqs f) := h.same rfl
theorem dropWrites {f} (h : Kept s t) : Kept s (t.dropWrites f) := h.same rfl
theorem dropEngines {g} (h : Kept s t) : Kept s (t.dropEngines g) := h.foldl fun h => frame h.updCore
theorem contain {g} (h : Kept s t) : Kept s (t.contain g) := h.dropEngines.kill.dropWrites.sweep

theorem endSccs {x} (h : Kept s t) : Kept s (t.endSccs x) := by
  refine foldl (foldl h fun h => ?_) fun h => h.frame
  split
  · exact .ite h.updWarp.haltScc h
  · exact h

theorem endCommands {x} (h : Kept s t) : Kept s (t.endCommands x) := h.same rfl
theorem endContext {x} (h : Kept s t) : Kept s (t.endContext x) :=
  (foldl h.dropWrites fun h => h.contain).endSccs.endCommands.dropWrites.sweep

theorem cancelContained (h : Kept s t) : Kept s t.cancelContained :=
  foldl (foldl h fun h => h.delReq.updWarp.settleAcquire) fun h => h.delReq.updLanes.settleAcquire

theorem orphanPops {c} (h : Kept s t) : Kept s (t.orphanPops c) := foldl h fun h => h.delReq.updWarp

theorem fenceCore {c} (h : Kept s t) : Kept s (t.fenceCore c) := by
  unfold State.fenceCore
  extract_lets gs s1 s2
  have h2 : Kept s s2 := walksEnd (commandsEnd (foldl h.orphanPops fun h => h.contain))
  exact (coreLeft (updCore (.ite h2.frame h2))).sweep

end Kept

theorem execBlockPlace_kept {g} : (execBlockPlace g s).Kept s := by
  refine Kept.next ?_
  split
  · split
    · split
      · exact Kept.refl.restoreRestante
      · exact .refl
    · exact Kept.refl.updGrid.restoreGroup
    · exact Kept.refl.placeGroup
    · exact .refl
  · exact .refl

theorem execSwapOut_kept {b} : (execSwapOut b s).Kept s := Kept.next (.ite (Kept.refl.foldl fun h => h.saveBlock) .refl)

theorem execSwapIn_kept {b} : (execSwapIn b s).Kept s := by
  refine Kept.next ?_
  split
  · exact Kept.refl.updGrid.restoreGroup
  · exact .refl

theorem execPreemptRequest_kept {x n d} : (execPreemptRequest x n d s).Kept s := Kept.next Kept.refl.askVacate
theorem execContextSwitch_kept {x} : (execContextSwitch x s).Kept s := Kept.next (.ite Kept.refl.updCtx Kept.refl.updCtx.askVacate)

theorem execCoreVacated_kept {c} : (execCoreVacated c s).Kept s :=
  Kept.next (.ite (Kept.refl.foldl fun h => h.saveBlock).saveScc.updCore.coreLeft .refl)

theorem execDieOnline_kept {d} : (execDieOnline d s).Kept s := Kept.next (.ite Kept.refl.askVacate .refl)
theorem execDieOffline_kept {d} : (execDieOffline d s).Kept s := Kept.next (.ite Kept.refl.askVacate .refl)

theorem execUncorrectableError_kept {x} : (execUncorrectableError x s).Kept s := by
  unfold execUncorrectableError
  extract_lets lines
  have hl {t ls} (h : Kept s t) : Kept s (lines t ls) := h.frame.foldl fun h => h.foldl fun h => h.endContext
  refine Kept.next ?_
  split
  · exact .ite Kept.refl.fenceCore .refl
  · exact (hl Kept.refl.frame).cancelContained
  · exact (hl Kept.refl.frame).cancelContained
  · exact (Kept.refl.frame.foldl fun h => h.endContext).cancelContained

theorem execSoftErrorCorrected_kept : (execSoftErrorCorrected s).Kept s := Kept.next Kept.refl.frame

end Sys2Proof.Machine
end

section
/-! PROOFS. Replies of service, debug, contexts, boot, links and queues keep both invariants. -/

namespace Sys2Proof.Machine
variable {s t u : State}

/-! ### Service and its replies (R335, R362 to R367) -/

namespace Kept

theorem updAway {k f} (h : Kept s t) : Kept s (t.updAway k f) := h.same rfl
theorem evictFor {c k} (h : Kept s t) : Kept s (t.evictFor c k) := h.foldl fun h => .ite h h.setParcel
theorem serveQuota {w ls} (h : Kept s t) : Kept s (t.serveQuota w ls) := h.foldl fun h => .ite h.evictFor h

theorem endReply {k ls a b} (h : Kept s t) : Kept s (t.endReply k ls a b) := by
  refine .ite h ?_
  split
  · split
    · exact h.haltScc
    · exact h.endLanes.kill.sweep
  · split
    · exact h.frame
    · exact h.kill
    · exact h
  · exact h

theorem replyCopy {k ok} (h : Kept s t) : Kept s (t.replyCopy k ok) := by
  unfold State.replyCopy
  split
  · split
    · exact h
    · exact .ite h.setCopy h.frame.noteEngine.engineWrite.setCopy
  · exact h

theorem replyWalk {c ok} (h : Kept s t) : Kept s (t.replyWalk c ok) := by
  unfold State.replyWalk
  split
  · exact h.setWalk
  · exact h

theorem replyParcel {c ok} (h : Kept s t) : Kept s (t.replyParcel c ok) := by
  unfold State.replyParcel
  dsimp only
  split
  · exact .ite h.setParcel h.endLoad.startBlocks
  · exact h

theorem replyAe {c ok} (h : Kept s t) : Kept s (t.replyAe c ok) := by
  unfold State.replyAe
  split
  · split
    · split
      · exact h
      · exact .ite h.updWarp.startWalks h.aeEnd.sweep
    · exact h
  · exact h

theorem replyImage {b f} (h : Kept s t) : Kept s (t.replyImage b f) := h.same rfl
end Kept

theorem execTsvcReplyResume_kept {k m} : (execTsvcReplyResume k m s).Kept s := by
  refine Kept.next ?_
  split
  · exact Kept.refl.serveQuota.updWarp.foldl fun h => h.leaveHandler
  · exact Kept.refl.updAway
  · exact .refl

theorem execTsvcReplyEnd_kept {k m a b} : (execTsvcReplyEnd k m a b s).Kept s := by
  refine Kept.next ?_
  split
  · exact Kept.refl.endReply
  · exact .refl

theorem execEngineFaultServiceReply_kept {e ok} : (execEngineFaultServiceReply e ok s).Kept s := by
  refine Kept.next ?_
  cases e with
  | copy k => exact Kept.refl.replyCopy
  | drain k => exact Kept.refl.frame
  | matrix c => exact Kept.refl.updCore
  | walker c => exact Kept.refl.replyWalk
  | parcel c => exact Kept.refl.replyParcel
  | address c => exact Kept.refl.replyAe
  | savedMatrix b n => exact Kept.refl.replyImage
  | savedWalk b => exact Kept.refl.replyImage
  | savedAddress b => exact Kept.refl.replyImage

/-! ### Debug and trace (R383 to R389) -/

theorem execComparatorBreakpoint_kept {k} : (execComparatorBreakpoint k s).Kept s := by
  refine Kept.next ?_
  split
  · exact .ite Kept.refl.updWarp Kept.refl.updWarp.takeTrap
  · exact .refl

theorem execDebugResume_kept {d} : (execDebugResume d s).Kept s :=
  Kept.next (.ite (Kept.refl.updWarp.foldl fun h => h.leaveHandler) Kept.refl.updAway)

theorem execDebugSessionAttach_kept {x} : (execDebugSessionAttach x s).Kept s := Kept.next (.ite Kept.refl.updCtx .refl)
theorem execDebugStopRequest_kept {v} : (execDebugStopRequest v s).Kept s := Kept.next (.ite Kept.refl.frame Kept.refl.report)

theorem execClockStop_kept : (execClockStop s).Kept s := by
  refine Kept.next ?_
  split
  · exact .ite Kept.refl.frame .refl
  · exact .refl

theorem execDebugStopRelease_kept : (execDebugStopRelease s).Kept s := Kept.next (.ite Kept.refl.frame .refl)
theorem execWatchpointRangeWrite_kept {c n a b} : (execWatchpointRangeWrite c n a b s).Kept s := Kept.next (.ite Kept.refl.updCore .refl)

theorem execTraceRingConfig_kept {c r} : (execTraceRingConfig c r s).Kept s := by
  refine Kept.next (.ite .refl ?_)
  split
  · exact Kept.refl.updCore.frame
  · exact .ite Kept.refl.updCore.frame .refl

theorem execSccRestart_kept {c e g} : (execSccRestart c e g s).Kept s := Kept.next (.ite Kept.refl.named .refl)

/-! ### Contexts, boot and update (R209, R325, R411 to R424) -/

theorem execRootTableSet_kept {x a} : (execRootTableSet x a s).Kept s := Kept.next (.ite Kept.refl.updCtx .refl)
theorem execQuotaSet_kept {x n p} : (execQuotaSet x n p s).Kept s := Kept.next (.ite Kept.refl.updCtx.frame .refl)
theorem execPeerGroupSet_kept {x g r n} : (execPeerGroupSet x g r n s).Kept s := Kept.next (.ite Kept.refl.updCtx .refl)
theorem execHostServiceRegister_kept {x} : (execHostServiceRegister x s).Kept s := Kept.next (.ite Kept.refl.updCtx .refl)
theorem execContextKeyRegister_kept {x k} : (execContextKeyRegister x k s).Kept s := Kept.next (.ite Kept.refl.updCtx .refl)
theorem execTlbInvalidateRange_kept {x a l} : (execTlbInvalidateRange x a l s).Kept s := Kept.next (.ite Kept.refl.frame .refl)

theorem execBoot_kept {a b} : (execBoot a b s).Kept s := by
  refine Kept.next (.ite .refl ?_)
  have h {f : Firmware} : Kept s { s with fw := f } := Kept.refl.frame
  exact .ite ((Kept.ite h h.report).foldl fun h => h.dieUp) (.ite h h.report)

theorem execLiveUpdate_kept {c k} : (execLiveUpdate c k s).Kept s :=
  Kept.next (.ite .refl (.ite Kept.refl.frame.report (.ite Kept.refl.frame Kept.refl.frame)))

theorem execAttestationRequest_kept {n x} : (execAttestationRequest n x s).Kept s := Kept.next Kept.refl.frame
theorem execPowerClockStep_kept {b} : (execPowerClockStep b s).Kept s := Kept.next Kept.refl.frame

/-! ### Links (R208, R412 to R419) -/

theorem execRelayBringUp_kept {o p} : (execRelayBringUp o p s).Kept s := Kept.next Kept.refl.frame.report

theorem Kept.peerWrite {cs} (h : Kept s t) : Kept s (t.peerWrite cs) := .ite h h.setBytes.addReq

theorem execPeerAccess_kept {a p n v} : (execPeerAccess a p n v s).Kept s := by
  refine Kept.next (.ite .refl (.ite Kept.refl.frame ?_))
  cases a with
  | load => exact Kept.refl.frame
  | store => exact Kept.refl.peerWrite
  | atomic aop cmp => exact Kept.refl.peerWrite.frame

theorem execPeerFailure_kept {i} : (execPeerFailure i s).Kept s :=
  Kept.next (.ite .refl (Kept.refl.frame.foldl fun h => h.endContext).cancelContained.dropReqs.sweep)

namespace Kept

theorem setColl {k c} (h : Kept s t) : Kept s (t.setColl k c) := h.same rfl

theorem collFault {k c x} (h : Kept s t) : Kept s (t.collFault k c x) := by
  unfold State.collFault
  split
  · exact h.setColl
  · exact .ite h.useFree h.useFree.setColl

theorem collRun {k c} (h : Kept s t) : Kept s (t.collRun k c) := by
  unfold State.collRun
  refine .ite h.useFree.setColl ?_
  dsimp only
  split
  · exact h.useFree.collFault
  · split
    · exact h.useFree.collFault
    · exact setColl (frame h.useFree.noteEngine.engineWrite)

theorem rdmaWrite {q x a bs} (h : Kept s t) : Kept s (t.rdmaWrite q x a bs) := by
  unfold State.rdmaWrite
  split
  · exact h.performSys
  · exact h.report
end Kept

theorem execCollectiveComplete_kept {k} : (execCollectiveComplete k s).Kept s := by
  refine Kept.next ?_
  split
  · exact .ite Kept.refl.collRun Kept.refl.postIf.frame.countEngine.tokenDone.sweep
  · exact .refl

theorem execQueuePairSetup_kept {q m} : (execQueuePairSetup q m s).Kept s := Kept.next (.ite Kept.refl.frame .refl)
theorem execRdmaWrite_kept {q x a bs} : (execRdmaWrite q x a bs s).Kept s := Kept.next (.ite Kept.refl.rdmaWrite .refl)

theorem execRdmaRead_kept {q x a n} : (execRdmaRead q x a n s).Kept s := by
  refine Kept.next (.ite .refl ?_)
  split
  · exact Kept.refl.frame
  · exact Kept.refl.report

theorem execRdmaSend_kept {q bs} : (execRdmaSend q bs s).Kept s := Kept.next (.ite Kept.refl.frame .refl)

theorem execRdmaReceive_kept {q x a} : (execRdmaReceive q x a s).Kept s := by
  refine Kept.next ?_
  split
  · exact Kept.refl.frame.rdmaWrite
  · exact .refl

theorem execHostRead_kept {a n} : (execHostRead a n s).Kept s := Kept.next (.ite .refl (.ite Kept.refl.frame Kept.refl.frame))
theorem execHostWrite_kept {a bs} : (execHostWrite a bs s).Kept s := Kept.next (.ite Kept.refl.setBytes.toArray .refl)
theorem execLinkEnumeration_kept {i b} : (execLinkEnumeration i b s).Kept s := Kept.next Kept.refl.frame

/-! ### Queues and packets (R404 to R407) -/

theorem execQueueSetup_kept {q b k x p w} : (execQueueSetup q b k x p w s).Kept s := Kept.next (.ite Kept.refl.frame .refl)

namespace Kept

theorem updQueue {q f} (h : Kept s t) : Kept s (t.updQueue q f) := h.same rfl
theorem noteTurns (h : Kept s t) : Kept s t.noteTurns := h.same rfl
theorem take {q k p} (h : Kept s t) : Kept s (t.take q k p) := h.noteTurns.frame.updQueue
theorem stopQueue {q i} (h : Kept s t) : Kept s (t.stopQueue q i) := h.updQueue.report

theorem registerImage {x v} (h : Kept s t) (e : t.registerImage x v = some u) : Kept s u := by
  unfold State.registerImage at e
  split at e
  · exact Option.some.inj e ▸ h
  · obtain ⟨ps, -, rfl⟩ := Option.map_eq_some_iff.mp e
    exact h.updCtx

theorem seed {q k r} (h : Kept s t) : Kept s (t.seed q k r) := h.newGrid.updPacket
end Kept

theorem execQueueReset_kept {q} : (execQueueReset q s).Kept s := Kept.next Kept.refl.updQueue

theorem execDoorbellWrite_kept {o n v} : (execDoorbellWrite o n v s).Kept s :=
  Kept.next (.ite .refl (.ite Kept.refl.updQueue Kept.refl.report))

theorem execPacketLaunch_kept {q} : (execPacketLaunch q s).Kept s := by
  refine Kept.next ?_
  split
  · exact .refl
  · refine .ite Kept.refl.take.stopQueue (.ite .refl ?_)
    dsimp only
    split
    · next e => exact (Kept.refl.take.registerImage e).seed
    · exact Kept.refl.take.updPacket.packetDone

theorem execPacketWaitSignal_kept {q} : (execPacketWaitSignal q s).Kept s := by
  refine Kept.next ?_
  split
  · exact .refl
  · exact .ite Kept.refl.take.stopQueue Kept.refl.take

theorem execWaitSignalMet_kept {q i} : (execWaitSignalMet q i s).Kept s := by
  refine Kept.next ?_
  split
  · exact .ite Kept.refl.dropPacket.stopQueue Kept.refl.dropPacket
  · exact .refl

theorem execPacketSetSignal_kept {q} : (execPacketSetSignal q s).Kept s := by
  refine Kept.next ?_
  split
  · exact .refl
  · refine .ite Kept.refl.take.stopQueue ?_
    dsimp only
    split
    · exact Kept.refl.take.performSys
    · exact Kept.refl.take.report

end Sys2Proof.Machine
end

section
/-! PROOFS. Every instruction, and so every step, keeps both invariants (O7). -/

namespace Sys2Proof.Machine
variable {s t u : State}

/-! ### The frames of the one-destination instructions -/

theorem op1_kept {d a f ae} : (op1 s d a f ae).Kept s := lanewise_kept
theorem op2_kept {d a b f} : (op2 s d a b f).Kept s := lanewise_kept
theorem op3_kept {d a b f ae} : (op3 s d a b f ae).Kept s := lanewise_kept
theorem opPair2_kept {d a b f} : (opPair2 s d a b f).Kept s := lanewise_kept
theorem opPairShift_kept {d a b f} : (opPairShift s d a b f).Kept s := lanewise_kept
theorem opImm_kept {d a f} : (opImm s d a f).Kept s := lanewise_kept
theorem half2_kept {d b f} : (half2 s d b f).Kept s := lanewise_kept
theorem movs_kept {n d i} : (movs s n d i).Kept s := lanewise_kept

theorem fp1_kept {n d a f} : (fp1 s n d a f).Kept s := fpwise_kept
theorem fp2_kept {d a b f n} : (fp2 s d a b f n).Kept s := fpwise_kept
theorem fp3_kept {d a b f} : (fp3 s d a b f).Kept s := fpwise_kept
theorem dp1_kept {d a f n} : (dp1 s d a f n).Kept s := fpwise_kept
theorem dp2_kept {d a b f n} : (dp2 s d a b f n).Kept s := fpwise_kept
theorem dp3_kept {d a b f} : (dp3 s d a b f).Kept s := fpwise_kept
theorem hp2_kept {d a b f} : (hp2 s d a b f).Kept s := fpwise_kept
theorem hp3_kept {d a b f} : (hp3 s d a b f).Kept s := fpwise_kept
theorem fhalf2_kept {d b f} : (fhalf2 s d b f).Kept s := fpwise_kept

theorem exchange_kept {d a m f} : (exchange s d a m f).Kept s := crosswise_kept

/-! ### Every instruction -/

theorem execCommitOfficeReply_kept {k} : (execCommitOfficeReply k s).Kept s := Kept.next Kept.refl.officeReply

/-- Every instruction and event keeps both invariants, by its own lemma or that of the frame its meaning is given through. -/
theorem exec_kept (i : Instr) (s : State) : Out.Kept s (exec i s) := by
  unfold exec
  cases i with
  | add | sub | mul | mulhS | mulhZ | divS | divZ | remS | remZ | and | or | xor | andn | shl | shr | sra | rol | minS | minZ
  | maxS | maxZ | bfxZ | bfxS => exact op2_kept
  | mad | bfi | dot4E4m3 | dot4E5m2 | dot8E2m1 | dot4S8 | dot8S4 | dot2Bf16 | dot2F16 => exact op3_kept
  | absS | popc | clz | brev | fclass => exact op1_kept
  | addw | subw => exact opPair2_kept
  | mulwS | mulwZ | cmpS | cmpZ | cmpwS | cmpwZ | plog | ptox | xtop | rng | rngj | pkn | upkn | movlo | movhi | cmpi | sel
  | mov16 | movi | addi16 => exact lanewise_kept
  | shlw | shrw | sraw => exact opPairShift_kept
  | fadd | fsub | fmul | fmin | fmax | fdiv => exact fp2_kept
  | ffma | ffms => exact fp3_kept
  | fsqrt | frcp | frsq | fabs | fneg | fex2 | flg2 => exact fp1_kept
  | fcmp | dcmp | cvt | scale => exact fpwise_kept
  | dadd | dsub | dmul | dmin | dmax | ddiv => exact dp2_kept
  | dfma | dfms => exact dp3_kept
  | dsqrt | dabs | dneg => exact dp1_kept
  | hadd2 | hmul2 | badd2 | bmul2 => exact hp2_kept
  | hfma2 | bfma2 => exact hp3_kept
  | xaccf | xacc | xfma => exact accumulate_kept
  | xrnd => exact execXrnd_kept
  | xclr => exact execXclr_kept
  | addi | andi | ori | xori | shi | muli => exact opImm_kept
  | srd => exact execSrd_kept
  | srw => exact execSrw_kept
  | ldca => exact execLdca_kept
  | ld => exact execLd_kept
  | st => exact execSt_kept
  | ldo => exact execLdo_kept
  | sto => exact execSto_kept
  | atom | atomn => exact atomic_kept
  | prf => exact execPrf_kept
  | prfl => exact execPrfl_kept
  | inv => exact execInv_kept
  | xld | xst | xaddm => exact image_kept
  | bra => exact execBra_kept
  | brc => exact execBrc_kept
  | call => exact execCall_kept
  | callp => exact execCallp_kept
  | jmpr | callr | retr | ret => exact toRegister_kept
  | jenrol => exact execJenrol_kept
  | jwait | jwait16 => exact jwait_kept
  | jleave => exact execJleave_kept
  | exit | exit16 => exact exitBy_kept
  | trap => exact execTrap_kept
  | rett => exact execRett_kept
  | add16 | sub16 | mul16 | and16 | or16 | xor16 | andn16 | shl16 | shr16 | sra16 => exact half2_kept
  | fadd16 | fsub16 | fmul16 | fmin16 | fmax16 => exact fhalf2_kept
  | nop => exact execNop_kept
  | guard | waitk => exact prefixed_kept
  | barb16 | barb | bara | barc | barlast => exact arriveAt_kept
  | yield => exact execYield_kept
  | movs16 | movs => exact movs_kept
  | movu | movuf => exact movu_kept
  | reduAddS32 | reduAddF32 | reduMinS | reduMaxS | reduMinZ | reduMaxZ | reduAnd | reduOr | reduXor | reduFmin | reduFmax
  | reduAmaxF32 => exact redu_kept
  | qxch | shfl | shup | shdn | shxr => exact exchange_kept
  | vote | vany | vall | scanAddS32 | scanAddF32 | elect => exact crosswise_kept
  | spawn => exact execSpawn_kept
  | binfl => exact execBinfl_kept
  | launch => exact execLaunch_kept
  | join => exact execJoin_kept
  | barw => exact execBarw_kept
  | cpy => exact execCpy_kept
  | cpyd => exact execCpyd_kept
  | cpyt => exact execCpyt_kept
  | gathd => exact execGathd_kept
  | tballoc => exact execTballoc_kept
  | tbinit => exact execTbinit_kept
  | tbarr => exact execTbarr_kept
  | tbwait => exact execTbwait_kept
  | tbref => exact execTbref_kept
  | tbfree => exact execTbfree_kept
  | pgpop => exact execPgpop_kept
  | pgpost => exact execPgpost_kept
  | pgcnt => exact execPgcnt_kept
  | aestart => exact execAestart_kept
  | aestop => exact execAestop_kept
  | qmap => exact execQmap_kept
  | qunmap => exact execQunmap_kept
  | qtst => exact execQtst_kept
  | qpush => exact execQpush_kept
  | qclose => exact execQclose_kept
  | qopen => exact execQopen_kept
  | mmaE4m3 | mmaE5m2 | mmaE2m1 | mmaS8 | mmaS4 | mmaBf16 | mmaF16 | mmaF64 => exact mma_kept
  | mmv => exact execMmv_kept
  | drain => exact execDrain_kept
  | maclr => exact execMaclr_kept
  | mstat => exact execMstat_kept
  | pload => exact execPload_kept
  | pevict => exact execPevict_kept
  | pres => exact execPres_kept
  | pstat => exact execPstat_kept
  | walk => exact execWalk_kept
  | wstat => exact execWstat_kept
  | wcancel => exact execWcancel_kept
  | wqry => exact execWqry_kept
  | lbdef => exact execLbdef_kept
  | ldl => exact execLdl_kept
  | stl => exact execStl_kept
  | lbfree => exact execLbfree_kept
  | fence => exact execFence_kept
  | fencex => exact execFencex_kept
  | tick => exact execTick_kept
  | ticko => exact execTicko_kept
  | pmcfg => exact execPmcfg_kept
  | pmrd => exact execPmrd_kept
  | tdrd => exact execTdrd_kept
  | bankcfg => exact execBankcfg_kept
  | taskbeg => exact execTaskbeg_kept
  | taskend => exact execTaskend_kept
  | taskrng => exact execTaskrng_kept
  | taskq => exact execTaskq_kept
  | migrate => exact execMigrate_kept
  | brk => exact execBrk_kept
  | rpbeg => exact execRpbeg_kept
  | rpend => exact execRpend_kept
  | wscap => exact execWscap_kept
  | wsrst => exact execWsrst_kept
  | setrpc => exact execSetrpc_kept
  | texit => exact execTexit_kept
  | tsvc => exact execTsvc_kept
  | coll => exact execColl_kept
  | signal => exact execSignal_kept
  | translationCheckDone => exact execTranslationCheckDone_kept
  | pageWalkReadArrives => exact execPageWalkReadArrives_kept
  | loadValueArrives => exact execLoadValueArrives_kept
  | l1Fill => exact execL1Fill_kept
  | storeAckDiePoint => exact execStoreAckDiePoint_kept
  | storeAckHome => exact execStoreAckHome_kept
  | requestServedHomeSlice => exact execRequestServedHomeSlice_kept
  | xaddmLinePerformed => exact execXaddmLinePerformed_kept
  | scopeWriteTakesEffect => exact execScopeWriteTakesEffect_kept
  | joinRelease => exact execJoinRelease_kept
  | barrierComplete => exact execBarrierComplete_kept
  | joinSatisfied => exact execJoinSatisfied_kept
  | warpEntersActiveSet => exact execWarpEntersActiveSet_kept
  | binTimerExpire => exact execBinTimerExpire_kept
  | binFormWarp => exact execBinFormWarp_kept
  | blockPlace => exact execBlockPlace_kept
  | swapOut => exact execSwapOut_kept
  | swapIn => exact execSwapIn_kept
  | gridTimeLimit => exact execGridTimeLimit_kept
  | bankModeChangeDone => exact execBankModeChangeDone_kept
  | copyChunkAcked => exact execCopyChunkAcked_kept
  | copyComplete => exact execCopyComplete_kept
  | engineFaultServiceReply => exact execEngineFaultServiceReply_kept
  | mmaKstepEnd => exact execMmaKstepEnd_kept
  | drainStart => exact execDrainStart_kept
  | drainComplete => exact execDrainComplete_kept
  | maclrAtHead => exact execMaclrAtHead_kept
  | parcelLoadComplete => exact execParcelLoadComplete_kept
  | parcelBecomesAbsent => exact execParcelBecomesAbsent_kept
  | walkStart => exact execWalkStart_kept
  | walkRoundEnd => exact execWalkRoundEnd_kept
  | commitOfficeReply => exact execCommitOfficeReply_kept
  | taskCommitStart => exact execTaskCommitStart_kept
  | taskCommitComplete => exact execTaskCommitComplete_kept
  | tsvcReplyResume => exact execTsvcReplyResume_kept
  | tsvcReplyEnd => exact execTsvcReplyEnd_kept
  | comparatorBreakpoint => exact execComparatorBreakpoint_kept
  | debugResume => exact execDebugResume_kept
  | preemptRequest => exact execPreemptRequest_kept
  | coreVacated => exact execCoreVacated_kept
  | contextSwitch => exact execContextSwitch_kept
  | uncorrectableError => exact execUncorrectableError_kept
  | softErrorCorrected => exact execSoftErrorCorrected_kept
  | sccRestart => exact execSccRestart_kept
  | debugStopRequest => exact execDebugStopRequest_kept
  | clockStop => exact execClockStop_kept
  | debugStopRelease => exact execDebugStopRelease_kept
  | watchpointRangeWrite => exact execWatchpointRangeWrite_kept
  | traceRingConfig => exact execTraceRingConfig_kept
  | replayArmed => exact execReplayArmed_kept
  | replayEnforceTimeout => exact execReplayEnforceTimeout_kept
  | capturePageSaved => exact execCapturePageSaved_kept
  | queueSetup => exact execQueueSetup_kept
  | queueReset => exact execQueueReset_kept
  | doorbellWrite => exact execDoorbellWrite_kept
  | packetLaunch => exact execPacketLaunch_kept
  | packetWaitSignal => exact execPacketWaitSignal_kept
  | waitSignalMet => exact execWaitSignalMet_kept
  | packetSetSignal => exact execPacketSetSignal_kept
  | tlbInvalidateRange => exact execTlbInvalidateRange_kept
  | dieOnline => exact execDieOnline_kept
  | dieOffline => exact execDieOffline_kept
  | liveUpdate => exact execLiveUpdate_kept
  | peerAccess => exact execPeerAccess_kept
  | peerFailure => exact execPeerFailure_kept
  | collectiveComplete => exact execCollectiveComplete_kept
  | rdmaWrite => exact execRdmaWrite_kept
  | rdmaRead => exact execRdmaRead_kept
  | rdmaSend => exact execRdmaSend_kept
  | rdmaReceive => exact execRdmaReceive_kept
  | hostRead => exact execHostRead_kept
  | hostWrite => exact execHostWrite_kept
  | attestationRequest => exact execAttestationRequest_kept
  | boot => exact execBoot_kept
  | powerClockStep => exact execPowerClockStep_kept
  | hostVisible => exact execHostVisible_kept
  | restanteWaitTimeout => exact execRestanteWaitTimeout_kept
  | relayBringUp => exact execRelayBringUp_kept
  | queuePairSetup => exact execQueuePairSetup_kept
  | rootTableSet => exact execRootTableSet_kept
  | quotaSet => exact execQuotaSet_kept
  | peerGroupSet => exact execPeerGroupSet_kept
  | hostServiceRegister => exact execHostServiceRegister_kept
  | contextKeyRegister => exact execContextKeyRegister_kept
  | debugSessionAttach => exact execDebugSessionAttach_kept
  | linkEnumeration => exact execLinkEnumeration_kept

/-! ### A step -/

/-- What is chosen keeps both invariants up to the state that it is run on. -/
def Chosen.Kept (s : State) : Chosen → Prop
  | .run _ t | .done t => Machine.Kept s t

namespace Kept

theorem fetchTrap {k w l c x} (h : Kept s t) : Kept s (t.fetchTrap k w l c x) := h.fragTrap

theorem turn {k} (h : Kept s t) : (t.turn k).Kept s := by
  have hc : Kept s { t with cur := some k } := h.frame
  unfold State.turn
  dsimp only
  split
  · exact hc
  · split
    · exact hc
    · exact hc.fetchTrap
    · exact hc.fetchTrap
    · exact hc.fetchTrap
    · exact hc
    · exact hc.issueBy fun _ => trivial

theorem choose1 {ps} (h : Kept s t) : Kept s (t.choose1 ps).2 := by
  unfold State.choose1
  split
  · exact h
  · exact h
  · split
    · exact h.frame
    · exact h.frame

theorem does {p} (h : Kept s t) : (t.does p).Kept s := by
  unfold State.does
  split
  · exact h
  · exact h
  · split
    · dsimp only
      split
      · exact h.frame
      · exact h.frame
    · exact h
  · exact h.turn

theorem frozen (h : Kept s t) : t.frozen.Kept s := by
  unfold State.frozen
  split
  · exact h.frame
  · exact h

theorem chosen (h : Kept s t) : t.chosen.Kept s := by
  unfold State.chosen
  split
  · exact h.frozen
  · have hc : Kept s (t.choose1 t.picks).2 := h.choose1
    generalize t.choose1 t.picks = c at hc ⊢
    exact hc.does

theorem noteOccupancy (h : Kept s t) : Kept s t.noteOccupancy := h.same rfl
theorem settle (h : Kept s t) : Kept s t.settle := h.noteOccupancy.noteTurns.frame

end Kept

theorem Kept.trans (h : Kept s t) (h' : Kept t u) : Kept s u := ⟨h'.mem ∘ h.mem, h'.names ∘ h.names⟩

theorem Out.Kept.settled {o : Out} (h : o.Kept s) : (settled o).Kept s := by
  cases o with
  | next t => exact Kept.settle h
  | fault f => trivial
  | refused r => trivial

theorem Out.Kept.trans {o : Out} (h : Machine.Kept s t) (ho : o.Kept t) : o.Kept s := by
  cases o with
  | next u => exact Machine.Kept.trans h ho
  | fault f => trivial
  | refused r => trivial

theorem step_kept (s : State) : Out.Kept s (step s) := by
  unfold step
  have hc : s.chosen.Kept s := Kept.refl.chosen
  refine Out.Kept.settled ?_
  split
  · next i t e => exact Out.Kept.trans (by rw [e] at hc; exact hc) (exec_kept i t)
  · next t e => rw [e] at hc; exact hc

theorem kept_of_step (h : step s = .next t) : Kept s t := by
  have hk := step_kept s
  rwa [h] at hk

/-- Settles O7: what a step chooses and every instruction keep memory's form and the rising names of the grids. -/
theorem memoryFormKept : Obligations.MemoryFormKept := by
  unfold Obligations.MemoryFormKept
  exact ⟨fun _ _ hs h => (kept_of_step h).mem hs, fun _ _ hs h => (kept_of_step h).names hs⟩

end Sys2Proof.Machine
end
